-- ==== Sys2Proof/Word.lean ====
section
/-! DEFINITION. The number types of the SL-1612: words and bytes of the exchange area, and the numbered things of the
line (spec 00_scope section 5.3). Stations, zones, slots and pages are finite index types; a station's number in the
spec is its index plus one, and a zone's likewise. -/

namespace Sys2Proof

/-- One byte of board memory. -/
abbrev Byte := BitVec 8

/-- One 32-bit word: the unit of the register window and of every exchange area access (R156, R178). -/
abbrev Word := BitVec 32

/-- Station `s` of the spec (1..16) is index `s - 1`. -/
abbrev Station := Fin 16

/-- Oven zone `z` of the spec (1..12) is index `z - 1`. -/
abbrev Zone := Fin 12

/-- Order slot 0..63. -/
abbrev Slot := Fin 64

/-- Curve page 0..7. -/
abbrev Page := Fin 8

/-- A station set as the host sees it: station `s` in bit `s - 1` (R178). -/
abbrev StationSet := BitVec 16

/-- Whether a station is in a set. -/
def inSet (m : StationSet) (i : Station) : Bool := m.getLsbD i.val

/-- The set holding one station. -/
def oneSet (i : Station) : StationSet := 1#16 <<< i.val

/-- A set with one station added. -/
def addTo (m : StationSet) (i : Station) : StationSet := m ||| oneSet i

/-- The stations of `a` that are not in `b`. -/
def minusSet (a b : StationSet) : StationSet := a &&& ~~~b

/-- The station number that reports and results carry: 1..16. -/
def stationNo (i : Station) : Nat := i.val + 1

/-- The zone number that reports carry: 1..12. -/
def zoneNo (z : Zone) : Nat := z.val + 1

/-- All sixteen stations in ascending order. -/
def stationList : List Station := [0, 1, 2, 3, 4, 5, 6, 7, 8, 9, 10, 11, 12, 13, 14, 15]

/-- All twelve zones in ascending order. -/
def zoneList : List Zone := [0, 1, 2, 3, 4, 5, 6, 7, 8, 9, 10, 11]

/-- A natural number as a word, modulo 2^32. -/
def wordOfNat (n : Nat) : Word := BitVec.ofNat 32 n

/-- A signed number as a word, in two's complement (R178). -/
def wordOfInt (n : Int) : Word := BitVec.ofInt 32 n

end Sys2Proof
end

