-- ==== Sys2Proof/Syntax.lean ====
section
/-! DEFINITION. The commands of the SL-1612: one constructor per row of spec/opcode_table.json, with the operands that
the row's rule reads. The operand types carry every value that the port or register can carry. -/

namespace Sys2Proof

/-- The two encoder inputs (00_scope section 4). -/
inductive Encoder where
  | print
  | oven
  deriving DecidableEq, Repr

/-- The two sensors of a station port. -/
inductive Sensor where
  | up
  | down
  deriving DecidableEq, Repr

/-- What a frame of the oven zone link carries (R115). -/
inductive FrameLoad where
  | sample (t : BitVec 16)
  | sensorFault
  | corrupt
  deriving DecidableEq, Repr

/-- The two registers whose writes are ignored (R170). -/
inductive ReadOnlyReg where
  | status
  | events
  deriving DecidableEq, Repr

/-- What brings the part to its reset values (R177). -/
inductive ResetCause where
  | powerOn
  | pin
  deriving DecidableEq, Repr

/-- One command: a row of the table of operations and events. -/
inductive Instr where
  /-- PRINT_FORWARD_COUNT (R1). -/
  | printForwardCount
  /-- OVEN_FORWARD_COUNT (R1). -/
  | ovenForwardCount
  /-- REVERSE_COUNT (R2): the encoder it came from. -/
  | reverseCount (enc : Encoder)
  /-- SEAM_LEVEL_CHANGE (R56): the new level. -/
  | seamLevelChange (level : Bool)
  /-- STATION_SENSOR_CHANGE (R74): station, sensor and its new level. -/
  | stationSensorChange (st : Station) (sensor : Sensor) (level : Bool)
  /-- MARK_EDGE (R106). -/
  | markEdge
  /-- ZONE_FRAME (R115): zone number 0..255 and load. -/
  | zoneFrame (zone : BitVec 8) (load : FrameLoad)
  /-- RESET (R177). -/
  | reset (cause : ResetCause)
  /-- RESET_RELEASE (R177). -/
  | resetRelease
  /-- ACTUATION_TIMER_EXPIRY (R72, R73): the channel whose timer expires. -/
  | actuationTimerExpiry (st : Station)
  /-- EVALUATION_TIMER_EXPIRY (R107). -/
  | evaluationTimerExpiry
  /-- DOSE_INTERVAL_EXPIRY (R121). -/
  | doseIntervalExpiry
  /-- SETBACK_TIMER_EXPIRY (R126). -/
  | setbackTimerExpiry
  /-- STANDSTILL_TIMER_EXPIRY (R150). -/
  | standstillTimerExpiry
  /-- STALE_TIMER_EXPIRY (R116): the zone whose timer expires. -/
  | staleTimerExpiry (z : Zone)
  /-- MEMORY_ACCESS_TIMEOUT (R161). -/
  | memoryAccessTimeout
  /-- MEMORY_ACCESS_DONE (R159). For a read, `host` is the word that the host has put at the address since the part
  last accessed it, and `none` when the host has not written there (log entry 2). A write ignores it. -/
  | memoryAccessDone (host : Option Word)
  /-- TRANSACTION_START (R160). -/
  | transactionStart
  /-- CLOSE_OUT (R17). -/
  | closeOut
  /-- LOAD_PROFILE (R172). -/
  | loadProfile
  /-- UNLOAD (R176). -/
  | unload
  /-- SIGNAL (R32). -/
  | signal
  /-- HOLD (R153). -/
  | hold
  /-- RESUME (R153). -/
  | resume
  /-- ABORT_ORDER (R43). -/
  | abortOrder
  /-- CLEAR_FAULT (R154). -/
  | clearFault
  /-- LIFT_SET (R80): the operand's station set. -/
  | liftSet (set : StationSet)
  /-- LIFT_CLEAR (R80): the operand's station set. -/
  | liftClear (set : StationSet)
  /-- TRIM (R90): station number field (bits 8..12) and signed operand (bits 16..31) of COMMAND (R184). -/
  | trim (st : BitVec 5) (delta : BitVec 16)
  /-- EXBASE_WRITE (R167). -/
  | exbaseWrite (value : Word)
  /-- RETIRE_WRITE (R165). -/
  | retireWrite (value : Word)
  /-- EVENTS_READ (R169). -/
  | eventsRead
  /-- REGISTER_WRITE_IGNORED (R170): the register written and the value. -/
  | registerWriteIgnored (reg : ReadOnlyReg) (value : Word)
  /-- COMMAND_CODE_UNDEFINED (R171): the code written, which names no command. -/
  | commandCodeUndefined (code : BitVec 8)
  deriving DecidableEq, Repr

end Sys2Proof
end

