-- ==== Sys2Proof/Decode.lean ====
section
/-! DEFINITION. The words that spell a command: those written to COMMAND, in R184's layout. spec/opcode_table.json gives no row
any bits of its own, and the other rows come to the part at its ports, its clocks and its other registers; no word spells them. -/

namespace Sys2Proof

/-- The command that a word written to COMMAND spells: the code in bits 0..7, the station number in bits 8..12, the operand in
bits 16..31; code 0 and codes 11..255 name no command (R184). -/
def commandOfWord (w : Word) : Instr :=
  match (w.extractLsb' 0 8).toNat with
  | 1 => .loadProfile
  | 2 => .unload
  | 3 => .signal
  | 4 => .hold
  | 5 => .resume
  | 6 => .abortOrder
  | 7 => .clearFault
  | 8 => .liftSet (w.extractLsb' 16 16)
  | 9 => .liftClear (w.extractLsb' 16 16)
  | 10 => .trim (w.extractLsb' 8 5) (w.extractLsb' 16 16)
  | _ => .commandCodeUndefined (w.extractLsb' 0 8)

/-- The command that a word spells: a word of 32 bits is one written to COMMAND (R184). No row of the table gives bits, so words
of other widths spell none (log entry 31). -/
def decodeTableWord (nbits w : Nat) : Option Instr :=
  if nbits = 32 then some (commandOfWord (BitVec.ofNat 32 w)) else none

end Sys2Proof
end

