-- ==== Sys2Proof/Config.lean ====
section
/-! DEFINITION. What the SL-1612 fixes for every profile (each constant cites its rule), and the free values: opaque
constants for what the spec leaves open, which nothing in Lean can evaluate (log entries 4, 5 and 6). -/

namespace Sys2Proof.Config

/-- Greatest P and Q, µm: 2^48 − 1 (R3). -/
def positionLimit : Nat := 281474976710655

/-- Greatest reverse debt, µm (R2). -/
def debtLimit : Nat := 65535

/-- Greatest underrun episode total, µm (R6), greatest dose, mu (R121), and greatest tally (R138). -/
def wordLimit : Nat := 4294967295

/-- Records the web map can hold (R11, R13). -/
def mapCapacity : Nat := 2048

/-- The last serial that can be given (R11). -/
def lastSerial : Nat := 4294967295

/-- Distance of the confirm point before an order's end, µm (R31). -/
def confirmDistance : Nat := 50000

/-- Debounce travel of the seam detector, µm (R56). -/
def debounceTravel : Nat := 2000

/-- Entries of the seam queue (R59, R60). -/
def seamCapacity : Nat := 4

/-- Schedules the mark reader can hold (R102). -/
def scheduleCapacity : Nat := 8

/-- Build lead beyond the window and the correction range, µm (R102). -/
def buildLead : Nat := 10000

/-- Greatest magnitude of a trim, µm (R89). -/
def trimLimit : Int := 50000

/-- Highest zone temperature, 0.1 °C (R115). -/
def peakLimit : Nat := 3000

/-- Report postings that may wait in the request queue (R160). -/
def waitingLimit : Nat := 48

/-- Slots of the report ring (R163). -/
def ringSlots : Nat := 256

/-- Interval of the memory access timer, ms (R159). -/
def accessTime : Nat := 1

/-- Greatest lost count (R164). -/
def lostLimit : Nat := 65535

/-- Greatest EXBASE that a write may set (R167). -/
def exbaseLimit : Nat := 0xFFFE9000

/-- Greatest festoon content that STATUS shows, units of 10 mm (R5). -/
def festoonShown : Nat := 65535

/-- Greatest cure limit of an order, u (R27). -/
def cureLimit : Nat := 4294967

/-- FREE VALUE. The value of a report field that no rule states (log entry 4), by draw and by field. -/
opaque unstatedField : Nat → Nat → Word

/-- FREE VALUE. The station-or-zone word of a report where no rule states it, within 0..16 (R182; log entry 4), by draw. -/
opaque unstatedStation : Nat → Fin 17

/-- FREE VALUE. Whether a write access that timed out reached the memory (R161: it may or may not have; log entry 5),
by draw. -/
opaque lostWriteLands : Nat → Bool

/-- FREE VALUE. The order in which the blocks take thresholds that share one print position (log entry 6), by draw and
by block: the lower key is taken first. -/
opaque tieKey : Nat → Nat → Nat

end Sys2Proof.Config
end

