-- ==== Sys2Proof/Machine/State.lean ====
section
/-! DEFINITION. The state of the SL-1612: one structure per functional block (spec 00_scope section 3), the input pins,
the board memory of the exchange area, and the queue of waiting commands. Plain data throughout. -/

namespace Sys2Proof.Machine

/-- A timer: stopped, or running since the line clock at which its present interval began. The spec's timers are named by
what they time; their expiries are commands (log entry 3). -/
inductive Timer where
  | stopped
  | running (since : Word)
  deriving DecidableEq, Repr

/-! ### Orders -/

/-- Order kinds (R25, R26, R181). -/
inductive OrderKind where
  | print
  | proof
  | blank
  | halt
  deriving DecidableEq, Repr

/-- Fabric kinds of a segment record (R10). -/
inductive FabricKind where
  | print
  | proof
  | blank
  | runOut
  deriving DecidableEq, Repr

/-- Tail dispositions (R25). -/
inductive Tail where
  | runOut
  | hold
  deriving DecidableEq, Repr

/-- End conditions (R25). -/
inductive EndCondition where
  | count
  | seam
  deriving DecidableEq, Repr

/-- A zone mark as an order carries it: position in mm from the origin, lift mask, pressure (R25). -/
structure ZoneMark where
  position : Nat
  lift : StationSet
  pressure : BitVec 3
  deriving DecidableEq, Repr

/-- The fields of an order body (R25, R26, R180). `length` is R in µm for PRINT and PROOF, and mm for BLANK. -/
structure Order where
  kind : OrderKind
  tag : Word
  length : Nat
  count : Nat
  set : StationSet
  overrun : Nat
  lift : StationSet
  pressure : BitVec 3
  page : Page
  dMin : Nat
  dMax : Nat
  tolerance : Nat
  markCount : Nat
  marks : List ZoneMark
  endCondition : EndCondition
  tail : Tail
  deriving DecidableEq, Repr

/-- Refusal reasons of an order, in the order of the checks of R27; PROOF_TOLERANCE comes after all others. -/
inductive OrderRefusal where
  | kindUnknown
  | tagZero
  | tagInUse
  | setEmpty
  | stationOutOfService
  | stationFaulted
  | repeatMismatch
  | countRange
  | lengthRange
  | cureLimits
  | zoneCount
  | zoneOrder
  | proofTolerance
  deriving DecidableEq, Repr

/-- Outcomes of an order (R44). -/
inductive OrderOutcome where
  | complete
  | short
  | long
  | proofFailed
  | aborted
  | abandoned
  deriving DecidableEq, Repr

/-- The seven defect classes (R133), each present or absent. -/
structure DefectSet where
  missingColour : Bool := false
  stopMark : Bool := false
  register : Bool := false
  seam : Bool := false
  undercured : Bool := false
  overcured : Bool := false
  unverified : Bool := false
  deriving DecidableEq, Repr

/-- One count per defect class (R46, R138). -/
structure DefectCounts where
  missingColour : Nat := 0
  stopMark : Nat := 0
  register : Nat := 0
  seam : Nat := 0
  undercured : Nat := 0
  overcured : Nat := 0
  unverified : Nat := 0
  deriving DecidableEq, Repr

/-- A record of the in-flight order table (R36, R46). -/
structure InFlight where
  slot : Slot
  order : Order
  /-- Print position at which the order's fabric begins, µm. -/
  origin : Nat
  /-- The order's end as OS holds it, µm (R40). -/
  finish : Nat
  /-- Set when the print position has reached the end, or an abort has fixed it. -/
  ended : Bool
  late : Bool
  aborted : Bool
  /-- The seam that sets the seam end, by its seam position, and that end (R41). -/
  seamEnd : Option (Nat × Nat)
  /-- The end that a failed proof set (R42). -/
  proofEnd : Option Nat
  /-- Failing repeat and station of a failed PROOF (R42, R46). -/
  proofFailure : Option (Nat × Station)
  firstSerial : Nat
  lastSerial : Nat
  segments : Nat
  accepted : Nat
  classes : DefectCounts
  worst : Nat
  /-- Station number of the worst error; 0 for none (R139). -/
  worstStation : Nat
  /-- ORDER_PRINTED has been posted (R45). -/
  printed : Bool
  /-- The close writes are queued or in hand (R48). -/
  closing : Bool
  deriving DecidableEq, Repr

/-- Next-order status (Chapter 2). -/
inductive NextStatus where
  | empty
  | reading
  | held
  | confirming
  | settled
  | barred
  deriving DecidableEq, Repr

/-- The Order Sequencer's state (Chapter 2, R50). -/
structure OrderSequencer where
  next : Slot
  /-- The entry order, by the slot of its in-flight record. -/
  entry : Option Slot
  status : NextStatus
  /-- The slot read that is READING has been at the confirm point: R31 has it go on, to end by the third column of R30. Set at
  that point, and made afresh by the start of each slot read; it has no meaning with another status. -/
  pastConfirm : Bool
  copy : Option Order
  table : List InFlight
  deriving DecidableEq, Repr

/-! ### Fabric -/

/-- A segment record (R10). Positions and length in µm, limits in u, dose in mu. -/
structure Segment where
  serial : Nat
  length : Nat
  pEnd : Nat
  tag : Word
  slot : Option Slot
  kind : FabricKind
  required : StationSet
  pressure : BitVec 3
  seam : Bool
  page : Page
  dMin : Nat
  dMax : Nat
  printed : StationSet
  stopMarks : StationSet
  registerDefect : Bool
  dose : Nat
  peak : Nat
  stale : Bool
  overcure : Bool
  verdict : Option DefectSet
  deriving DecidableEq, Repr

/-- A stretch of reverse motion on one encoder (R2): none open, open, or open with its REVERSE_LIMIT posted. -/
inductive ReverseStretch where
  | none
  | open
  | limited
  deriving DecidableEq, Repr

/-- The Web Tracker's state (R19). -/
structure WebTracker where
  p : Nat
  q : Nat
  k : Nat
  /-- P_c, the position of the last cut. -/
  lastCut : Nat
  printDebt : Nat
  ovenDebt : Nat
  printReverse : ReverseStretch
  ovenReverse : ReverseStretch
  /-- The web map, oldest record first. -/
  map : List Segment
  nextSerial : Nat
  /-- A tracking loss is open (R13). -/
  lost : Bool
  /-- The total of the open underrun episode (R6). -/
  underrun : Option Nat
  overfillArmed : Bool
  limitPosted : Bool
  /-- The exit horizon last given to OS (R18). -/
  horizon : Option Nat
  deriving DecidableEq, Repr

/-- Kinds of pending cut entries (R52). A zone mark names its mark table record, a seam edge its seam queue entry by
the entry's seam position. -/
inductive CutKind where
  | orderEnd
  | zoneMark (index : Nat)
  | seamStart (seam : Nat)
  | seamEnd (seam : Nat)
  deriving DecidableEq, Repr

/-- An entry of the pending cut list (R52). -/
structure CutEntry where
  kind : CutKind
  position : Nat
  deriving DecidableEq, Repr

/-- A record of the mark table (R54): absolute position, attributes, and whether it is APPLIED. -/
structure MarkRecord where
  position : Nat
  lift : StationSet
  pressure : BitVec 3
  applied : Bool
  deriving DecidableEq, Repr

/-- Seam detector states (R56). -/
inductive DetectorState where
  | idle
  | rising
  | latched
  | clearing
  deriving DecidableEq, Repr

/-- A seam queue entry (section 3.4): `open` after its SEAM_START cut. -/
structure SeamEntry where
  position : Nat
  zoneStart : Nat
  zoneEnd : Nat
  opened : Bool
  deriving DecidableEq, Repr

/-- The Cut Planner's state (R64). -/
structure CutPlanner where
  pending : List CutEntry
  marks : List MarkRecord
  detector : DetectorState
  risePosition : Nat
  travel : Nat
  seams : List SeamEntry
  lift : StationSet
  pressure : BitVec 3
  inside : Bool
  deriving DecidableEq, Repr

/-! ### Stations -/

/-- Channel states (R65). -/
inductive ChannelState where
  | out
  | lifted
  | lowering
  | engaged
  | lifting
  | faulted
  deriving DecidableEq, Repr

/-- Station fault reasons (R71, R182). -/
inductive StationFault where
  | lowerTimeout
  | liftTimeout
  | downLost
  | upLost
  | senseConflict
  deriving DecidableEq, Repr

/-- A closed stretch as the Station Controller holds it (R66): start, end, and the record's serial if it has one. -/
structure Stretch where
  start : Nat
  finish : Nat
  serial : Option Nat
  deriving DecidableEq, Repr

/-- One station channel (Chapter 4). LIFT and PASTE follow from the state (R65: `liftDown`, `pasteOn` in Flags.lean). -/
structure Channel where
  state : ChannelState
  reason : Option StationFault
  pendingLower : Bool
  lastRequired : Bool
  timer : Timer
  manual : Bool
  pressure : BitVec 3
  /-- Stretches whose lead point is still ahead, oldest first. -/
  leads : List Stretch
  /-- Stretches whose station point is still ahead, oldest first. -/
  points : List Stretch
  deriving DecidableEq, Repr

/-! ### Register phasing -/

/-- The Phase Unit's state of one station (Chapter 5). -/
structure PhaseStation where
  base : Int
  trim : Int
  correction : Int
  origin : Nat
  captured : Bool
  settle : Option Nat
  limitFlag : Bool
  target : Nat
  deriving DecidableEq, Repr

/-- A record of the Phase Unit's order list (Chapter 5). -/
structure PhaseOrder where
  tag : Word
  origin : Nat
  length : Nat
  set : StationSet
  key : Option Station
  join : StationSet
  captureFails : StationSet
  deriving DecidableEq, Repr

/-- The Phase Unit's state (R99). -/
structure PhaseUnit where
  stations : Vector PhaseStation 16
  orders : List PhaseOrder
  lastSet : StationSet
  /-- Origins of the reference switches set and not yet met by every station (R87), in take order. -/
  switches : List Nat
  deriving DecidableEq, Repr

/-! ### Mark reader -/

/-- A build cursor (R102). -/
structure Cursor where
  tag : Word
  origin : Nat
  length : Nat
  set : StationSet
  key : Option Station
  index : Nat
  deriving DecidableEq, Repr

/-- Entry states (Chapter 6). -/
inductive EntryState where
  | waiting
  | opened
  | evaluating
  | found
  | missed
  | skipped
  | dropped
  deriving DecidableEq, Repr

/-- A schedule entry (R103). Intended, predicted and measured positions are fabric coordinates of the order, which can be
negative; the opening and closing positions are print positions. -/
structure ScheduleEntry where
  station : Station
  intended : Int
  predicted : Int
  opensAt : Int
  closesAt : Int
  state : EntryState
  measured : Option Int
  deriving DecidableEq, Repr

/-- A window schedule (Chapter 6). -/
structure Schedule where
  tag : Word
  origin : Nat
  length : Nat
  key : Option Station
  index : Nat
  entries : List ScheduleEntry
  deriving DecidableEq, Repr

/-- Reader states (R104). -/
inductive ReaderState where
  | idle
  | opened
  | evaluating
  deriving DecidableEq, Repr

/-- The current entry of the reader: order tag, repeat index and station. -/
structure CurrentEntry where
  tag : Word
  index : Nat
  station : Station
  deriving DecidableEq, Repr

/-- The Mark Reader's state (R113). -/
structure MarkReader where
  cursors : List Cursor
  schedules : List Schedule
  reader : ReaderState
  current : Option CurrentEntry
  timer : Timer
  misses : Vector Nat 16
  deriving DecidableEq, Repr

/-! ### Cure, close-out, supervision -/

/-- One oven zone's measured state (R116). -/
structure ZoneState where
  temperature : Nat
  fresh : Bool
  timer : Timer
  deriving DecidableEq, Repr

/-- The Cure Integrator's state (R130); its zone table and curve pages are in the profile. -/
structure CureIntegrator where
  zones : Vector ZoneState 12
  doseTimer : Timer
  setbackTimer : Timer
  setback : Bool
  setbackStart : Word
  /-- Alert flags, slot `i` in bit `i`. -/
  alerts : BitVec 64
  deriving DecidableEq, Repr

/-- The open defect run (Chapter 8). -/
structure DefectRun where
  slot : Option Slot
  tag : Word
  firstSerial : Nat
  count : Nat
  defects : DefectSet
  deriving DecidableEq, Repr

/-- Close-out: the open run, and the serial of the segment whose close-out waits at step 3 for its quality map write. -/
structure CloseOutState where
  run : Option DefectRun
  waiting : Option Nat
  deriving DecidableEq, Repr

/-- Line states (R144). -/
inductive LineState where
  | unloaded
  | loading
  | ready
  | printing
  deriving DecidableEq, Repr

/-- The hold causes (R145). -/
inductive HoldCause where
  | host
  | order
  | festoon
  | standstill
  | fault
  deriving DecidableEq, Repr

/-- A set of hold causes (R145). -/
structure HoldSet where
  host : Bool := false
  order : Bool := false
  festoon : Bool := false
  standstill : Bool := false
  fault : Bool := false
  deriving DecidableEq, Repr

/-- Fault reasons (R152). -/
inductive FaultReason where
  | stationLift
  | seamLost
  | festoonOverfill
  | trackingLost
  | busFault
  deriving DecidableEq, Repr

/-- The Line Controller's state (R155). -/
structure LineController where
  line : LineState
  holds : HoldSet
  holdStart : Word
  firstFault : Option FaultReason
  engaged : Bool
  standstill : Timer
  permit : Bool
  deriving DecidableEq, Repr

/-! ### Exchange interface -/

/-- Report kinds (R182). -/
inductive ReportKind where
  | profileLoaded
  | profileRejected
  | orderTaken
  | orderRefused
  | orderPrinted
  | orderClosed
  | seamSeen
  | seamLost
  | holdOn
  | holdOff
  | stationFault
  | captureFail
  | registerLimit
  | markLost
  | overcureAlert
  | zoneStale
  | zoneFresh
  | setbackOn
  | setbackOff
  | underrun
  | trackingLost
  | reverseLimit
  | defectRun
  | busFault
  | gap
  deriving DecidableEq, Repr

/-- A report as it waits in the request queue: the seven words before the sequence word (R163). -/
structure Posting where
  kind : ReportKind
  tag : Word
  station : Word
  serial : Word
  clock : Word
  first : Word
  second : Word
  deriving DecidableEq, Repr

/-- What ORDER_CLOSED will carry when the close writes are done (R48). -/
structure CloseReport where
  tag : Word
  lastSerial : Nat
  outcome : OrderOutcome
  deriving DecidableEq, Repr

/-- The transactions of R160. Write transactions carry the words that they will write. -/
inductive Transaction where
  | profileRead
  | slotRead (slot : Slot)
  | confirmRead (slot : Slot)
  | takeWrite (slot : Slot)
  | closeWrite (slot : Slot) (words : List Word) (report : CloseReport)
  | abandonWrite (slot : Slot) (words : List Word)
  | mapWrite (serial : Nat) (words : List Word)
  | report (posting : Posting)
  deriving DecidableEq, Repr

/-- What a completed write means to the report ring: nothing, a GAP record complete, a record complete. -/
inductive AccessMark where
  | plain
  | gapDone
  | recordDone
  deriving DecidableEq, Repr

/-- One word access: its offset in the exchange area, and the word it writes or `none` for a read. -/
structure Access where
  offset : Nat
  write : Option Word
  mark : AccessMark
  deriving DecidableEq, Repr

/-- How far a slot read has come (R29, R28). -/
inductive SlotStage where
  | stateWord
  | kindWord
  | body
  | recheck
  | refusing
  deriving DecidableEq, Repr

/-- The transaction in hand: the access in hand with its bus address, the accesses already known to follow it, the
words read so far (offset and word, newest first), the stage of a slot read, and whether its requester has discarded it. -/
structure InHand where
  transaction : Transaction
  access : Access
  address : Word
  rest : List Access
  got : List (Nat × Word)
  stage : SlotStage
  discarded : Bool
  /-- A report posting that its own GAP record will leave no room for (R164). -/
  loseAfterGap : Bool
  deriving DecidableEq, Repr

/-- The access that timed out, kept for the BUS_FAULT report (R161). -/
structure HeldFault where
  offset : Nat
  write : Bool
  clock : Word
  deriving DecidableEq, Repr

/-- The Exchange Interface's state (R166). -/
structure ExchangeInterface where
  queue : List Transaction
  inHand : Option InHand
  timer : Timer
  written : BitVec 16
  retired : BitVec 16
  lost : Nat
  firstLoss : Word
  suspended : Bool
  held : Option HeldFault
  deriving DecidableEq, Repr

/-- The causes of EVENTS (R169). -/
structure Events where
  report : Bool := false
  gap : Bool := false
  hold : Bool := false
  fault : Bool := false
  cmdDone : Bool := false
  cmdRefused : Bool := false
  writeIgnored : Bool := false
  deriving DecidableEq, Repr

/-! ### Profile -/

/-- A station entry of the profile, in µm (R179). -/
structure StationProfile where
  inService : Bool
  distance : Nat
  lead : Nat
  circumference : Nat
  base : Int
  markOffset : Nat
  deriving DecidableEq, Repr

/-- The line profile as the blocks hold it: lengths in µm, times as the profile gives them, zones as (start, end) and
curve pages as points (T, r). -/
structure Profile where
  printResolution : Nat
  ovenResolution : Nat
  segmentLength : Nat
  tableExit : Nat
  festoonCapacity : Nat
  festoonFill : Nat
  ovenLength : Nat
  seamDistance : Nat
  guardBefore : Nat
  guardAfter : Nat
  seamSpacing : Nat
  actuationTimeout : Nat
  correctionRange : Nat
  captureLimit : Nat
  deadband : Nat
  gain : Nat
  maxStep : Nat
  readerDistance : Nat
  window : Nat
  tolerance : Nat
  missLimit : Nat
  evaluationTime : Nat
  zones : List (Nat × Nat)
  doseExponent : Nat
  staleLimit : Nat
  setbackDelay : Nat
  dMin : Nat
  dMax : Nat
  standstillTime : Nat
  highMark : Nat
  resumeMark : Nat
  stations : Vector StationProfile 16
  pages : Vector (List (Nat × Nat)) 8
  deriving DecidableEq, Repr

/-! ### Pins, memory, the whole -/

/-- The input pins that carry levels. -/
structure Pins where
  resetAsserted : Bool
  seamLevel : Bool
  upSense : StationSet
  downSense : StationSet
  deriving DecidableEq, Repr

/-- Board memory: (address, byte) pairs with rising addresses; a byte not listed reads as 0 (log entry 2). -/
abbrev Memory := List Host.Cell

/-- The whole machine. -/
structure State where
  /-- The line clock, ms (00_scope section 5.5). -/
  clock : Word
  lc : LineController
  wt : WebTracker
  cp : CutPlanner
  os : OrderSequencer
  sc : Vector Channel 16
  pu : PhaseUnit
  mr : MarkReader
  ci : CureIntegrator
  co : CloseOutState
  xi : ExchangeInterface
  /-- The profile fields that the blocks took at the last completed load. -/
  prof : Profile
  exbase : Word
  events : Events
  /-- Command busy (R171). -/
  busy : Bool
  /-- The word that the last register read returned: the model's own field (log entry 10). -/
  busRead : Word
  pins : Pins
  mem : Memory
  /-- The model's own counter of free values drawn (log entry 4). -/
  draws : Nat
  /-- Commands waiting, first in, first out. -/
  pending : List Instr
  deriving DecidableEq, Repr

/-- Reasons for which the part stops. The spec names none: every event the SL-1612 meets leaves it running, so the type
has no constructor and no command ends in a fault (safe). -/
inductive Fault where
  deriving DecidableEq, Repr

/-- Reasons for which the model gives a term no meaning. -/
inductive Refusal where
  /-- Raised by an arm of exec whose command has no meaning yet; safe. -/
  | notModelled (mnemonic : String)
  /-- Raised by exec for a term that no write of the host can be: COMMAND_CODE_UNDEFINED with a code that names a
  command (WellFormed refuses it). Safe: no command of the table is turned away. -/
  | illFormed
  deriving DecidableEq, Repr

/-! ### Reset values -/

/-- A station entry of no profile. -/
def noStation : StationProfile :=
  { inService := false, distance := 0, lead := 0, circumference := 0, base := 0, markOffset := 0 }

/-- The profile fields with no profile loaded: no station in service, an empty zone table, eight undefined pages (R83,
R130). DESIGN CHOICE: every other field is 0 (log entry 1). -/
def noProfile : Profile :=
  { printResolution := 0, ovenResolution := 0, segmentLength := 0, tableExit := 0, festoonCapacity := 0,
    festoonFill := 0, ovenLength := 0, seamDistance := 0, guardBefore := 0, guardAfter := 0, seamSpacing := 0,
    actuationTimeout := 0, correctionRange := 0, captureLimit := 0, deadband := 0, gain := 0, maxStep := 0,
    readerDistance := 0, window := 0, tolerance := 0, missLimit := 0, evaluationTime := 0, zones := [],
    doseExponent := 0, staleLimit := 0, setbackDelay := 0, dMin := 0, dMax := 0, standstillTime := 0,
    highMark := 0, resumeMark := 0, stations := Vector.replicate 16 noStation, pages := Vector.replicate 8 [] }

/-- R19. -/
def resetTracker : WebTracker :=
  { p := 0, q := 0, k := 0, lastCut := 0, printDebt := 0, ovenDebt := 0, printReverse := .none,
    ovenReverse := .none, map := [], nextSerial := 1, lost := false, underrun := none, overfillArmed := true,
    limitPosted := false, horizon := none }

/-- R64, first column. DESIGN CHOICE: the rise position and the travel, which no rule gives, are 0 (log entry 1). -/
def resetPlanner : CutPlanner :=
  { pending := [], marks := [], detector := .idle, risePosition := 0, travel := 0, seams := [], lift := 0#16,
    pressure := 0#3, inside := false }

/-- R50. -/
def resetSequencer : OrderSequencer :=
  { next := 0, entry := none, status := .empty, pastConfirm := false, copy := none, table := [] }

/-- R83. -/
def resetChannel : Channel :=
  { state := .out, reason := none, pendingLower := false, lastRequired := false, timer := .stopped,
    manual := false, pressure := 0#3, leads := [], points := [] }

/-- R99. -/
def resetPhaseStation : PhaseStation :=
  { base := 0, trim := 0, correction := 0, origin := 0, captured := false, settle := none, limitFlag := false,
    target := 0 }

/-- R99. -/
def resetPhaseUnit : PhaseUnit :=
  { stations := Vector.replicate 16 resetPhaseStation, orders := [], lastSet := 0#16, switches := [] }

/-- R113. -/
def resetReader : MarkReader :=
  { cursors := [], schedules := [], reader := .idle, current := none, timer := .stopped,
    misses := Vector.replicate 16 0 }

/-- R130. -/
def resetZone : ZoneState := { temperature := 0, fresh := false, timer := .stopped }

/-- R130. -/
def resetCure : CureIntegrator :=
  { zones := Vector.replicate 12 resetZone, doseTimer := .stopped, setbackTimer := .stopped, setback := true,
    setbackStart := 0#32, alerts := 0#64 }

/-- R143. -/
def resetCloseOut : CloseOutState := { run := none, waiting := none }

/-- R155, first column. -/
def resetLine : LineController :=
  { line := .unloaded, holds := {}, holdStart := 0#32, firstFault := none, engaged := false,
    standstill := .stopped, permit := false }

/-- R166. -/
def resetExchange : ExchangeInterface :=
  { queue := [], inHand := none, timer := .stopped, written := 0#16, retired := 0#16, lost := 0,
    firstLoss := 0#32, suspended := false, held := none }

/-- The machine right after power-on with the RESET pin not asserted (R177). DESIGN CHOICE: the levels at the input pins,
which the spec does not give, are low (log entry 1). -/
def State.reset : State :=
  { clock := 0#32, lc := resetLine, wt := resetTracker, cp := resetPlanner, os := resetSequencer,
    sc := Vector.replicate 16 resetChannel, pu := resetPhaseUnit, mr := resetReader, ci := resetCure,
    co := resetCloseOut, xi := resetExchange, prof := noProfile, exbase := 0#32, events := {}, busy := false,
    busRead := 0#32,
    pins := { resetAsserted := false, seamLevel := false, upSense := 0#16, downSense := 0#16 },
    mem := [], draws := 0, pending := [] }

end Sys2Proof.Machine
end

