-- ==== Sys2Proof/Machine/Memory.lean ====
section
/-! DEFINITION. Board memory: bytes at addresses, in canonical form (strictly rising addresses, no byte listed that an
unlisted address would read as), and the little-endian words of the exchange area (R156, R178). -/

namespace Sys2Proof.Machine

/-- What a byte that nothing has written reads as. DESIGN CHOICE (log entry 2). -/
def unwrittenByte : Byte := 0#8

/-- The canonical form of a memory. -/
def Memory.wf : Memory → Bool
  | [] => true
  | c :: rest => c.2 != unwrittenByte && rest.all (fun d => decide (c.1 < d.1)) && Memory.wf rest

/-- One byte. -/
def readByte (m : Memory) (a : Nat) : Byte :=
  match m.find? (fun c => c.1 == a) with
  | some c => c.2
  | none => unwrittenByte

/-- A memory with one byte written; writing the unlisted byte removes the entry. -/
def writeByte : Memory → Nat → Byte → Memory
  | [], a, v => if v = unwrittenByte then [] else [(a, v)]
  | c :: rest, a, v =>
    if a < c.1 then (if v = unwrittenByte then c :: rest else (a, v) :: c :: rest)
    else if a = c.1 then (if v = unwrittenByte then rest else (a, v) :: rest)
    else c :: writeByte rest a v

/-- Byte `i` of a word, byte 0 the least significant. -/
def byteOf (w : Word) (i : Nat) : Byte := w.extractLsb' (8 * i) 8

/-- The word at an address, least significant byte at the lowest address (R178). -/
def readWord (m : Memory) (a : Nat) : Word :=
  readByte m (a + 3) ++ readByte m (a + 2) ++ readByte m (a + 1) ++ readByte m a

/-- A memory with one word written (R178). -/
def writeWord (m : Memory) (a : Nat) (w : Word) : Memory :=
  writeByte (writeByte (writeByte (writeByte m a (byteOf w 0)) (a + 1) (byteOf w 1)) (a + 2) (byteOf w 2)) (a + 3)
    (byteOf w 3)

end Sys2Proof.Machine
end

