-- ==== Sys2Proof/Machine/Flags.lean ====
section
/-! DEFINITION. The sets of the part and their words: hold causes, defect classes, event causes and codes (R178, R181,
R182, R184), and the outputs that follow from a channel's state (R65). -/

namespace Sys2Proof.Machine

/-- One bit of a mask. -/
def bitOf (b : Bool) (i : Nat) : Nat := if b then 2 ^ i else 0

/-! ### Hold causes (R145, R178) -/

/-- The set holding one cause. -/
def holdOf (c : HoldCause) : HoldSet :=
  match c with
  | .host => { host := true }
  | .order => { order := true }
  | .festoon => { festoon := true }
  | .standstill => { standstill := true }
  | .fault => { fault := true }

/-- Whether any cause stands. -/
def HoldSet.any (h : HoldSet) : Bool := h.host || h.order || h.festoon || h.standstill || h.fault

/-- Whether a cause is in the set. -/
def HoldSet.has (h : HoldSet) (c : HoldCause) : Bool :=
  match c with
  | .host => h.host
  | .order => h.order
  | .festoon => h.festoon
  | .standstill => h.standstill
  | .fault => h.fault

/-- Union. -/
def HoldSet.join (a b : HoldSet) : HoldSet :=
  { host := a.host || b.host, order := a.order || b.order, festoon := a.festoon || b.festoon,
    standstill := a.standstill || b.standstill, fault := a.fault || b.fault }

/-- Intersection. -/
def HoldSet.meet (a b : HoldSet) : HoldSet :=
  { host := a.host && b.host, order := a.order && b.order, festoon := a.festoon && b.festoon,
    standstill := a.standstill && b.standstill, fault := a.fault && b.fault }

/-- The causes of `a` that are not in `b`. -/
def HoldSet.minus (a b : HoldSet) : HoldSet :=
  { host := a.host && !b.host, order := a.order && !b.order, festoon := a.festoon && !b.festoon,
    standstill := a.standstill && !b.standstill, fault := a.fault && !b.fault }

/-- The five-bit mask of R178. -/
def HoldSet.mask (h : HoldSet) : Nat :=
  bitOf h.host 0 + bitOf h.order 1 + bitOf h.festoon 2 + bitOf h.standstill 3 + bitOf h.fault 4

/-! ### Defect classes (R133, R178) -/

/-- Whether any class is present. -/
def DefectSet.any (d : DefectSet) : Bool :=
  d.missingColour || d.stopMark || d.register || d.seam || d.undercured || d.overcured || d.unverified

/-- The seven-bit mask of R178. -/
def DefectSet.mask (d : DefectSet) : Nat :=
  bitOf d.missingColour 0 + bitOf d.stopMark 1 + bitOf d.register 2 + bitOf d.seam 3 + bitOf d.undercured 4 +
    bitOf d.overcured 5 + bitOf d.unverified 6

/-- A tally raised by one, saturating (R138). -/
def raiseTally (n : Nat) : Nat := min (n + 1) Config.wordLimit

/-- The class counts with every class of a defect set raised by one (R138). -/
def DefectCounts.add (c : DefectCounts) (d : DefectSet) : DefectCounts :=
  { missingColour := if d.missingColour then raiseTally c.missingColour else c.missingColour
    stopMark := if d.stopMark then raiseTally c.stopMark else c.stopMark
    register := if d.register then raiseTally c.register else c.register
    seam := if d.seam then raiseTally c.seam else c.seam
    undercured := if d.undercured then raiseTally c.undercured else c.undercured
    overcured := if d.overcured then raiseTally c.overcured else c.overcured
    unverified := if d.unverified then raiseTally c.unverified else c.unverified }

/-- The seven counts in the bit order of the defect set (R180). -/
def DefectCounts.toList (c : DefectCounts) : List Nat :=
  [c.missingColour, c.stopMark, c.register, c.seam, c.undercured, c.overcured, c.unverified]

/-! ### Events (R169, R184) -/

/-- Whether EVENTS is not empty: the interrupt output (R169). -/
def Events.any (e : Events) : Bool :=
  e.report || e.gap || e.hold || e.fault || e.cmdDone || e.cmdRefused || e.writeIgnored

/-- EVENTS as it is read (R184). -/
def Events.word (e : Events) : Word :=
  wordOfNat (bitOf e.report 0 + bitOf e.gap 1 + bitOf e.hold 2 + bitOf e.fault 3 + bitOf e.cmdDone 4 +
    bitOf e.cmdRefused 5 + bitOf e.writeIgnored 6)

/-! ### Codes (R181, R182) -/

/-- Fault reason codes (R182); none is 0. -/
def faultCode (r : Option FaultReason) : Nat :=
  match r with
  | none => 0
  | some .stationLift => 1
  | some .seamLost => 2
  | some .festoonOverfill => 3
  | some .trackingLost => 4
  | some .busFault => 5

/-- Station fault reason codes (R182). -/
def StationFault.code (r : StationFault) : Nat :=
  match r with
  | .lowerTimeout => 1
  | .liftTimeout => 2
  | .downLost => 3
  | .upLost => 4
  | .senseConflict => 5

/-- Refusal reason codes (R181). -/
def OrderRefusal.code (r : OrderRefusal) : Nat :=
  match r with
  | .kindUnknown => 1
  | .tagZero => 2
  | .setEmpty => 3
  | .stationOutOfService => 4
  | .stationFaulted => 5
  | .repeatMismatch => 6
  | .countRange => 7
  | .lengthRange => 8
  | .cureLimits => 9
  | .zoneCount => 10
  | .zoneOrder => 11
  | .proofTolerance => 12
  | .tagInUse => 13

/-- Outcome codes (R181). -/
def OrderOutcome.code (o : OrderOutcome) : Nat :=
  match o with
  | .complete => 1
  | .short => 2
  | .long => 3
  | .proofFailed => 4
  | .aborted => 5
  | .abandoned => 6

/-- Report kind codes (R182). -/
def ReportKind.code (k : ReportKind) : Nat :=
  match k with
  | .profileLoaded => 1
  | .profileRejected => 2
  | .orderTaken => 3
  | .orderRefused => 4
  | .orderPrinted => 5
  | .orderClosed => 6
  | .seamSeen => 7
  | .seamLost => 8
  | .holdOn => 9
  | .holdOff => 10
  | .stationFault => 11
  | .captureFail => 12
  | .registerLimit => 13
  | .markLost => 14
  | .overcureAlert => 15
  | .zoneStale => 16
  | .zoneFresh => 17
  | .setbackOn => 19
  | .setbackOff => 20
  | .underrun => 21
  | .trackingLost => 22
  | .reverseLimit => 23
  | .defectRun => 24
  | .busFault => 25
  | .gap => 26

/-! ### Outputs of a station port (R65) -/

/-- LIFT commands the screen down. -/
def liftDown (c : Channel) : Bool := c.state == .lowering || c.state == .engaged

/-- PASTE is on. -/
def pasteOn (c : Channel) : Bool := c.state == .lowering || c.state == .engaged

end Sys2Proof.Machine
end

