-- ==== Sys2Proof/Machine/Operands.lean ====
section
/-! DEFINITION. The records that the host writes and the part reads, and the words that the part writes: order bodies
(R180, R181), the profile with its checks (R173, R179), result words (R49, R180) and the registers' operands (R184). -/

namespace Sys2Proof.Machine

/-- Bits `lo .. lo + len - 1` of a word, as a number. -/
def bitField (w : Word) (lo len : Nat) : Nat := (w.extractLsb' lo len).toNat

/-- A page number from its three bits. -/
def pageOf (n : Nat) : Page := Fin.ofNat 8 n

/-! ### Order bodies -/

/-- Kind code (R181). -/
def orderKindOf (code : Nat) : Option OrderKind :=
  match code with
  | 1 => some .print
  | 2 => some .proof
  | 3 => some .blank
  | 4 => some .halt
  | _ => none

/-- End condition code (R181). -/
def endConditionOf (code : Nat) : Option EndCondition :=
  match code with
  | 0 => some .count
  | 1 => some .seam
  | _ => none

/-- Tail disposition code (R181). -/
def tailOf (code : Nat) : Option Tail :=
  match code with
  | 0 => some .runOut
  | 1 => some .hold
  | _ => none

/-- Whether a kind is PRINT or PROOF. -/
def printsDesign (k : OrderKind) : Bool := k == .print || k == .proof

/-- The zone marks of a body, those of the count and at most sixteen (R180). `w` gives the word at a slot offset. -/
def marksOf (w : Nat → Word) (count : Nat) : List ZoneMark :=
  (List.range (min count 16)).map fun i =>
    { position := (w (0x28 + 8 * i)).toNat, lift := (w (0x2C + 8 * i)).extractLsb' 0 16,
      pressure := (w (0x2C + 8 * i)).extractLsb' 16 3 }

/-- A PRINT or PROOF body (R180). -/
def printBody (w : Nat → Word) (kind : OrderKind) (tail : Tail) (cond : EndCondition) : Order :=
  { kind := kind, tag := w 0x08, length := (w 0x0C).toNat, count := bitField (w 0x10) 0 16,
    set := (w 0x10).extractLsb' 16 16, overrun := (w 0x14).toNat, lift := (w 0x18).extractLsb' 0 16,
    pressure := (w 0x18).extractLsb' 16 3, page := pageOf (bitField (w 0x18) 24 3), dMin := (w 0x1C).toNat,
    dMax := (w 0x20).toNat, tolerance := bitField (w 0x24) 0 16, markCount := bitField (w 0x04) 24 8,
    marks := marksOf w (bitField (w 0x04) 24 8), endCondition := cond, tail := tail }

/-- A BLANK body: only the words that R180 names are read. -/
def blankBody (w : Nat → Word) (tail : Tail) (cond : EndCondition) : Order :=
  { kind := .blank, tag := w 0x08, length := (w 0x0C).toNat, count := 0, set := 0#16, overrun := (w 0x14).toNat,
    lift := 0#16, pressure := 0#3, page := pageOf (bitField (w 0x18) 24 3), dMin := (w 0x1C).toNat,
    dMax := (w 0x20).toNat, tolerance := 0, markCount := 0, marks := [], endCondition := cond, tail := tail }

/-- A HALT body: kind, tail and tag (R180). -/
def haltBody (w : Nat → Word) (tail : Tail) : Order :=
  { kind := .halt, tag := w 0x08, length := 0, count := 0, set := 0#16, overrun := 0, lift := 0#16,
    pressure := 0#3, page := 0, dMin := 0, dMax := 0, tolerance := 0, markCount := 0, marks := [],
    endCondition := .count, tail := tail }

/-- The order that a body spells; `none` where R27 gives KIND_UNKNOWN. -/
def orderOf (w : Nat → Word) : Option Order :=
  match orderKindOf (bitField (w 0x04) 0 8), tailOf (bitField (w 0x04) 16 8), endConditionOf (bitField (w 0x04) 8 8) with
  | some .halt, some t, _ => some (haltBody w t)
  | some .blank, some t, some e => some (blankBody w t e)
  | some k, some t, some e => some (printBody w k t e)
  | _, _, _ => none

/-- The body words that OS reads after the kind word 0x04, in ascending offset (R29, R180). DESIGN CHOICE: a PRINT or
PROOF body is read whole, to 0xA7, and a body of unknown kind to its tag (log entry 7). -/
def bodyOffsets (kindWord : Word) : List Nat :=
  match orderKindOf (bitField kindWord 0 8) with
  | some .print | some .proof => (List.range 40).map fun i => 0x08 + 4 * i
  | some .blank => [0x08, 0x0C, 0x14, 0x18, 0x1C, 0x20]
  | some .halt | none => [0x08]

/-- Offset of a slot in the exchange area (R180). -/
def slotOffset (i : Slot) : Nat := 0x01000 + 256 * i.val

/-- State word codes (R181). -/
def armedCode : Word := 1#32

def takenCode : Word := 2#32

def doneCode : Word := 3#32

def refusedCode : Word := 4#32

/-! ### Result words (R44, R49, R180) -/

/-- Repeats printed or length run (R44). -/
def repeatsOf (r : InFlight) : Nat :=
  match r.order.kind with
  | .print | .proof => (r.finish - r.origin) / r.order.length
  | .blank => (r.finish - r.origin) / 1000
  | .halt => 0

/-- The residual (R44). -/
def residualOf (r : InFlight) : Int :=
  match r.order.kind with
  | .print | .proof => (r.order.count : Int) - repeatsOf r
  | .blank => (r.order.length : Int) - repeatsOf r
  | .halt => 0

/-- The outcome of an order that UNLOAD has not abandoned (R44). -/
def outcomeOf (r : InFlight) : OrderOutcome :=
  if r.aborted then .aborted
  else if r.proofFailure.isSome then .proofFailed
  else if 0 < residualOf r then .short
  else if residualOf r = 0 then .complete
  else .long

/-- The proof results that the words show: those recorded, for PROOF_FAILED (R49) and ABANDONED (R142); none otherwise. -/
def shownProof (r : InFlight) (o : OrderOutcome) : Option (Nat × Station) :=
  if o = .proofFailed ∨ o = .abandoned then r.proofFailure else none

/-- The sixteen result words from offset 0xC0 (R180). -/
def resultWords (r : InFlight) (o : OrderOutcome) : List Word :=
  let proof := shownProof r o
  let proofStation := match proof with
    | some (_, st) => stationNo st
    | none => 0
  let proofRepeat := match proof with
    | some (j, _) => wordOfNat j
    | none => 0xFFFFFFFF#32
  [wordOfNat (o.code + r.worstStation * 2 ^ 8 + proofStation * 2 ^ 16 + bitOf r.late 24),
   wordOfNat (repeatsOf r), wordOfInt (residualOf r), wordOfNat r.firstSerial, wordOfNat r.lastSerial,
   wordOfNat r.segments, wordOfNat r.accepted] ++
  r.classes.toList.map wordOfNat ++ [wordOfNat r.worst, proofRepeat]

/-! ### The profile -/

/-- The general fields of the profile in layout order: word index and range (sections 1.1, 3.1, 4.1, 5.1, 6.1, 7.1, 9.1;
F0 against 0..200,000 mm, R173). Word 0x3C is not used. -/
def generalRanges : List (Nat × Nat × Nat) :=
  [(0x00, 1, 500), (0x01, 1, 500), (0x02, 50, 1000), (0x03, 2000, 60000), (0x04, 1000, 200000),
   (0x05, 0, 200000), (0x06, 5000, 150000), (0x07, 200, 30000), (0x08, 0, 5000), (0x09, 0, 5000),
   (0x0A, 0, 20000), (0x0B, 100, 5000), (0x0C, 0, 20000), (0x0D, 0, 100000), (0x0E, 0, 5000),
   (0x10, 1, 16), (0x11, 1, 5000), (0x12, 100, 58000), (0x13, 1, 50), (0x14, 1, 65535), (0x15, 1, 15),
   (0x16, 200, 20000), (0x17, 1, 12), (0x18, 5, 10), (0x19, 100, 10000), (0x1A, 1, 600), (0x1B, 0, 4294967),
   (0x1C, 0, 4294967), (0x1D, 200, 10000), (0x1E, 1, 200000), (0x1F, 0, 199999)]

/-- Word index of station `i`'s entry (R179). -/
def stationWord (i : Station) : Nat := 0x40 + 8 * i.val

/-- Word index of zone `z`'s entry, `z` counted from 0 (R179). -/
def zoneWord (z : Nat) : Nat := 0xC0 + 2 * z

/-- Word index of page `p` (R179). -/
def pageWord (p : Nat) : Nat := 0x100 + 32 * p

/-- Whether a value lies outside a range. -/
def outside (v lo hi : Nat) : Bool := decide (v < lo) || decide (hi < v)

/-- The first word of a station entry that is out of range; of a station not in service only the in-service word is
checked (R179). -/
def stationRangeFault (w : Nat → Word) (i : Station) : Option Nat :=
  let b := stationWord i
  if 1 < (w b).toNat then some b
  else if (w b).toNat = 0 then none
  else if outside (w (b + 1)).toNat 50 50000 then some (b + 1)
  else if outside (w (b + 2)).toNat 0 10000 then some (b + 2)
  else if outside (w (b + 3)).toNat 400000 1400000 then some (b + 3)
  else if (w (b + 4)).toInt < -200000 ∨ 200000 < (w (b + 4)).toInt then some (b + 4)
  else if outside (w (b + 5)).toNat 0 1400000 then some (b + 5)
  else none

/-- The first zone word among 1..Z out of range. -/
def zoneRangeFault (w : Nat → Word) : Option Nat :=
  (List.range (2 * (w 0x17).toNat)).findSome? fun i =>
    if outside (w (zoneWord 0 + i)).toNat 0 150000 then some (zoneWord 0 + i) else none

/-- The first point word of a page out of range, looked at only when the count lies in 2..16 (R173). -/
def pageRangeFault (w : Nat → Word) (p : Nat) : Option Nat :=
  let n := (w (pageWord p)).toNat
  if outside n 2 16 then none
  else (List.range n).findSome? fun i =>
    let x := w (pageWord p + 1 + i)
    if 3000 < bitField x 0 16 ∨ 10000 < bitField x 16 16 then some (pageWord p + 1 + i) else none

/-- Item 1: FIELD_RANGE, in layout order; the item number is the word index (R173, R179). -/
def fieldRangeFault (w : Nat → Word) : Option Nat :=
  (generalRanges.findSome? fun (i, lo, hi) => if outside (w i).toNat lo hi then some i else none)
    <|> (stationList.findSome? (stationRangeFault w))
    <|> zoneRangeFault w
    <|> ((List.range 8).findSome? (pageRangeFault w))

/-- Millimetres to µm (00_scope section 5.2). -/
def mm (w : Word) : Nat := w.toNat * 1000

/-- The station entry that the words spell (R179). -/
def stationProfileOf (w : Nat → Word) (i : Station) : StationProfile :=
  let b := stationWord i
  if (w b).toNat = 1 then
    { inService := true, distance := mm (w (b + 1)), lead := mm (w (b + 2)), circumference := (w (b + 3)).toNat,
      base := (w (b + 4)).toInt, markOffset := (w (b + 5)).toNat }
  else noStation

/-- The points that a page's count names, at most sixteen (R179). -/
def pointsOf (w : Nat → Word) (p : Nat) : List (Nat × Nat) :=
  (List.range (min (w (pageWord p)).toNat 16)).map fun i =>
    (bitField (w (pageWord p + 1 + i)) 0 16, bitField (w (pageWord p + 1 + i)) 16 16)

/-- The profile that 1024 words spell; `w` gives the word at a word index (R179). -/
def profileOf (w : Nat → Word) : Profile :=
  { printResolution := (w 0x00).toNat, ovenResolution := (w 0x01).toNat, segmentLength := mm (w 0x02),
    tableExit := mm (w 0x03), festoonCapacity := mm (w 0x04), festoonFill := mm (w 0x05),
    ovenLength := mm (w 0x06), seamDistance := mm (w 0x07), guardBefore := mm (w 0x08), guardAfter := mm (w 0x09),
    seamSpacing := mm (w 0x0A), actuationTimeout := (w 0x0B).toNat, correctionRange := (w 0x0C).toNat,
    captureLimit := (w 0x0D).toNat, deadband := (w 0x0E).toNat, gain := (w 0x10).toNat,
    maxStep := (w 0x11).toNat, readerDistance := mm (w 0x12), window := mm (w 0x13),
    tolerance := (w 0x14).toNat, missLimit := (w 0x15).toNat, evaluationTime := (w 0x16).toNat,
    zones := (List.range (min (w 0x17).toNat 12)).map fun z => (mm (w (zoneWord z)), mm (w (zoneWord z + 1))),
    doseExponent := (w 0x18).toNat, staleLimit := (w 0x19).toNat, setbackDelay := (w 0x1A).toNat,
    dMin := (w 0x1B).toNat, dMax := (w 0x1C).toNat, standstillTime := (w 0x1D).toNat, highMark := mm (w 0x1E),
    resumeMark := mm (w 0x1F),
    stations := ⟨⟨stationList.map (stationProfileOf w)⟩, rfl⟩,
    pages := ⟨⟨[pointsOf w 0, pointsOf w 1, pointsOf w 2, pointsOf w 3, pointsOf w 4, pointsOf w 5, pointsOf w 6,
      pointsOf w 7]⟩, rfl⟩ }

/-- The stations in service, ascending. -/
def inServiceList (f : Profile) : List Station := stationList.filter fun i => (f.stations.get i).inService

/-- The set of stations in service (R175). -/
def inServiceSet (f : Profile) : StationSet := (inServiceList f).foldl addTo 0#16

/-- Item 2: the first station of a list whose distance is not above that of the one before it. -/
def stationOrderFault (f : Profile) : List Station → Option Nat
  | a :: b :: rest =>
    if (f.stations.get b).distance ≤ (f.stations.get a).distance then some (stationNo b)
    else stationOrderFault f (b :: rest)
  | _ => none

/-- Item 3: the lowest station with D_s − lead_s < L_seg. -/
def leadFault (f : Profile) : Option Nat :=
  (inServiceList f).findSome? fun i =>
    let st := f.stations.get i
    if st.distance < f.segmentLength + st.lead then some (stationNo i) else none

/-- Item 4: the highest station with D_M − W ≤ D_s. -/
def readerFault (f : Profile) : Option Nat :=
  (inServiceList f).reverse.findSome? fun i =>
    if f.readerDistance ≤ (f.stations.get i).distance + f.window then some (stationNo i) else none

/-- Item 8: the lowest zone with start ≥ end, an end beyond the next zone's start, or an end beyond L_O. -/
def zoneTableFault (limit : Nat) : Nat → List (Nat × Nat) → Option Nat
  | _, [] => none
  | n, (a, b) :: rest =>
    if b ≤ a ∨ limit < b ∨ (rest.head?.any fun nx => decide (nx.1 < b)) then some n
    else zoneTableFault limit (n + 1) rest

/-- Whether points have T strictly increasing and r not decreasing. -/
def pointsAscend : List (Nat × Nat) → Bool
  | a :: b :: rest => decide (a.1 < b.1) && decide (a.2 ≤ b.2) && pointsAscend (b :: rest)
  | _ => true

/-- Item 9: the lowest page whose count is not 0 or 2..16, or whose points do not ascend. -/
def curveFault (w : Nat → Word) : Option Nat :=
  (List.range 8).findSome? fun p =>
    let n := (w (pageWord p)).toNat
    if n = 0 then none
    else if outside n 2 16 || !pointsAscend (pointsOf w p) then some p
    else none

/-- Item 12: the lowest station whose mark offset lies too near an end of its repeat. -/
def markOffsetFault (f : Profile) : Option Nat :=
  (inServiceList f).findSome? fun i =>
    let st := f.stations.get i
    if st.markOffset < f.window + f.correctionRange ∨ st.circumference < st.markOffset + f.window + f.correctionRange
    then some (stationNo i) else none

/-- The left-hand side of item 13. -/
def mapNeed (f : Profile) : Nat :=
  (f.tableExit + f.festoonCapacity + f.ovenLength + f.segmentLength - 1) / f.segmentLength + 64

/-- A check's item number tagged with its reason code. -/
def tagFault (reason : Nat) (item : Option Nat) : Option (Nat × Nat) := item.map fun n => (reason, n)

/-- The profile check of R173: reason code and item number of the first item that fails, in the table's order. -/
def profileFault (w : Nat → Word) : Option (Nat × Nat) :=
  let f := profileOf w
  tagFault 1 (fieldRangeFault w)
    <|> tagFault 2 (stationOrderFault f (inServiceList f))
    <|> tagFault 3 (leadFault f)
    <|> tagFault 4 (readerFault f)
    <|> tagFault 5 (if f.tableExit < f.readerDistance + 1400000 + f.window then some 0 else none)
    <|> tagFault 6 (if f.seamDistance ≤ f.guardBefore + f.segmentLength then some 0 else none)
    <|> tagFault 7 (if f.highMark ≤ f.resumeMark ∨ f.festoonCapacity ≤ f.highMark ∨ f.festoonCapacity < f.festoonFill
          then some 0 else none)
    <|> tagFault 8 (zoneTableFault f.ovenLength 1 f.zones)
    <|> tagFault 9 (curveFault w)
    <|> tagFault 10 (if (w (pageWord 7)).toNat = 0 then some 7 else none)
    <|> tagFault 11 (if f.dMax < f.dMin then some 0 else none)
    <|> tagFault 12 (markOffsetFault f)
    <|> tagFault 13 (if Config.mapCapacity < mapNeed f then some (mapNeed f) else none)

/-- The rejection reason code of a read that timed out (R182). -/
def loadBusFault : Nat := 14

end Sys2Proof.Machine
end

