-- ==== Sys2Proof/Machine/Ops.lean ====
section
/-! DEFINITION. The operations that the commands share: lookups of fabric (Chapter 1), report postings (Chapter 10), the
hold cause set with its entries and exits (Chapter 9), and the motions and faults of the station channels (Chapter 4). -/

namespace Sys2Proof.Machine

/-! ### Small helpers -/

/-- A list with its first element that passes a test changed. -/
def modifyFirst {α : Type} (test : α → Bool) (f : α → α) : List α → List α
  | [] => []
  | a :: rest => if test a then f a :: rest else a :: modifyFirst test f rest

/-- A list folded into a state, element by element. -/
def overList {α : Type} (xs : List α) (f : State → α → State) (s : State) : State := xs.foldl f s

/-- Millimetres of a length in µm, truncated, as a word. DESIGN CHOICE: of a value above 2^32 − 1 mm, for which no rule
gives a word, the low 32 bits (log entry 35). -/
def mmWord (um : Nat) : Word := wordOfNat (um / 1000)

/-- The line is READY or PRINTING (R144). -/
def lineOpen (s : State) : Bool := s.lc.line == .ready || s.lc.line == .printing

/-- The part takes counts, levels, frames and edges: READY or PRINTING (R4, R144) with the RESET pin not asserted (R177). -/
def takesEvents (s : State) : Bool := !s.pins.resetAsserted && lineOpen s

/-- A timer started, or restarted, now. -/
def runTimer (s : State) : Timer := .running s.clock

/-- Whether a timer runs. -/
def timerRuns (t : Timer) : Bool :=
  match t with
  | .stopped => false
  | .running _ => true

/-- The line clock since `since`, ms. -/
def elapsed (since clock : Word) : Nat := (clock - since).toNat

/-- Whether a timer's interval of `interval` ms has run out at line clock `clock` (00_scope section 5.5; log entry 3). A
stopped timer does not expire. -/
def timerDue (t : Timer) (interval : Nat) (clock : Word) : Bool :=
  match t with
  | .stopped => false
  | .running since => decide (interval ≤ elapsed since clock)

/-! ### Fabric lookups (R5, R14, R15, R16) -/

/-- The start S of a segment (section 1.4). -/
def Segment.start (r : Segment) : Nat := r.pEnd - r.length

/-- A record holds the fabric that entered at `p` (R15). -/
def Segment.covers (r : Segment) (p : Nat) : Bool := decide (r.start ≤ p) && decide (p < r.pEnd)

/-- The festoon content Fp, µm (R5). -/
def festoon (s : State) : Int := (s.wt.k : Int) + s.wt.p - s.wt.q - s.prof.tableExit

/-- The record of the fabric that entered at `p`; none for untracked fabric (R15). -/
def recordAt (s : State) (p : Nat) : Option Segment := s.wt.map.find? fun r => r.covers p

/-- The record of the fabric now at table point `a` (R15). -/
def recordUnder (s : State) (a : Nat) : Option Segment := if s.wt.p < a then none else recordAt s (s.wt.p - a)

/-- The record with a serial. -/
def recordOfSerial (s : State) (n : Nat) : Option Segment := s.wt.map.find? fun r => r.serial == n

/-- Serial of a found record, 0 for untracked fabric. -/
def serialOr0 (r : Option Segment) : Nat :=
  match r with
  | some x => x.serial
  | none => 0

/-- Order tag of a found record, 0 for untracked fabric. -/
def tagOr0 (r : Option Segment) : Word :=
  match r with
  | some x => x.tag
  | none => 0#32

/-- A segment is in the TABLE section (R14). -/
def onTable (s : State) (r : Segment) : Bool := decide (s.wt.p < r.pEnd + s.prof.tableExit)

/-- A segment is in the FESTOON section (R14). -/
def inFestoon (s : State) (r : Segment) : Bool :=
  decide (r.pEnd + s.prof.tableExit ≤ s.wt.p) && decide (s.wt.q < r.pEnd + s.wt.k)

/-- A segment is in the OVEN section (R14). -/
def inOven (s : State) (r : Segment) : Bool :=
  decide (r.pEnd + s.wt.k ≤ s.wt.q) && decide (s.wt.q < r.pEnd + s.wt.k + s.prof.ovenLength)

/-- A segment is exited (R14). -/
def exited (s : State) (r : Segment) : Bool := decide (r.pEnd + s.wt.k + s.prof.ovenLength ≤ s.wt.q)

/-- The sections of R14. -/
inductive FabricSection where
  | table
  | festoon
  | oven
  | exited
  deriving DecidableEq, Repr

/-- A section's condition (R14). -/
def inSection (s : State) (r : Segment) (x : FabricSection) : Bool :=
  match x with
  | .table => onTable s r
  | .festoon => inFestoon s r
  | .oven => inOven s r
  | .exited => exited s r

/-- The oven centre distance of an OVEN segment, µm (R16). -/
def ovenCentre (s : State) (r : Segment) : Nat := s.wt.q - (r.pEnd + s.wt.k) + r.length / 2

/-- The record of the entry order (Chapter 2), if there is one. -/
def entryRecord (s : State) : Option InFlight :=
  match s.os.entry with
  | none => none
  | some i => s.os.table.find? fun r => r.slot == i

/-- Tag of the entry order; 0 with none. -/
def entryTag (s : State) : Word :=
  match entryRecord s with
  | some r => r.order.tag
  | none => 0#32

/-! ### Reports (R163, R164) -/

/-- What a rule gives of a report's six content words; `none` where it states no value for the field. -/
structure ReportBody where
  kind : ReportKind
  tag : Option Word := none
  station : Option Word := none
  serial : Option Word := none
  first : Option Word := none
  second : Option Word := none

/-- A report posting lost and counted (R164). -/
def loseReport (s : State) : State :=
  { s with
    xi.lost := min (s.xi.lost + 1) Config.lostLimit
    xi.firstLoss := if s.xi.lost = 0 then s.clock else s.xi.firstLoss
    events.gap := true }

/-- Whether a transaction is a report posting. -/
def isReport (t : Transaction) : Bool :=
  match t with
  | .report _ => true
  | _ => false

/-- How many report postings wait in the queue (R160). -/
def waitingReports (q : List Transaction) : Nat := (q.filter isReport).length

/-- A transaction joins the request queue at its tail (R160). -/
def enqueue (s : State) (t : Transaction) : State := { s with xi.queue := s.xi.queue ++ [t] }

/-- The posting that a body makes at line clock `clk`; fields that no rule states take free values (log entry 4). -/
def postingOf (s : State) (b : ReportBody) (clk : Word) : Posting :=
  { kind := b.kind
    tag := b.tag.getD (Config.unstatedField s.draws 0)
    station := b.station.getD (wordOfNat (Config.unstatedStation s.draws).val)
    serial := b.serial.getD (Config.unstatedField s.draws 2)
    clock := clk
    first := b.first.getD (Config.unstatedField s.draws 3)
    second := b.second.getD (Config.unstatedField s.draws 4) }

/-- A report posted with a given line clock word: lost while suspended or with 48 postings waiting, else queued (R162,
R163, R164). -/
def postAt (s : State) (b : ReportBody) (clk : Word) : State :=
  let s1 := { s with draws := s.draws + 1 }
  if s.xi.suspended || decide (Config.waitingLimit ≤ waitingReports s.xi.queue) then loseReport s1
  else enqueue s1 (.report (postingOf s b clk))

/-- A report posted now (R163). -/
def post (s : State) (b : ReportBody) : State := postAt s b s.clock

/-! ### Standstill supervision (R150) -/

/-- Whether any channel is ENGAGED. -/
def anyEngaged (s : State) : Bool := stationList.any fun i => (s.sc.get i).state == .engaged

/-- The engaged indication brought up to the channels, with its effect on the standstill timer (R68, R150). -/
def syncEngaged (s : State) : State :=
  if anyEngaged s = s.lc.engaged then s
  else if anyEngaged s then { s with lc.engaged := true, lc.standstill := runTimer s }
  else { s with lc.engaged := false, lc.standstill := .stopped }

/-! ### Channels (Chapter 4) -/

/-- The channel of a station. -/
def State.chan (s : State) (i : Station) : Channel := s.sc.get i

/-- A channel written back. -/
def State.setChan (s : State) (i : Station) (c : Channel) : State := { s with sc := s.sc.set i.val c i.isLt }

/-- The profile entry of a station. -/
def State.stationCfg (s : State) (i : Station) : StationProfile := s.prof.stations.get i

/-- A channel put into LIFTING: LIFT up, PASTE off, timer started afresh (R65). -/
def beginLifting (s : State) (i : Station) : State :=
  s.setChan i { s.chan i with state := .lifting, pendingLower := false, timer := runTimer s }

/-- A channel put into LOWERING with the timer started afresh; a DOWN_SENSE already high ends the lowering at once
(R65, R74). -/
def beginLowering (s : State) (i : Station) : State :=
  if inSet s.pins.downSense i then
    s.setChan i { s.chan i with state := .engaged, pendingLower := false, timer := .stopped }
  else s.setChan i { s.chan i with state := .lowering, pendingLower := false, timer := runTimer s }

/-- A channel faulted with its report (R71). -/
def faultChannel (s : State) (i : Station) (r : StationFault) : State :=
  let s1 := s.setChan i { s.chan i with state := .faulted, reason := some r, pendingLower := false, timer := .stopped }
  let under := recordUnder s (s.stationCfg i).distance
  syncEngaged (post s1
    { kind := .stationFault, tag := some (tagOr0 under), station := some (wordOfNat (stationNo i)),
      serial := some (wordOfNat (serialOr0 under)), first := some (wordOfNat r.code), second := some (mmWord s.wt.p) })

/-- A station added to the stop-mark set of the record covering its contact line (R77); untracked fabric gets none. -/
def addStopMark (s : State) (i : Station) : State :=
  if s.wt.p < (s.stationCfg i).distance then s
  else
    let here := s.wt.p - (s.stationCfg i).distance
    let mark (r : Segment) : Segment := { r with stopMarks := addTo r.stopMarks i }
    { s with wt.map := modifyFirst (fun r => r.covers here) mark s.wt.map }

/-- What a hold entry does to one channel (R77). -/
def liftForHold (s : State) (i : Station) : State :=
  match (s.chan i).state with
  | .lowering | .engaged => beginLifting (addStopMark s i) i
  | .lifting => s.setChan i { s.chan i with pendingLower := false }
  | .out | .lifted | .faulted => s

/-- What a hold entry does at SC, as one event (R77). -/
def liftAllForHold (s : State) : State := syncEngaged (overList stationList liftForHold s)

/-! ### The hold cause set (R145 to R148, R152) -/

/-- PRINT PERMIT judged (R148). -/
def judgePermit (s : State) : State := { s with lc.permit := lineOpen s && !s.lc.holds.any }

/-- A change of the line state, with the permit judged (R144, R148). -/
def setLine (s : State) (l : LineState) : State := judgePermit { s with lc.line := l }

/-- Steps 1 to 4 of a hold entry (R146). -/
def enterHold (s : State) : State :=
  let s1 := liftAllForHold { s with lc.permit := false }
  { s1 with lc.holdStart := s1.clock, events.hold := true }

/-- HOLD_ON (R146); `r` is the fault reason raised with the entry. DESIGN CHOICE: with the serials exhausted the next serial
is 2^32 (R11), and this and every other report that carries it shows 0 (log entry 36). -/
def holdOnReport (s : State) (r : Option FaultReason) : ReportBody :=
  { kind := .holdOn, tag := some (entryTag s), station := some 0#32, serial := some (wordOfNat s.wt.nextSerial),
    first := some (wordOfNat s.lc.holds.mask), second := some (wordOfNat (faultCode r)) }

/-- A hold entry (R146). -/
def holdEntry (s : State) (r : Option FaultReason) : State := post (enterHold s) (holdOnReport (enterHold s) r)

/-- A fault reason taken: the FAULT cause of EVENTS, and the first fault reason if there is none (R152). -/
def noteFault (s : State) (f : FaultReason) : State :=
  { s with events.fault := true, lc.firstFault := some (s.lc.firstFault.getD f) }

/-- A cause raised at LC, with the fault reason that raises FAULT (R145, R146, R152). -/
def raiseCause (s : State) (c : HoldCause) (r : Option FaultReason) : State :=
  if !lineOpen s then s
  else
    let s1 := { s with lc.holds := s.lc.holds.join (holdOf c) }
    let s2 := match r with
      | some f => noteFault s1 f
      | none => s1
    if s.lc.holds.any then s2 else holdEntry s2 r

/-- A fault reason raised (R152). -/
def raiseFault (s : State) (f : FaultReason) : State := raiseCause s .fault (some f)

/-- HOLD_OFF (R147); `cleared` is the set of causes that the event cleared. -/
def holdOffReport (s : State) (cleared : HoldSet) : ReportBody :=
  { kind := .holdOff, tag := some (entryTag s), station := some 0#32, serial := some (wordOfNat s.wt.nextSerial),
    first := some (wordOfNat cleared.mask), second := some (s.clock - s.lc.holdStart) }

/-- A hold exit (R147). -/
def holdExit (s : State) (cleared : HoldSet) : State := judgePermit (post s (holdOffReport s cleared))

/-- Causes cleared together; a hold exit if that empties the set (R145, R147). -/
def clearCauses (s : State) (cs : HoldSet) : State :=
  let s1 := { s with lc.holds := s.lc.holds.minus cs }
  if s.lc.holds.any && !(s.lc.holds.minus cs).any then holdExit s1 (s.lc.holds.meet cs) else s1

/-! ### Festoon content (R5, R7, R151) -/

/-- The festoon marks (R151). -/
def compareMarks (s : State) : State :=
  if s.lc.holds.festoon then
    if festoon s ≤ (s.prof.resumeMark : Int) then clearCauses s { festoon := true } else s
  else if (s.prof.highMark : Int) ≤ festoon s then raiseCause s .festoon none
  else s

/-- The overfill detection (R7). -/
def checkOverfill (s : State) : State :=
  if (s.prof.festoonCapacity : Int) < festoon s then
    if s.wt.overfillArmed then raiseFault { s with wt.overfillArmed := false } .festoonOverfill else s
  else { s with wt.overfillArmed := true }

/-- Fp delivered to LC: the marks, then the overfill detection (R5, R7, R151; log entry 8 on their order). -/
def deliverFestoon (s : State) : State := checkOverfill (compareMarks s)

end Sys2Proof.Machine
end

