-- ==== Sys2Proof/Machine/Planner.lean ====
section
/-! DEFINITION. The Cut Planner's lists (sections 3.2 and 3.5): the pending cut list, the mark table and the current zone
attributes. -/

namespace Sys2Proof.Machine

/-- An entry put into the pending cut list at its position, after those that share it (R52). -/
def insertCut (e : CutEntry) : List CutEntry → List CutEntry
  | [] => [e]
  | c :: rest => if c.position ≤ e.position then c :: insertCut e rest else e :: c :: rest

/-- Whether an entry is the ORDER_END. -/
def isOrderEnd (e : CutEntry) : Bool :=
  match e.kind with
  | .orderEnd => true
  | _ => false

/-- Whether an entry is a ZONE_MARK. -/
def isZoneMark (e : CutEntry) : Bool :=
  match e.kind with
  | .zoneMark _ => true
  | _ => false

/-- Whether record `i` of the mark table has its ZONE_MARK entry in a list. -/
def markEntered (cuts : List CutEntry) (i : Nat) : Bool := cuts.any fun e => e.kind == .zoneMark i

/-- A list with the ZONE_MARK entries of the PENDING records that have none and lie ahead of P and before the end (R54), from
record `i` on. -/
def enterMarks (p finish : Nat) : Nat → List MarkRecord → List CutEntry → List CutEntry
  | _, [], acc => acc
  | i, m :: rest, acc =>
    enterMarks p finish (i + 1) rest
      (if !m.applied && !markEntered acc i && decide (p < m.position) && decide (m.position < finish)
        then insertCut { kind := .zoneMark i, position := m.position } acc else acc)

/-- An entry that a new end leaves in the list: a seam edge, or a zone mark before the end, one at P among them (R40, R54). -/
def keptBefore (finish : Nat) (e : CutEntry) : Bool := !isOrderEnd e && (!isZoneMark e || decide (e.position < finish))

/-- The pending cut list with the ORDER_END at `finish`, if that lies ahead of P; the zone marks at or beyond it withdrawn, and
those of PENDING records that now lie before it entered again (R40, R53, R54). -/
def planEnd (c : CutPlanner) (p finish : Nat) : CutPlanner :=
  let kept := c.pending.filter (keptBefore finish)
  let withMarks := enterMarks p finish 0 c.marks kept
  { c with pending := if p < finish then insertCut { kind := .orderEnd, position := finish } withMarks else withMarks }

/-- The entries of the ended entry order withdrawn and the mark table cleared (R53, R54). -/
def withdrawOrder (c : CutPlanner) : CutPlanner :=
  { c with pending := c.pending.filter (fun e => !isOrderEnd e && !isZoneMark e), marks := [] }

/-- The zone attributes set to none: BLANK, HALT, starvation, abort (R62). -/
def plainAttributes (c : CutPlanner) : CutPlanner := { c with lift := 0#16, pressure := 0#3 }

/-- The mark table of an order at its take (R54). -/
def markTable (o : Order) (origin : Nat) : List MarkRecord :=
  o.marks.map fun m => { position := origin + m.position * 1000, lift := m.lift, pressure := m.pressure, applied := false }

/-- What a take does at CP: attributes, mark table and ORDER_END (R53, R54, R62). -/
def planTake (c : CutPlanner) (o : Order) (origin finish p : Nat) : CutPlanner :=
  let clean := withdrawOrder c
  let c1 :=
    if printsDesign o.kind then
      { clean with marks := markTable o origin, lift := o.lift, pressure := o.pressure }
    else plainAttributes clean
  planEnd c1 p finish

/-- The record at an index changed. -/
def changeAt {α : Type} (f : α → α) : Nat → List α → List α
  | _, [] => []
  | 0, a :: rest => f a :: rest
  | n + 1, a :: rest => a :: changeAt f n rest

/-- A ZONE_MARK cut: the mark becomes APPLIED and its attributes are in force (R54, R62). -/
def applyMark (c : CutPlanner) (i : Nat) : CutPlanner :=
  match c.marks[i]? with
  | some m => { c with lift := m.lift, pressure := m.pressure, marks := changeAt (fun m => { m with applied := true }) i c.marks }
  | none => c

/-- A SEAM_START cut (R61). -/
def openSeam (c : CutPlanner) (seam : Nat) : CutPlanner :=
  { c with inside := true, seams := modifyFirst (fun e => e.position == seam) (fun e => { e with opened := true }) c.seams }

/-- A SEAM_END cut (R61). -/
def closeSeam (c : CutPlanner) (seam : Nat) : CutPlanner :=
  { c with inside := false, seams := c.seams.filter fun e => e.position != seam }

/-- A new seam queued with its two edges (R55, R59). -/
def queueSeam (c : CutPlanner) (position zoneStart zoneEnd : Nat) : CutPlanner :=
  { c with
    seams := c.seams ++ [{ position := position, zoneStart := zoneStart, zoneEnd := zoneEnd, opened := false }]
    pending := insertCut { kind := .seamEnd position, position := zoneEnd }
      (insertCut { kind := .seamStart position, position := zoneStart } c.pending) }

/-- Whether an entry is the SEAM_END of a seam. -/
def isSeamEndOf (seam : Nat) (e : CutEntry) : Bool :=
  match e.kind with
  | .seamEnd n => n == seam
  | _ => false

/-- A queued seam's zone end moved later, with its SEAM_END entry (R55, R58). -/
def extendSeam (c : CutPlanner) (seam zoneEnd : Nat) : CutPlanner :=
  { c with
    seams := modifyFirst (fun e => e.position == seam) (fun e => { e with zoneEnd := zoneEnd }) c.seams
    pending := insertCut { kind := .seamEnd seam, position := zoneEnd } (c.pending.filter fun e => !isSeamEndOf seam e) }

end Sys2Proof.Machine
end

