-- ==== Sys2Proof/Machine/OrderEnds.lean ====
section
/-! DEFINITION. The Order Sequencer's ends and reads (sections 2.4 and 2.6): planned end, seam end, proof end, the confirm
point, and the starting and discarding of slot reads. -/

namespace Sys2Proof.Machine

/-! ### Reads (R29 to R34) -/

/-- A transaction handed to XI; while suspended it is ended at once (R160, R162). -/
def handOver (s : State) (t : Transaction) : State := if s.xi.suspended then s else enqueue s t

/-- A read started with its next-order status; while XI is suspended the status is left EMPTY (R31, R34). -/
def startRead (s : State) (t : Transaction) (st : NextStatus) : State :=
  if s.xi.suspended then { s with os.status := .empty, os.copy := none }
  else enqueue { s with os.status := st } t

/-- The confirm point of an end lies at or behind P (R31). -/
def confirmReached (s : State) (finish : Nat) : Bool := decide (finish ≤ s.wt.p + Config.confirmDistance)

/-- The confirm point of the entry order is reached; without an entry order there is none (R31, R37). -/
def confirmPassed (s : State) : Bool :=
  match entryRecord s with
  | some r => confirmReached s r.finish
  | none => false

/-- A slot read that starts is past the confirm point if that point is reached by then. DESIGN CHOICE, unsafe (log entry 41). -/
def noteConfirm (s : State) : State := if s.xi.suspended then s else { s with os.pastConfirm := confirmPassed s }

/-- A full or prefetch read of slot n (R29, R30). -/
def startSlotRead (s : State) : State := startRead (noteConfirm s) (.slotRead s.os.next) .reading

/-- A confirm read of slot n (R31). -/
def startConfirmRead (s : State) : State := startRead s (.confirmRead s.os.next) .confirming

/-- Whether a transaction is a read of the next order. -/
def isOrderRead (t : Transaction) : Bool :=
  match t with
  | .slotRead _ | .confirmRead _ => true
  | _ => false

/-- The transaction in hand marked as discarded if it is a read of the next order still going on; refusal writes have
ended their read and go on (R29; log entry 9). -/
def discardInHand (h : InHand) : InHand :=
  if isOrderRead h.transaction && h.stage != .refusing then { h with discarded := true } else h

/-- The prefetch copy and any read in flight discarded (R29, R33). -/
def discardReads (s : State) : State :=
  { s with
    os.copy := none
    xi.queue := s.xi.queue.filter fun t => !isOrderRead t
    xi.inHand := s.xi.inHand.map discardInHand }

/-! ### In-flight records -/

/-- The record of the order taken from a slot changed. -/
def changeOrder (s : State) (i : Slot) (f : InFlight → InFlight) : State :=
  { s with os.table := modifyFirst (fun r => r.slot == i) f s.os.table }

/-- The record of an order tag. -/
def orderOfTag (s : State) (tag : Word) : Option InFlight := s.os.table.find? fun r => r.order.tag == tag

/-! ### Ends (R40, R41) -/

/-- The planned end (R40). -/
def plannedEnd (o : Order) (origin : Nat) : Nat :=
  match o.kind, o.endCondition with
  | .print, .count | .proof, .count => origin + o.count * o.length
  | .print, .seam | .proof, .seam => origin + (o.count + o.overrun) * o.length
  | .blank, .count => origin + o.length * 1000
  | .blank, .seam => origin + (o.length + o.overrun) * 1000
  | .halt, _ => origin

/-- The first repeat boundary origin + j·R at or after `x`. -/
def boundaryFrom (origin length x : Nat) : Nat := origin + (x - origin + length - 1) / length * length

/-- The first repeat boundary origin + j·R greater than `x`. -/
def boundaryAfter (origin length x : Nat) : Nat := origin + ((x - origin) / length + 1) * length

/-- The seam end that a zone end gives (R41). -/
def seamEndAt (r : InFlight) (zoneEnd : Nat) : Nat :=
  if printsDesign r.order.kind then boundaryFrom r.origin r.order.length zoneEnd else zoneEnd

/-- A seam zone ends after the order's origin and before its planned end (R41). -/
def seamCounts (r : InFlight) (e : SeamEntry) : Bool :=
  decide (r.origin < e.zoneEnd) && decide (e.zoneEnd < plannedEnd r.order r.origin)

/-- The first seam of the queue that gives the order a seam end. -/
def firstSeamEnd (r : InFlight) (q : List SeamEntry) : Option (Nat × Nat) :=
  (q.find? (seamCounts r)).map fun e => (e.position, seamEndAt r e.zoneEnd)

/-- The seam end by the seams now announced: the seam that sets it keeps setting it, also after its zone has passed the
entry, until an extension takes it to the planned end (R41). -/
def seamEndNow (r : InFlight) (q : List SeamEntry) : Option (Nat × Nat) :=
  match r.order.endCondition, r.order.kind with
  | .count, _ | _, .halt => none
  | .seam, _ =>
    match r.seamEnd with
    | none => firstSeamEnd r q
    | some (seam, finish) =>
      match q.find? (fun e => e.position == seam) with
      | none => some (seam, finish)
      | some e => if seamCounts r e then some (seam, seamEndAt r e.zoneEnd) else firstSeamEnd r q

/-- The least of the ends that apply (R40). -/
def leastEnd (r : InFlight) : Nat :=
  let planned := plannedEnd r.order r.origin
  let bySeam := match r.seamEnd with
    | some (_, e) => min planned e
    | none => planned
  match r.proofEnd with
  | some e => min bySeam e
  | none => bySeam

/-- What OS does at the confirm point (R31): a read that is READING goes on, past the confirm point from now on. -/
def atConfirmPoint (s : State) : State :=
  match s.os.status with
  | .held => startConfirmRead s
  | .empty => startSlotRead s
  | .reading => { s with os.pastConfirm := true }
  | .confirming | .settled | .barred => s

/-- The entry order with a changed end: the ORDER_END replaced, zone marks withdrawn and entered (R40, R53, R54). -/
def moveEnd (s : State) (r : InFlight) : State :=
  { s with
    os.table := modifyFirst (fun x => x.slot == r.slot) (fun _ => r) s.os.table
    cp := planEnd s.cp s.wt.p r.finish }

/-- The end of an in-flight order is fixed: the print position has reached it, or its cut has come. Another block may act at
the end's position before the cut does; the end no longer moves there (R40, R41). -/
def endFixed (s : State) (r : InFlight) : Bool := r.ended || decide (r.finish ≤ s.wt.p)

/-- The end of the entry order computed again, unless it is fixed; a change moves it, and may reach the confirm point (R31,
R40). -/
def reckonEnd (s : State) (r : InFlight) : State :=
  let r1 := { r with finish := leastEnd r }
  if endFixed s r || r1.finish == r.finish then changeOrder s r.slot fun _ => r
  else
    let s1 := moveEnd s r1
    if confirmReached s1 r1.finish then atConfirmPoint s1 else s1

/-- The seams of the queue applied to the entry order: at an announcement and at an extension, as long as its end has not been
reached (R40, R41). -/
def applySeamRule (s : State) : State :=
  match entryRecord s with
  | some r => if endFixed s r then s else reckonEnd s { r with seamEnd := seamEndNow r s.cp.seams }
  | none => s

/-! ### Proof failure (R42) -/

/-- The failing repeat and station recorded (R42). -/
def withFailure (r : InFlight) (index : Nat) (station : Station) : InFlight :=
  { r with proofFailure := some (index, station) }

/-- The next order barred: the copy and any read in flight discarded (R33, R42). -/
def barNext (s : State) : State :=
  let s1 := discardReads s
  { s1 with os.status := .barred }

/-- The proof end: the first repeat boundary greater than P (R42). -/
def withProofEnd (r : InFlight) (p : Nat) : InFlight :=
  { r with proofEnd := some (boundaryAfter r.origin r.order.length p) }

/-- The first failing evaluation of a PROOF order (R42). Its end moves only where the print position has not reached it (R40). -/
def failProof (s : State) (r : InFlight) (index : Nat) (station : Station) : State :=
  let r1 := withFailure r index station
  let s1 := raiseCause (changeOrder s r.slot fun _ => r1) .order none
  if s1.os.entry = some r.slot && !r.ended then reckonEnd (barNext s1) (withProofEnd r1 s.wt.p) else s1

end Sys2Proof.Machine
end

