-- ==== Sys2Proof/Machine/Phase.lean ====
section
/-! DEFINITION. The Phase Unit (Chapter 5): phase targets, offsets, transit, capture and tracking. -/

namespace Sys2Proof.Machine

/-- The Phase Unit's state of a station. -/
def State.phase (s : State) (i : Station) : PhaseStation := s.pu.stations.get i

/-- A station's phase state written back. -/
def State.setPhase (s : State) (i : Station) (p : PhaseStation) : State :=
  { s with pu.stations := s.pu.stations.set i.val p i.isLt }

/-- The total offset O_s (R86). -/
def PhaseStation.total (p : PhaseStation) : Int := p.base + p.trim + p.correction

/-- The phase target of R86 from x and the circumference. -/
def targetOf (x : Int) (c : Nat) : Nat := (x % (c : Int) * 65536 / (c : Int)).toNat

/-- The x of R86 for a station. -/
def phaseX (s : State) (i : Station) : Int :=
  (s.wt.p : Int) - (s.phase i).origin - (s.stationCfg i).distance - (s.phase i).total

/-- The phase target computed and driven; a station not in service keeps 0 (R86). -/
def driveTarget (s : State) (i : Station) : State :=
  if (s.stationCfg i).inService then
    s.setPhase i { s.phase i with target := targetOf (phaseX s i) (s.stationCfg i).circumference }
  else s

/-- Every target computed again (R86). -/
def driveTargets (s : State) : State := overList stationList driveTarget s

/-- A value clamped to ± a limit (00_scope section 5.4). -/
def clampTo (limit v : Int) : Int := max (-limit) (min v limit)

/-- The settle position of a change made now (R91). -/
def settleFrom (s : State) (i : Station) : Nat :=
  s.wt.p + (s.prof.readerDistance - (s.stationCfg i).distance) + s.prof.window

/-- A station put in transit, or kept in it until the later settle position (R91). -/
def beginTransit (s : State) (i : Station) : State :=
  let later := match (s.phase i).settle with
    | some old => max old (settleFrom s i)
    | none => settleFrom s i
  s.setPhase i { s.phase i with settle := some later }

/-- A trim stored; a change drives the target and begins a transit (R89, R90, R91). -/
def storeTrim (s : State) (i : Station) (v : Int) : State :=
  if v = (s.phase i).trim then s
  else beginTransit (driveTarget (s.setPhase i { s.phase i with trim := v }) i) i

/-- A correction stored; a change drives the target and begins a transit (R89, R91, R94, R96). -/
def storeCorrection (s : State) (i : Station) (v : Int) : State :=
  if v = (s.phase i).correction then s
  else beginTransit (driveTarget (s.setPhase i { s.phase i with correction := v }) i) i

/-- Serial of the record covering the mark reader (R95). -/
def readerSerial (s : State) : Word := wordOfNat (serialOr0 (recordUnder s s.prof.readerDistance))

/-- A correction that computed `raw`: stored clamped, with the limit flag and REGISTER_LIMIT (R89, R97). -/
def applyCorrection (s : State) (i : Station) (tag : Word) (raw e : Int) : State :=
  let limit : Int := s.prof.correctionRange
  let v := clampTo limit raw
  let s1 := storeCorrection s i v
  if limit ≤ raw ∨ raw ≤ -limit then
    if (s1.phase i).limitFlag then s1
    else post (s1.setPhase i { s1.phase i with limitFlag := true })
      { kind := .registerLimit, tag := some tag, station := some (wordOfNat (stationNo i)),
        serial := some (readerSerial s1), first := some (wordOfInt v), second := some (wordOfInt e) }
  else s1.setPhase i { s1.phase i with limitFlag := false }

/-- The records of an order list with one order's record changed. -/
def changePhaseOrder (s : State) (tag : Word) (f : PhaseOrder → PhaseOrder) : State :=
  { s with pu.orders := modifyFirst (fun o => o.tag == tag) f s.pu.orders }

/-- A station made UNCAPTURED (R93). -/
def uncapture (s : State) (i : Station) : State := s.setPhase i { s.phase i with captured := false }

/-- A capture refused, with its one report per station and order (R94, R95). -/
def refuseCapture (s : State) (i : Station) (o : PhaseOrder) (index : Nat) (e : Int) : State :=
  if inSet o.captureFails i then s
  else post (changePhaseOrder s o.tag fun r => { r with captureFails := addTo r.captureFails i })
    { kind := .captureFail, tag := some o.tag, station := some (wordOfNat (stationNo i)),
      serial := some (readerSerial s), first := some (wordOfInt e), second := some (wordOfNat index) }

/-- The correction of an UNCAPTURED station (R94). -/
def capture (s : State) (i : Station) (o : PhaseOrder) (index : Nat) (e : Int) : State :=
  if e.natAbs ≤ s.prof.captureLimit then
    applyCorrection (s.setPhase i { s.phase i with captured := true }) i o.tag ((s.phase i).correction - e) e
  else refuseCapture s i o index e

/-- The damped, clamped step of R96. -/
def trackingStep (f : Profile) (e : Int) : Int := clampTo f.maxStep ((e * f.gain).tdiv 16)

/-- The correction of a CAPTURED station (R96). -/
def track (s : State) (i : Station) (tag : Word) (e : Int) : State :=
  if e.natAbs ≤ s.prof.deadband ∨ trackingStep s.prof e = 0 then s
  else applyCorrection s i tag ((s.phase i).correction - trackingStep s.prof e) e

/-- A station that joins the order becomes UNCAPTURED and leaves the join set (R92). -/
def joinOrder (s : State) (i : Station) (o : PhaseOrder) : State :=
  if inSet o.join i then
    uncapture (changePhaseOrder s o.tag fun r => { r with join := minusSet r.join (oneSet i) }) i
  else s

/-- What PU does with one station's error of an evaluation (R92). -/
def correctStation (tag : Word) (index : Nat) (s : State) (named : Station × Int) : State :=
  match s.pu.orders.find? (fun o => o.tag == tag) with
  | none => s
  | some o =>
    if (s.phase named.1).settle.isSome then s
    else
      let s1 := joinOrder s named.1 o
      if (s1.phase named.1).captured then track s1 named.1 tag named.2
      else capture s1 named.1 o index named.2

/-- The key station of a set: its lowest-numbered station (R102). -/
def keyOf (m : StationSet) : Option Station := stationList.find? fun i => inSet m i

/-- What a take does at PU (R87, R93). -/
def phaseTake (s : State) (o : Order) (origin : Nat) (late : Bool) : State :=
  if printsDesign o.kind then
    let record : PhaseOrder :=
      { tag := o.tag, origin := origin, length := o.length, set := o.set, key := keyOf o.set,
        join := if late then o.set else minusSet o.set s.pu.lastSet, captureFails := 0#16 }
    { s with
      pu.orders := s.pu.orders ++ [record]
      pu.lastSet := o.set
      pu.switches := s.pu.switches ++ [origin] }
  else { s with pu.lastSet := 0#16 }

/-- An order's record leaves the order list (R98). -/
def phaseForget (s : State) (tag : Word) : State :=
  { s with pu.orders := s.pu.orders.filter fun o => o.tag != tag }

/-- The reference switch that station `i` meets now (R87). -/
def switchHere (s : State) (i : Station) : Option Nat :=
  s.pu.switches.find? fun o => o + (s.stationCfg i).distance == s.wt.p

/-- A reference switch met (R87). -/
def meetSwitch (s : State) (i : Station) : State :=
  match (s.stationCfg i).inService, switchHere s i with
  | true, some o => driveTarget (s.setPhase i { s.phase i with origin := o }) i
  | _, _ => s

/-- The greatest distance of a station in service. -/
def farthest (f : Profile) : Nat := (inServiceList f).foldl (fun d i => max d (f.stations.get i).distance) 0

/-- Every reference switch due at this position; switches that every station has met are dropped (R87). -/
def meetSwitches (s : State) : State :=
  let s1 := overList stationList meetSwitch s
  { s1 with pu.switches := s1.pu.switches.filter fun o => decide (s1.wt.p < o + farthest s1.prof) }

/-- Whether station `i` settles now (R91). -/
def settlesNow (s : State) (i : Station) : Bool :=
  match (s.phase i).settle with
  | some p => decide (p ≤ s.wt.p)
  | none => false

/-- A settle position reached (R91). -/
def meetSettle (s : State) (i : Station) : State :=
  if settlesNow s i then s.setPhase i { s.phase i with settle := none } else s

/-- Every settle position due at this position. -/
def meetSettles (s : State) : State := overList stationList meetSettle s

end Sys2Proof.Machine
end

