-- ==== Sys2Proof/Machine/Stations.lean ====
section
/-! DEFINITION. The Station Controller (Chapter 4): lead and station points of the closed stretches, end sensors,
timeouts, manual lift, and the clearing of station faults. -/

namespace Sys2Proof.Machine

/-! ### Lead points and station points (R66 to R69, R76) -/

/-- A closed stretch handed to SC: two thresholds for every station in service (R66). -/
def addStretchAt (x : Stretch) (s : State) (i : Station) : State :=
  if (s.stationCfg i).inService then
    s.setChan i { s.chan i with leads := (s.chan i).leads ++ [x], points := (s.chan i).points ++ [x] }
  else s

/-- A closed stretch handed to SC (R66). -/
def addStretch (s : State) (x : Stretch) : State := overList stationList (addStretchAt x) s

/-- The record of a stretch; none for a refused stretch (R66). -/
def stretchRecord (s : State) (x : Stretch) : Option Segment :=
  match x.serial with
  | some n => recordOfSerial s n
  | none => none

/-- Whether a station is in a stretch's required set; a refused stretch requires none (R66). -/
def stretchRequires (s : State) (x : Stretch) (i : Station) : Bool :=
  match stretchRecord s x with
  | some r => inSet r.required i
  | none => false

/-- A stretch's pressure level; 0 for a refused stretch (R66). -/
def stretchPressure (s : State) (x : Stretch) : BitVec 3 :=
  match stretchRecord s x with
  | some r => r.pressure
  | none => 0#3

/-- The four conditions of R67. -/
def stretchNeeds (s : State) (x : Stretch) (i : Station) : Bool :=
  stretchRequires s x i && !(s.chan i).manual && !s.lc.holds.any &&
    !((s.chan i).state == .faulted) && !((s.chan i).state == .out)

/-- The action of an evaluation on the channel (R68). -/
def actOnNeed (s : State) (i : Station) (need : Bool) : State :=
  match (s.chan i).state with
  | .lifted => if need then beginLowering s i else s
  | .lowering | .engaged => if need then s else beginLifting s i
  | .lifting => s.setChan i { s.chan i with pendingLower := need }
  | .out | .faulted => s

/-- The evaluation of a stretch at its lead point (R67, R68). -/
def evaluateLead (s : State) (i : Station) (x : Stretch) : State :=
  if (s.chan i).state == .out then s
  else
    let s1 := s.setChan i { s.chan i with lastRequired := stretchRequires s x i }
    syncEngaged (actOnNeed s1 i (stretchNeeds s x i))

/-- A station added to the printed set of the record with a serial (R76). -/
def addPrinted (s : State) (n : Nat) (i : Station) : State :=
  { s with wt.map := modifyFirst (fun r => r.serial == n) (fun r => { r with printed := addTo r.printed i }) s.wt.map }

/-- The start of a stretch reaching the station (R76). -/
def meetStationPoint (s : State) (i : Station) (x : Stretch) : State :=
  let s1 :=
    if (s.chan i).state == .out then s
    else s.setChan i { s.chan i with pressure := stretchPressure s x }
  match x.serial with
  | some n =>
    if (s.chan i).state == .engaged && stretchRequires s x i then addPrinted s1 n i else s1
  | none => s1

/-- The stretch whose station point lies here (R66). -/
def pointHere (s : State) (i : Station) : Option Stretch :=
  match (s.chan i).points with
  | x :: _ => if x.start + (s.stationCfg i).distance ≤ s.wt.p then some x else none
  | [] => none

/-- The stretch whose lead point lies here (R66). -/
def leadHere (s : State) (i : Station) : Option Stretch :=
  match (s.chan i).leads with
  | x :: _ => if x.start + (s.stationCfg i).distance ≤ s.wt.p + (s.stationCfg i).lead then some x else none
  | [] => none

/-- The thresholds of one station at this position: the station point is judged first, on the state before the
evaluation (R69). -/
def meetStation (s : State) (i : Station) : State :=
  if (s.stationCfg i).inService then
    let point := pointHere s i
    let lead := leadHere s i
    let s1 := match point with
      | some x => meetStationPoint (s.setChan i { s.chan i with points := (s.chan i).points.tail }) i x
      | none => s
    match lead with
    | some x => evaluateLead (s1.setChan i { s1.chan i with leads := (s1.chan i).leads.tail }) i x
    | none => s1
  else s

/-- The thresholds of every station at this position. -/
def meetStations (s : State) : State := overList stationList meetStation s

/-- Whether a station has a threshold here. -/
def stationDue (s : State) (i : Station) : Bool :=
  (s.stationCfg i).inService && ((pointHere s i).isSome || (leadHere s i).isSome)

/-! ### Sensors and timeouts (R70 to R75) -/

/-- The end of a lift, with the deferred lowering (R70). -/
def endOfLift (s : State) (i : Station) : State :=
  let c := s.chan i
  let s1 := s.setChan i { c with state := .lifted, pendingLower := false, timer := .stopped }
  if c.pendingLower && c.lastRequired && !c.manual && !s.lc.holds.any then syncEngaged (beginLowering s1 i) else s1

/-- The end of a lowering (R70). -/
def endOfLowering (s : State) (i : Station) : State :=
  syncEngaged (s.setChan i { s.chan i with state := .engaged, timer := .stopped })

/-- A sensor's level at the pins. -/
def sensorLevel (s : State) (i : Station) (k : Sensor) : Bool :=
  match k with
  | .up => inSet s.pins.upSense i
  | .down => inSet s.pins.downSense i

/-- A station set with one station put in or taken out. -/
def putStation (m : StationSet) (i : Station) (b : Bool) : StationSet :=
  if b then addTo m i else minusSet m (oneSet i)

/-- The pins with one sensor at a new level. -/
def setSensor (s : State) (i : Station) (k : Sensor) (b : Bool) : State :=
  match k with
  | .up => { s with pins.upSense := putStation s.pins.upSense i b }
  | .down => { s with pins.downSense := putStation s.pins.downSense i b }

/-- A sensor change judged by the channel state, the pins already at the new level (R70, R74, R75). -/
def judgeSensor (s : State) (i : Station) (k : Sensor) (b : Bool) : State :=
  match (s.chan i).state with
  | .out | .faulted => s
  | .lifted | .lowering | .engaged | .lifting =>
    if inSet s.pins.upSense i && inSet s.pins.downSense i then faultChannel s i .senseConflict
    else
      match (s.chan i).state, k, b with
      | .lifted, .up, false => faultChannel s i .upLost
      | .lowering, .down, true => endOfLowering s i
      | .engaged, .down, false => faultChannel s i .downLost
      | .lifting, .up, true => endOfLift s i
      | _, _, _ => s

/-- A change of a station sensor; a level that does not change is no change (R74). -/
def sensorChange (s : State) (i : Station) (k : Sensor) (b : Bool) : State :=
  if sensorLevel s i k = b then s else judgeSensor (setSensor s i k b) i k b

/-- The expiry of a channel's actuation timer (R72, R73); a stopped timer does not expire (R65). -/
def actuationExpiry (s : State) (i : Station) : State :=
  if timerDue (s.chan i).timer s.prof.actuationTimeout s.clock then
    match (s.chan i).state with
    | .lowering => faultChannel s i .lowerTimeout
    | .lifting => raiseFault (faultChannel s i .liftTimeout) .stationLift
    | .out | .lifted | .engaged | .faulted => s
  else s

/-! ### Manual lift (R80) -/

/-- The manual lift bit of every station of a set (R80). -/
def setManualAt (m : StationSet) (b : Bool) (s : State) (i : Station) : State :=
  if inSet m i then s.setChan i { s.chan i with manual := b } else s

/-- The manual lift bits of a set's stations (R80). -/
def setManual (s : State) (m : StationSet) (b : Bool) : State := overList stationList (setManualAt m b) s

/-! ### Clearing station faults (R81) -/

/-- CLEAR_FAULT at one channel: LIFTED and UNCAPTURED if UP_SENSE is high, and a conflict again if DOWN_SENSE is high
too (R75, R81, R93). -/
def clearChannel (s : State) (i : Station) : State :=
  if (s.chan i).state == .faulted && inSet s.pins.upSense i then
    let s1 := uncapture (s.setChan i { s.chan i with state := .lifted, reason := none }) i
    if inSet s.pins.downSense i then faultChannel s1 i .senseConflict else s1
  else s

/-- CLEAR_FAULT at every channel (R81). DESIGN CHOICE: the STATION_FAULTs of one command in ascending station order (log entry
8). -/
def clearChannels (s : State) : State := overList stationList clearChannel s

/-- Whether a channel is FAULTED with LIFT_TIMEOUT (R81). -/
def stuckDown (s : State) : Bool :=
  stationList.any fun i => (s.chan i).state == .faulted && (s.chan i).reason == some .liftTimeout

end Sys2Proof.Machine
end

