-- ==== Sys2Proof/Machine/Cuts.lean ====
section
/-! DEFINITION. Cuts and segment records (sections 1.4 and 3.5), and the seam detector with its queue (sections 3.3 and
3.4). -/

namespace Sys2Proof.Machine

/-! ### Segment records (R9 to R13, R63) -/

/-- Fabric kind of an order; a HALT has no fabric (R10). -/
def fabricOf (k : OrderKind) : FabricKind :=
  match k with
  | .print => .print
  | .proof => .proof
  | .blank => .blank
  | .halt => .runOut

/-- The required set of fabric that enters now (R10, R63). -/
def requiredNow (s : State) : StationSet :=
  match entryRecord s with
  | some r => if printsDesign r.order.kind && !s.cp.inside then minusSet r.order.set s.cp.lift else 0#16
  | none => 0#16

/-- The pressure level of fabric that enters now (R10, R63). -/
def pressureNow (s : State) : BitVec 3 :=
  match entryRecord s with
  | some r => if printsDesign r.order.kind then s.cp.pressure else 0#3
  | none => 0#3

/-- The record of the open stretch closed at P, from the attributes in force (R9, R10). -/
def newSegment (s : State) : Segment :=
  let entry := entryRecord s
  { serial := s.wt.nextSerial
    length := s.wt.p - s.wt.lastCut
    pEnd := s.wt.p
    tag := entryTag s
    slot := entry.map fun r => r.slot
    kind := match entry with
      | some r => fabricOf r.order.kind
      | none => .runOut
    required := requiredNow s
    pressure := pressureNow s
    seam := s.cp.inside
    page := match entry with
      | some r => r.order.page
      | none => 7
    dMin := match entry with
      | some r => r.order.dMin
      | none => s.prof.dMin
    dMax := match entry with
      | some r => r.order.dMax
      | none => s.prof.dMax
    printed := 0#16
    stopMarks := 0#16
    registerDefect := false
    dose := 0
    peak := 0
    stale := false
    overcure := false
    verdict := none }

/-- The web map is full (R13). -/
def mapFull (s : State) : Bool := decide (Config.mapCapacity ≤ s.wt.map.length)

/-- The serials are exhausted (R11). -/
def serialsGone (s : State) : Bool := decide (Config.lastSerial < s.wt.nextSerial)

/-- First value word of TRACKING_LOST at a refused cut: 0 for a full map, 1 for exhausted serials; with both no rule gives
the value (R13, log entry 4). -/
def lossWord (s : State) : Option Word :=
  if mapFull s && serialsGone s then none else if mapFull s then some 0#32 else some 1#32

/-- A cut that makes no record: the first of a loss raises TRACKING_LOST and posts its report (R13). -/
def refuseRecord (s : State) : State :=
  if s.wt.lost then s
  else
    let s1 := raiseFault { s with wt.lost := true } .trackingLost
    post s1
      { kind := .trackingLost, first := lossWord s, second := some (mmWord s.wt.p),
        serial := s.wt.map.getLast?.map fun r => wordOfNat r.serial }

/-- First and last serial of the entry order (R46). -/
def noteSerial (s : State) (n : Nat) : State :=
  match s.os.entry with
  | some i => changeOrder s i fun r => { r with firstSerial := if r.firstSerial = 0 then n else r.firstSerial, lastSerial := n }
  | none => s

/-- A record made and appended, with P_c moved, the loss ended and the order's serials noted (R8, R9, R11, R13, R46). -/
def makeRecord (s : State) : State :=
  let r := newSegment s
  noteSerial
    { s with
      wt.map := s.wt.map ++ [r], wt.nextSerial := s.wt.nextSerial + 1, wt.lastCut := s.wt.p, wt.lost := false } r.serial

/-- The record of the open stretch made, or refused at a full map or with the serials exhausted; P_c moves either way (R8, R9,
R11, R13). -/
def recordStretch (s : State) : State :=
  if mapFull s || serialsGone s then refuseRecord { s with wt.lastCut := s.wt.p } else makeRecord s

/-- The open stretch closed at P: a record or none, the stretch to SC, and the station thresholds at the cut position met (R9,
R13, R15, R66). A cut at P_c closes nothing (R8). R15 and R66 have the thresholds of the NEW stretch met at the cut; those of an
OLDER stretch that lie at the cut position, which R1 and R78 let come before or after the effects of the cut (an ORDER_END that
raises a hold), are met here with them if they were not met before: always before those effects. DESIGN CHOICE, unsafe (log
entry 39). -/
def closeStretch (s : State) : State :=
  if s.wt.p ≤ s.wt.lastCut then s
  else
    let serial := if mapFull s || serialsGone s then none else some s.wt.nextSerial
    meetStations (addStretch (recordStretch s) { start := s.wt.lastCut, finish := s.wt.p, serial := serial })

/-! ### Seams (R57 to R60) -/

/-- SEAM_SEEN or SEAM_LOST (R59, R60). -/
def seamReport (s : State) (k : ReportKind) (zoneStart zoneEnd : Nat) : ReportBody :=
  { kind := k, tag := some (entryTag s), station := some 0#32, serial := some (wordOfNat s.wt.nextSerial),
    first := some (mmWord zoneStart), second := some (mmWord zoneEnd) }

/-- An announcement lies close to the newest queued seam, or its zone touches it (R58). DEDUCED: a seam exactly at the minimum
spacing is merged ("within", R58), though section 3.1 says "closer than" (log entry 37). -/
def mergesInto (e : SeamEntry) (position zoneStart spacing : Nat) : Bool :=
  (decide (e.position ≤ position) && decide (position ≤ e.position + spacing)) || decide (zoneStart ≤ e.zoneEnd)

/-- The newest queued seam that an announcement is merged into (R58). -/
def mergeTarget (s : State) (position zoneStart : Nat) : Option SeamEntry :=
  match s.cp.seams.getLast? with
  | some e => if mergesInto e position zoneStart s.prof.seamSpacing then some e else none
  | none => none

/-- A merge (R58): SEAM_SEEN joins the request queue before a read that the moved end starts (log entry 8). -/
def mergeSeam (s : State) (e : SeamEntry) (zoneEnd : Nat) : State :=
  let s1 := { s with cp := extendSeam s.cp e.position (max e.zoneEnd zoneEnd) }
  applySeamRule (post s1 (seamReport s1 .seamSeen e.zoneStart (max e.zoneEnd zoneEnd)))

/-- A distinct seam accepted (R59): SEAM_SEEN joins the request queue before a read that the moved end starts (log entry 8). -/
def acceptSeam (s : State) (position zoneStart zoneEnd : Nat) : State :=
  let s1 := { s with cp := queueSeam s.cp position zoneStart zoneEnd }
  applySeamRule (post s1 (seamReport s1 .seamSeen zoneStart zoneEnd))

/-- A distinct seam lost (R60). -/
def loseSeam (s : State) (zoneStart zoneEnd : Nat) : State :=
  let s1 := raiseFault s .seamLost
  post s1 (seamReport s1 .seamLost zoneStart zoneEnd)

/-- The announcement of a seam whose rise lay at `rise` (R57 to R60). -/
def announceSeam (s : State) (rise : Nat) : State :=
  let position := rise + s.prof.seamDistance
  let zoneStart := position - s.prof.guardBefore
  let zoneEnd := position + s.prof.guardAfter
  match mergeTarget s position zoneStart with
  | some e => mergeSeam s e zoneEnd
  | none =>
    if s.cp.seams.length < Config.seamCapacity then acceptSeam s position zoneStart zoneEnd
    else loseSeam s zoneStart zoneEnd

/-- One µm of print advance at the seam detector (R56). -/
def detectorTravel (c : CutPlanner) : CutPlanner :=
  match c.detector with
  | .rising | .clearing => { c with travel := c.travel + 1 }
  | .idle | .latched => c

/-- The detector's travel has reached the debounce travel (R56). -/
def detectorDue (s : State) : Bool :=
  (s.cp.detector == .rising || s.cp.detector == .clearing) && decide (Config.debounceTravel ≤ s.cp.travel)

/-- What the detector does at the debounce travel (R56). -/
def meetDetector (s : State) : State :=
  if !detectorDue s then s
  else
    match s.cp.detector with
    | .rising => announceSeam { s with cp.detector := .latched } s.cp.risePosition
    | .clearing => { s with cp.detector := .idle }
    | .idle | .latched => s

/-- A rise or fall of the detector level (R56). -/
def judgeSeamLevel (s : State) (level : Bool) : State :=
  match s.cp.detector, level with
  | .idle, true => { s with cp.detector := .rising, cp.risePosition := s.wt.p, cp.travel := 0 }
  | .rising, false => { s with cp.detector := .idle }
  | .latched, false => { s with cp.detector := .clearing, cp.travel := 0 }
  | .clearing, true => { s with cp.detector := .latched }
  | _, _ => s

end Sys2Proof.Machine
end

