-- ==== Sys2Proof/Machine/Reader.lean ====
section
/-! DEFINITION. The Mark Reader (Chapter 6): build points, windows, misses and repeat evaluations. -/

namespace Sys2Proof.Machine

/-! ### Schedules -/

/-- An entry has settled: FOUND, MISSED, SKIPPED or DROPPED (R107). -/
def entrySettled (e : ScheduleEntry) : Bool :=
  e.state == .found || e.state == .missed || e.state == .skipped || e.state == .dropped

/-- Every entry of a schedule has settled (R107). -/
def scheduleComplete (sch : Schedule) : Bool := sch.entries.all entrySettled

/-- Whether a schedule is that of a repeat. -/
def isScheduleOf (tag : Word) (index : Nat) (sch : Schedule) : Bool := sch.tag == tag && sch.index == index

/-- The schedule of a repeat. -/
def scheduleOf (s : State) (tag : Word) (index : Nat) : Option Schedule :=
  s.mr.schedules.find? (isScheduleOf tag index)

/-- An entry of a schedule changed. -/
def changeEntry (s : State) (tag : Word) (index : Nat) (i : Station) (f : ScheduleEntry → ScheduleEntry) : State :=
  let inSchedule (sch : Schedule) : Schedule := { sch with entries := modifyFirst (fun e => e.station == i) f sch.entries }
  { s with mr.schedules := modifyFirst (isScheduleOf tag index) inSchedule s.mr.schedules }

/-- The entry of a station in a schedule. -/
def entryOf (sch : Schedule) (i : Station) : Option ScheduleEntry := sch.entries.find? fun e => e.station == i

/-! ### Register defects (R108, R110) -/

/-- A record carries the schedule's order tag and overlaps its repeat (R108). -/
def overlaps (sch : Schedule) (r : Segment) : Bool :=
  r.tag == sch.tag && decide (r.start < sch.origin + (sch.index + 1) * sch.length) &&
    decide (sch.origin + sch.index * sch.length < r.pEnd)

/-- The register defect set on the records of a repeat (R108, R110). -/
def setRegisterDefect (s : State) (sch : Schedule) : State :=
  let flag (r : Segment) : Segment := if overlaps sch r then { r with registerDefect := true } else r
  { s with wt.map := s.wt.map.map flag }

/-! ### Evaluation (R109 to R111) -/

/-- The deviation of a FOUND entry (R109). -/
def deviationOf (e : ScheduleEntry) : Option Int :=
  if e.state == .found then e.measured.map fun x => x - e.intended else none

/-- The deviation of a station's entry in a schedule, if it is FOUND. -/
def stationDeviation (sch : Schedule) (i : Station) : Option Int := (entryOf sch i).bind deviationOf

/-- The deviation of the key station; none for an unreferenced repeat (R109). -/
def keyDeviation (sch : Schedule) : Option Int := sch.key.bind (stationDeviation sch)

/-- The relative errors of the FOUND stations, in ascending station order (R109). -/
def relativeErrors (sch : Schedule) (dKey : Int) : List (Station × Int) :=
  stationList.filterMap fun i => (stationDeviation sch i).map fun d => (i, d - dKey)

/-- The greatest magnitude of a list of errors and its station, the lower-numbered on a tie (R42, R46, R111). -/
def worstOf (errors : List (Station × Int)) : Option (Station × Nat) :=
  errors.foldl (fun best e =>
    match best with
    | some (_, w) => if w < e.2.natAbs then some (e.1, e.2.natAbs) else best
    | none => some (e.1, e.2.natAbs)) none

/-- The worst error of an order raised (R46, R139). -/
def raiseWorst (s : State) (tag : Word) (worst : Option (Station × Nat)) : State :=
  match orderOfTag s tag, worst with
  | some r, some (i, w) =>
    if r.worst < w then changeOrder s r.slot fun r => { r with worst := w, worstStation := stationNo i } else s
  | _, _ => s

/-- The proof comparison (R42, R111). -/
def compareProof (s : State) (tag : Word) (index : Nat) (worst : Option (Station × Nat)) : State :=
  match orderOfTag s tag, worst with
  | some r, some (i, w) =>
    if r.order.kind == .proof && r.proofFailure.isNone && decide (r.order.tolerance < w) then failProof s r index i else s
  | _, _ => s

/-- The tolerance check: an error above the register tolerance marks the records of the repeat (R110). -/
def checkTolerance (s : State) (sch : Schedule) (errors : List (Station × Int)) : State :=
  if errors.any (fun e => decide (s.prof.tolerance < e.2.natAbs)) then setRegisterDefect s sch else s

/-- What a referenced evaluation does: tolerance, Phase Unit, worst error, proof (R110, R111; log entry 8 on the order). -/
def evaluateReferenced (s : State) (sch : Schedule) (dKey : Int) : State :=
  let errors := relativeErrors sch dKey
  let worst := worstOf errors
  let s1 := checkTolerance s sch errors
  let others := errors.filter fun e => some e.1 != sch.key
  let s2 := others.foldl (correctStation sch.tag sch.index) s1
  compareProof (raiseWorst s2 sch.tag worst) sch.tag sch.index worst

/-- A repeat evaluation; the schedule leaves the list at its end (R109, R111). -/
def evaluateRepeat (s : State) (sch : Schedule) : State :=
  let s1 := match keyDeviation sch with
    | some d => evaluateReferenced s sch d
    | none => s
  { s1 with mr.schedules := s1.mr.schedules.filter fun x => !isScheduleOf sch.tag sch.index x }

/-- The repeat evaluated if its schedule is now complete (R107). -/
def evaluateIfComplete (s : State) (tag : Word) (index : Nat) : State :=
  match scheduleOf s tag index with
  | some sch => if scheduleComplete sch then evaluateRepeat s sch else s
  | none => s

/-! ### Misses (R108) -/

/-- The miss count of a station set. -/
def setMisses (s : State) (i : Station) (n : Nat) : State := { s with mr.misses := s.mr.misses.set i.val n i.isLt }

/-- Serial of the record of a fabric position of an order; 0 if that fabric is untracked. -/
def recordAtFabric (s : State) (origin : Nat) (x : Int) : Option Segment :=
  if (origin : Int) + x < 0 then none else recordAt s ((origin : Int) + x).toNat

/-- An entry MISSED (R108). -/
def missEntry (s : State) (sch : Schedule) (e : ScheduleEntry) : State :=
  let s1 := setRegisterDefect s sch
  let count := s1.mr.misses.get e.station + 1
  if s1.prof.missLimit ≤ count then
    uncapture (post (setMisses s1 e.station 0)
      { kind := .markLost, tag := some sch.tag, station := some (wordOfNat (stationNo e.station)),
        serial := some (wordOfNat (serialOr0 (recordAtFabric s1 sch.origin e.predicted))),
        first := some (wordOfNat sch.index), second := some (wordOfNat s1.prof.missLimit) }) e.station
  else setMisses s1 e.station count

/-- The current entry settled as FOUND or MISSED (R107, R108). -/
def settleEntry (s : State) (c : CurrentEntry) : State :=
  match scheduleOf s c.tag c.index with
  | none => s
  | some sch =>
    match entryOf sch c.station with
    | none => s
    | some e =>
      if e.measured.isSome then
        setMisses (changeEntry s c.tag c.index c.station fun e => { e with state := .found }) c.station 0
      else missEntry (changeEntry s c.tag c.index c.station fun e => { e with state := .missed }) sch e

/-- The reader back to IDLE (R107). -/
def idleReader (s : State) : State :=
  { s with mr.reader := .idle, mr.current := none, mr.timer := .stopped }

/-- The expiry of the evaluation timer (R107); a stopped timer does not expire. The evaluation time is in µs and the line clock
in ms: whole ms count (log entry 3). -/
def evaluationExpiry (s : State) : State :=
  if timerDue s.mr.timer (s.prof.evaluationTime / 1000) s.clock then
    match s.mr.current with
    | some c => evaluateIfComplete (idleReader (settleEntry s c)) c.tag c.index
    | none => idleReader s
  else s

/-! ### Windows (R104 to R106) -/

/-- The reader put into EVALUATING for its current entry (R104, R106). -/
def beginEvaluating (s : State) (c : CurrentEntry) (measured : Option Int) : State :=
  let s1 := changeEntry s c.tag c.index c.station fun e => { e with state := .evaluating, measured := measured }
  { s1 with mr.reader := .evaluating, mr.timer := runTimer s }

/-- An edge from the head (R106). -/
def readEdge (s : State) : State :=
  match s.mr.reader, s.mr.current with
  | .opened, some c =>
    match scheduleOf s c.tag c.index with
    | some sch => beginEvaluating s c (some ((s.wt.p : Int) - sch.origin - s.prof.readerDistance))
    | none => s
  | _, _ => s

/-- The closing position of the OPEN entry lies here (R106). -/
def closingNow (s : State) : Bool :=
  match s.mr.reader, s.mr.current with
  | .opened, some c =>
    match (scheduleOf s c.tag c.index).bind fun sch => entryOf sch c.station with
    | some e => decide (e.closesAt ≤ (s.wt.p : Int))
    | none => false
  | _, _ => false

/-- The OPEN entry missed at its closing position (R106). -/
def meetClosing (s : State) : State :=
  if closingNow s then
    match s.mr.current with
    | some c => beginEvaluating s c none
    | none => s
  else s

/-- An entry WAITING whose opening position lies at or behind P. -/
def opensNow (p : Nat) (e : ScheduleEntry) : Bool := e.state == .waiting && decide (e.opensAt ≤ (p : Int))

/-- The entries to be tested at this position, in order of preference: the oldest schedule's first, and within a schedule in its
order (R105). -/
def openingsHere (s : State) : List (Schedule × ScheduleEntry) :=
  s.mr.schedules.flatMap fun sch => (sch.entries.filter (opensNow s.wt.p)).map fun e => (sch, e)

/-- The screen printed a mark where the entry expects it (R105). -/
def markPrinted (s : State) (sch : Schedule) (e : ScheduleEntry) : Bool :=
  match recordAtFabric s sch.origin e.predicted with
  | some r => r.tag == sch.tag && inSet r.printed e.station
  | none => false

/-- One entry tested at its opening position (R105), and its repeat evaluated if that completes it (R107). -/
def testOpening (s : State) (sch : Schedule) (e : ScheduleEntry) : State :=
  let put (t : State) (st : EntryState) : State := changeEntry t sch.tag sch.index e.station fun e => { e with state := st }
  if !markPrinted s sch e then evaluateIfComplete (put s .dropped) sch.tag sch.index
  else if s.mr.reader == .idle then
    put { s with mr.reader := .opened, mr.current := some { tag := sch.tag, index := sch.index, station := e.station } } .opened
  else evaluateIfComplete (put s .skipped) sch.tag sch.index

/-- Every opening position due here, each entry in turn (R105). -/
def meetOpenings (s : State) : State := overList (openingsHere s) (fun t x => testOpening t x.1 x.2) s

/-! ### Builds (R102, R103) -/

/-- An entry put into a schedule: ascending x_pred, then ascending station (R103). -/
def insertEntry (e : ScheduleEntry) : List ScheduleEntry → List ScheduleEntry
  | [] => [e]
  | x :: rest => if x.predicted ≤ e.predicted then x :: insertEntry e rest else e :: x :: rest

/-- The entry of a station for a repeat; none for a station in transit (R103). -/
def buildEntry (s : State) (c : Cursor) (i : Station) : Option ScheduleEntry :=
  if (s.phase i).settle.isSome then none
  else
    let intended : Int := (c.index * c.length : Nat) + ((s.stationCfg i).markOffset : Int) + (s.phase i).base + (s.phase i).trim
    let predicted := intended + (s.phase i).correction
    let opensAt := (c.origin : Int) + predicted - s.prof.window + s.prof.readerDistance
    some { station := i, intended := intended, predicted := predicted, opensAt := opensAt,
           closesAt := (c.origin : Int) + predicted + s.prof.window + s.prof.readerDistance,
           state := if opensAt ≤ (s.wt.p : Int) then .skipped else .waiting, measured := none }

/-- The schedule of a cursor's next repeat (R103). -/
def buildSchedule (s : State) (c : Cursor) : Schedule :=
  { tag := c.tag, origin := c.origin, length := c.length, key := c.key, index := c.index,
    entries := ((stationList.filter fun i => inSet c.set i).filterMap (buildEntry s c)).foldl
      (fun acc e => insertEntry e acc) [] }

/-- The build point of a cursor's next repeat lies at or behind P (R102). -/
def buildNow (s : State) (c : Cursor) : Bool :=
  decide (c.origin + c.index * c.length + s.prof.readerDistance ≤
    s.wt.p + (s.prof.window + s.prof.correctionRange + Config.buildLead))

/-- The repeat of a cursor starts before the order's end as OS holds it (R102). -/
def repeatBegins (s : State) (c : Cursor) : Bool :=
  match orderOfTag s c.tag with
  | some r => decide (c.origin + c.index * c.length < r.finish)
  | none => false

/-- One build point met (R102, R103); a schedule complete at its build is evaluated there (R107). -/
def meetBuild (s : State) (c : Cursor) : State :=
  if !buildNow s c then s
  else if !repeatBegins s c then { s with mr.cursors := s.mr.cursors.filter fun x => x.tag != c.tag }
  else
    let s1 := { s with mr.cursors := modifyFirst (fun x => x.tag == c.tag) (fun x => { x with index := x.index + 1 }) s.mr.cursors }
    if Config.scheduleCapacity ≤ s.mr.schedules.length then s1
    else
      evaluateIfComplete { s1 with mr.schedules := s1.mr.schedules ++ [buildSchedule s c] } c.tag c.index

/-- Every build point due at this position, in take order (R102). -/
def meetBuilds (s : State) : State := overList s.mr.cursors meetBuild s

/-- The build cursor of an order at its take; a build point already at or behind P is met at once (R102). -/
def readerTake (s : State) (o : Order) (origin : Nat) : State :=
  if printsDesign o.kind then
    let c : Cursor := { tag := o.tag, origin := origin, length := o.length, set := o.set, key := keyOf o.set, index := 0 }
    meetBuild { s with mr.cursors := s.mr.cursors ++ [c] } c
  else s

end Sys2Proof.Machine
end

