-- ==== Sys2Proof/Machine/Orders.lean ====
section
/-! DEFINITION. The Order Sequencer (Chapter 2): validation, takes, starvation, HALT, abort, the ends of reads, closing and
the defect runs that a close ends (section 8.4). -/

namespace Sys2Proof.Machine

/-! ### Validation (R27) -/

/-- Whether any station of a set passes a test. -/
def anyOfSet (m : StationSet) (test : Station → Bool) : Bool := stationList.any fun i => inSet m i && test i

/-- ZONE_ORDER: positions not strictly ascending from 0, or one at or beyond the nominal length (R27). -/
def marksOutOfOrder (nominal : Nat) : Nat → List ZoneMark → Bool
  | _, [] => false
  | last, m :: rest => decide (m.position ≤ last) || decide (nominal ≤ m.position * 1000) || marksOutOfOrder nominal m.position rest

/-- The first check that fails, in the order of R27's table. -/
def refusalOf (s : State) (o : Order) : Option OrderRefusal :=
  let design := printsDesign o.kind
  if o.tag = 0#32 then some .tagZero
  else if s.os.table.any (fun r => r.order.tag == o.tag) then some .tagInUse
  else if design && o.set == 0#16 then some .setEmpty
  else if design && anyOfSet o.set (fun i => !(s.stationCfg i).inService) then some .stationOutOfService
  else if design && anyOfSet o.set (fun i => (s.chan i).state == .faulted) then some .stationFaulted
  else if design && anyOfSet o.set (fun i => (s.stationCfg i).circumference != o.length) then some .repeatMismatch
  else if design && (o.count == 0 || decide (255 < o.overrun)) then some .countRange
  else if o.kind == .blank && (outside o.length 100 1000000 || decide (100000 < o.overrun)) then some .lengthRange
  else if o.kind != .halt && (decide (o.dMax < o.dMin) || decide (Config.cureLimit < o.dMax)) then some .cureLimits
  else if design && decide (16 < o.markCount) then some .zoneCount
  else if design && marksOutOfOrder (o.count * o.length) 0 o.marks then some .zoneOrder
  else if o.kind == .proof && o.tolerance == 0 then some .proofTolerance
  else none

/-! ### Starvation (R37) -/

/-- The next-order status after a boundary without a settled order (R37). -/
def statusAfterStarvation (s : State) : State :=
  match s.os.status with
  | .held => startConfirmRead s
  | .barred => { s with os.status := .empty }
  | .empty | .reading | .confirming | .settled => s

/-- The tail disposition of an ended order; a failed proof has the tail HOLD (R37). -/
def applyTail (s : State) (r : InFlight) : State :=
  if r.order.tail == .hold || r.proofFailure.isSome then raiseCause s .order none else s

/-- The entry order ends without a successor (R37, R62). R37 gives no order between the confirm read of a HELD status and the
HOLD_ON of the tail HOLD (R146), and R160 lets the two join the request queue in either order: the model queues the confirm read
first. DESIGN CHOICE, unsafe (log entry 8). -/
def starve (s : State) (r : InFlight) : State :=
  let s1 := setLine { s with os.entry := none, cp := plainAttributes s.cp } .ready
  applyTail (statusAfterStarvation s1) r

/-! ### Takes (R35, R36, R38, R39) -/

/-- The in-flight record of an order taken now, with its seam end (R36, R40, R41). -/
def takenRecord (s : State) (o : Order) (late : Bool) : InFlight :=
  let r : InFlight :=
    { slot := s.os.next, order := o, origin := s.wt.p, finish := plannedEnd o s.wt.p, ended := false, late := late,
      aborted := false, seamEnd := none, proofEnd := none, proofFailure := none, firstSerial := 0, lastSerial := 0,
      segments := 0, accepted := 0, classes := {}, worst := 0, worstStation := 0, printed := false, closing := false }
  let r1 := { r with seamEnd := seamEndNow r s.cp.seams }
  { r1 with finish := leastEnd r1 }

/-- Steps 1 and 2 of a take: the record, the entry order, the line (R36). The copy is consumed. -/
def enterOrder (s : State) (r : InFlight) : State :=
  let s1 := { s with os.table := s.os.table ++ [r], os.entry := some r.slot, os.copy := none, os.status := .empty }
  if r.order.kind == .halt then s1 else setLine s1 .printing

/-- Step 3: what OS hands its neighbours (R36), and the alert flag of the slot (R124). -/
def handNeighbours (s : State) (r : InFlight) : State :=
  let s1 := { s with
    cp := planTake s.cp r.order r.origin r.finish s.wt.p
    ci.alerts := s.ci.alerts &&& ~~~(1#64 <<< r.slot.val) }
  readerTake (phaseTake s1 r.order r.origin r.late) r.order r.origin

/-- Steps 4 and 5: TAKEN, the next slot, ORDER_TAKEN (R36). -/
def reportTake (s : State) (r : InFlight) : State :=
  let s1 := handOver s (.takeWrite r.slot)
  post { s1 with os.next := r.slot + 1 }
    { kind := .orderTaken, tag := some r.order.tag, serial := some (wordOfNat s.wt.nextSerial),
      first := some (wordOfNat r.slot.val), second := some (wordOfNat (bitOf r.late 0)) }

/-- A HALT is at its end at its take (R39). DESIGN CHOICE: its ORDER_TAKEN, a step of the take, comes before the HOLD_ON of the
cause that the end raises (log entry 8). -/
def endHalt (s : State) (r : InFlight) : State :=
  let r1 := { r with ended := true }
  starve (raiseCause (changeOrder s r.slot fun x => { x with ended := true }) .order none) r1

/-- A take of an order at P (R36); for a HALT, ORDER_TAKEN before the HOLD_ON of its end (R39; log entry 8). -/
def takeOrder (s : State) (o : Order) (late : Bool) : State :=
  let r := takenRecord s o late
  let s1 := reportTake (handNeighbours (enterOrder s r) r) r
  if o.kind == .halt then endHalt s1 r else startSlotRead s1

/-- A late start: a cut now, except for a HALT, and the take (R38, R39). -/
def lateStart (s : State) (o : Order) : State :=
  if o.kind == .halt then takeOrder s o true else takeOrder (closeStretch s) o true

/-- The ORDER_END cut of the entry order: a take on time, or starvation (R35, R37, R53, R54). -/
def reachEnd (s : State) : State :=
  match entryRecord s with
  | none => s
  | some r =>
    let s1 := changeOrder s r.slot fun x => { x with ended := true }
    let s2 := { s1 with cp := withdrawOrder s1.cp }
    match s.os.status, s.os.copy with
    | .settled, some o => takeOrder s2 o false
    | _, _ => starve s2 { r with ended := true }

/-! ### Ends of reads (R28 to R31) -/

/-- A slot read that ended valid (R30). In PRINTING it ends by the third column of the table, SETTLED, if the confirm point was
reached at any time of the read, also where the end has moved on since (the READING row of R31). -/
def readValid (s : State) (o : Order) : State :=
  match s.lc.line with
  | .printing =>
    { s with os.copy := some o, os.status := if s.os.pastConfirm || confirmPassed s then .settled else .held }
  | .ready => lateStart s o
  | .unloaded | .loading => s

/-- A slot read that ended not armed, or invalid (R30). -/
def readEmpty (s : State) : State := { s with os.status := .empty, os.copy := none }

/-- A confirm read that ended unchanged (R31). -/
def confirmUnchanged (s : State) : State :=
  match s.lc.line, s.os.copy with
  | .printing, _ => { s with os.status := .settled }
  | .ready, some o => lateStart s o
  | _, _ => s

/-- A confirm read that ended changed: the copy is flushed and a full read begins (R31). -/
def confirmChanged (s : State) : State := startSlotRead { s with os.copy := none }

/-! ### Cuts at P (R8, R9) -/

/-- The effect of one pending cut entry on the fabric after the cut (R9, R52). -/
def cutEffect (s : State) (e : CutEntry) : State :=
  match e.kind with
  | .orderEnd => reachEnd s
  | .zoneMark i => { s with cp := applyMark s.cp i }
  | .seamStart n => { s with cp := openSeam s.cp n }
  | .seamEnd n => { s with cp := closeSeam s.cp n }

/-- A cut cause lies at P: the length, or the first pending entry (R8). -/
def cutDue (s : State) : Bool :=
  decide (s.wt.lastCut + s.prof.segmentLength ≤ s.wt.p) ||
    (match s.cp.pending with
     | e :: _ => decide (e.position ≤ s.wt.p)
     | [] => false)

/-- A cut at P with the effects of every entry at P (R8, R9, R52). -/
def meetCut (s : State) : State :=
  if !cutDue s then s
  else
    let s1 := closeStretch s
    let here := s1.cp.pending.filter fun e => decide (e.position ≤ s1.wt.p)
    let ahead := s1.cp.pending.filter fun e => !decide (e.position ≤ s1.wt.p)
    here.foldl cutEffect { s1 with cp.pending := ahead }

/-! ### Abort (R43) -/

/-- The entry order leaves the entry: its cut entries and marks withdrawn, the zone attributes plain (R53, R62). -/
def leaveEntry (s : State) : State :=
  { s with cp := plainAttributes (withdrawOrder s.cp), os.entry := none }

/-- The end of an aborted order: the present P (R43). -/
def abortedAt (p : Nat) (r : InFlight) : InFlight := { r with finish := p, ended := true, aborted := true }

/-- ABORT_ORDER in PRINTING (R43, R53, R62). -/
def abortEntry (s : State) : State :=
  match entryRecord s with
  | none => s
  | some r =>
    let s1 := closeStretch s
    let s2 := discardReads (leaveEntry (changeOrder s1 r.slot (abortedAt s1.wt.p)))
    setLine { s2 with os.status := .empty } .ready

/-! ### Printed (R45) -/

/-- An order's last fabric reaches the mark reader now (R45). -/
def printedNow (s : State) (r : InFlight) : Bool :=
  !r.printed && r.ended && decide (r.finish + s.prof.readerDistance ≤ s.wt.p)

/-- ORDER_PRINTED of one order (R45). -/
def reportPrinted (s : State) (r : InFlight) : State :=
  post (changeOrder s r.slot fun x => { x with printed := true })
    { kind := .orderPrinted, tag := some r.order.tag, serial := some (wordOfNat r.lastSerial),
      first := some (wordOfNat r.slot.val), second := some (mmWord r.finish) }

/-- Every ORDER_PRINTED due at this position, in take order (R45). -/
def meetPrinted (s : State) : State := (s.os.table.filter (printedNow s)).foldl reportPrinted s

/-! ### Confirm point (R31) -/

/-- The confirm point of the entry order lies exactly at P (R31). -/
def confirmHere (s : State) : Bool :=
  match entryRecord s with
  | some r => !r.ended && decide (r.finish = s.wt.p + Config.confirmDistance)
  | none => false

/-- The confirm point met (R31). -/
def meetConfirm (s : State) : State := if confirmHere s then atConfirmPoint s else s

/-! ### Defect runs (R141) -/

/-- A run reported, none open afterwards (R141). -/
def reportRun (s : State) (run : DefectRun) : State :=
  post { s with co.run := none }
    { kind := .defectRun, tag := some run.tag, station := some 0#32, serial := some (wordOfNat run.firstSerial),
      first := some (wordOfNat run.count), second := some (wordOfNat run.defects.mask) }

/-- The open run reported if it is of an order's group (R141). -/
def reportRunOf (s : State) (slot : Slot) (tag : Word) : State :=
  match s.co.run with
  | some run => if run.slot = some slot ∧ run.tag = tag then reportRun s run else s
  | none => s

/-! ### Closing (R18, R47, R48) -/

/-- The oldest order is due to close (R47). -/
def dueToClose (s : State) : Option InFlight :=
  match s.os.table, s.wt.horizon with
  | r :: _, some x => if r.ended && !r.closing && decide (r.finish ≤ x) && !s.xi.suspended then some r else none
  | _, _ => none

/-- A close begun: the run of the order reported first, then the close writes handed over (R48, R141). R141 has DEFECT_RUN come
before ORDER_CLOSED; that it joins the request queue before the close writes is a DESIGN CHOICE, unsafe (log entry 8). -/
def beginClose (s : State) (r : InFlight) : State :=
  let s1 := reportRunOf s r.slot r.order.tag
  let report : CloseReport := { tag := r.order.tag, lastSerial := r.lastSerial, outcome := outcomeOf r }
  handOver (changeOrder s1 r.slot fun x => { x with closing := true })
    (.closeWrite r.slot (resultWords r (outcomeOf r)) report)

/-- OS tests its close condition (R47, R48). -/
def testClose (s : State) : State :=
  match dueToClose s with
  | some r => beginClose s r
  | none => s

/-- The exit horizon given to OS (R18); below 0 it is none. -/
def giveHorizon (s : State) : State :=
  let x : Int := (s.wt.q : Int) - s.wt.k - s.prof.ovenLength
  if x < 0 then s else testClose { s with wt.horizon := some x.toNat }

/-- A close whose DONE write is done: ORDER_CLOSED, the records removed, the next order tested (R47, R48, R98). -/
def endClose (s : State) (slot : Slot) (c : CloseReport) : State :=
  let s1 := post s
    { kind := .orderClosed, tag := some c.tag, serial := some (wordOfNat c.lastSerial),
      first := some (wordOfNat slot.val), second := some (wordOfNat c.outcome.code) }
  testClose (phaseForget { s1 with os.table := s1.os.table.filter fun r => !(r.slot == slot && r.order.tag == c.tag) } c.tag)

end Sys2Proof.Machine
end

