-- ==== Sys2Proof/Machine/Closeout.lean ====
section
/-! DEFINITION. Close-out (R17, Chapter 8): the cure classes, the verdict, the quality map entry, the order tallies and the
defect runs. -/

namespace Sys2Proof.Machine

/-- The defect set of an exiting segment (R128, R133). -/
def defectsOf (r : Segment) : DefectSet :=
  { missingColour := minusSet r.required r.printed != 0#16
    stopMark := r.stopMarks != 0#16
    register := r.registerDefect
    seam := r.seam
    undercured := decide (r.dose < r.dMin * 1000)
    overcured := r.overcure
    unverified := r.stale }

/-- Index of a quality map entry (R135). -/
def mapIndex (serial : Nat) : Nat := serial % 4096

/-- Offset of a quality map entry (R183). -/
def mapOffset (serial : Nat) : Nat := 0x07000 + 16 * mapIndex serial

/-- The five words of a quality map write in their order (R135, R158, R183). -/
def mapWords (r : Segment) (d : DefectSet) : List Word :=
  [0#32, r.tag, wordOfNat (r.printed.toNat + r.peak * 2 ^ 16), wordOfNat (r.dose / 1000 + d.mask * 2 ^ 23),
   wordOfNat r.serial]

/-- Step 4: the segment counted into its order's tallies (R138). -/
def tallySegment (s : State) (r : Segment) (d : DefectSet) : State :=
  match r.slot with
  | none => s
  | some i =>
    let count (x : InFlight) : InFlight :=
      { x with
        segments := raiseTally x.segments
        accepted := if d.any then x.accepted else raiseTally x.accepted
        classes := x.classes.add d }
    { s with os.table := modifyFirst (fun x => x.slot == i && x.order.tag == r.tag) count s.os.table }

/-- A run that begins with a segment (R140). -/
def runFrom (r : Segment) (d : DefectSet) : DefectRun :=
  { slot := r.slot, tag := r.tag, firstSerial := r.serial, count := 1, defects := d }

/-- Step 5: the defect-run bookkeeping (R140). -/
def followRun (s : State) (r : Segment) (d : DefectSet) : State :=
  match s.co.run with
  | none => if d.any then { s with co.run := some (runFrom r d) } else s
  | some run =>
    if d.any && decide (run.defects = d ∧ run.slot = r.slot ∧ run.tag = r.tag) then
      { s with co.run := some { run with count := raiseTally run.count } }
    else
      let s1 := reportRun s run
      if d.any then { s1 with co.run := some (runFrom r d) } else s1

/-- The verdict of a record that its close-out has settled; its defect set if not (R133). -/
def verdictOf (r : Segment) : DefectSet := r.verdict.getD (defectsOf r)

/-- Steps 4 and 5 for the oldest record, and its removal: records leave at the oldest end (R11, R17). -/
def settleExit (s : State) (r : Segment) : State :=
  let s1 := followRun (tallySegment s r (verdictOf r)) r (verdictOf r)
  { s1 with wt.map := s1.wt.map.tail, co.waiting := none }

/-- The oldest record, if it has this serial: the record whose close-out waits for a quality map write (R17). -/
def oldestWith (s : State) (serial : Nat) : Option Segment := s.wt.map.head?.filter fun r => r.serial == serial

/-- Whether an exited segment awaits close-out. -/
def exitWaits (s : State) : Bool :=
  match s.wt.map with
  | r :: _ => exited s r
  | [] => false

/-- The end of a close-out whose quality map write has ended, done or not (R17, R18, R136). -/
def finishExit (s : State) (serial : Nat) : State :=
  match oldestWith s serial with
  | none => { s with co.waiting := none }
  | some r =>
    let s1 := settleExit s r
    if exitWaits s1 then s1 else giveHorizon s1

/-- The close-out of the oldest exited segment begun: cure settling, verdict, quality map write; while XI is suspended the
write is skipped (R17, R128, R133, R135, R136). -/
def beginExit (s : State) (r : Segment) : State :=
  let d := defectsOf r
  let s1 := { s with wt.map := modifyFirst (fun x => x.serial == r.serial) (fun x => { x with verdict := some d }) s.wt.map }
  if s.xi.suspended then finishExit s1 r.serial
  else enqueue { s1 with co.waiting := some r.serial } (.mapWrite r.serial (mapWords r d))

/-- CLOSE_OUT: the oldest exited segment, when no close-out is under way (R17). -/
def startExit (s : State) : State :=
  match s.co.waiting, s.wt.map with
  | none, r :: _ => if exited s r then beginExit s r else s
  | _, _ => s

end Sys2Proof.Machine
end

