-- ==== Sys2Proof/Machine/Cure.lean ====
section
/-! DEFINITION. The Cure Integrator (Chapter 7): zone frames and freshness, cure rates, dose integration and setback. -/

namespace Sys2Proof.Machine

/-! ### Zones (R114 to R117) -/

/-- A zone's state. -/
def State.zone (s : State) (z : Zone) : ZoneState := s.ci.zones.get z

/-- A zone's state written back. -/
def State.setZone (s : State) (z : Zone) (x : ZoneState) : State :=
  { s with ci.zones := s.ci.zones.set z.val x z.isLt }

/-- The zone that contains an oven distance (R114). -/
def zoneAt (s : State) (c : Nat) : Option Zone :=
  zoneList.find? fun z =>
    match s.prof.zones[z.val]? with
    | some (a, b) => decide (a ≤ c) && decide (c < b)
    | none => false

/-- ZONE_STALE with its reason (R117). -/
def postStale (s : State) (z : Zone) (reason : Nat) : State :=
  post s
    { kind := .zoneStale, tag := some 0#32, station := some (wordOfNat (zoneNo z)), serial := some 0#32,
      first := some (wordOfNat reason), second := some (wordOfNat (s.zone z).temperature) }

/-- A valid frame (R115, R116). -/
def validFrame (s : State) (z : Zone) (sample : Nat) : State :=
  let t := min sample Config.peakLimit
  let s1 := s.setZone z { temperature := t, fresh := true, timer := runTimer s }
  if (s.zone z).fresh then s1
  else post s1
    { kind := .zoneFresh, tag := some 0#32, station := some (wordOfNat (zoneNo z)), serial := some 0#32,
      first := some (wordOfNat t), second := some (wordOfNat (bitOf (decide (Config.peakLimit < sample)) 0)) }

/-- A fault frame (R115, R116). -/
def faultFrame (s : State) (z : Zone) : State :=
  if (s.zone z).fresh then
    postStale (s.setZone z { s.zone z with fresh := false, timer := .stopped }) z 1
  else s

/-- The zone that a frame's number names: 1..Z (R115). -/
def frameZone (s : State) (n : Nat) : Option Zone :=
  if s.prof.zones.length < n then none else zoneList.find? fun z => zoneNo z == n

/-- The expiry of a zone's stale timer (R116); a stopped timer does not expire, nor one that a frame has just restarted. -/
def staleExpiry (s : State) (z : Zone) : State :=
  if timerDue (s.zone z).timer s.prof.staleLimit s.clock then
    postStale (s.setZone z { s.zone z with fresh := false, timer := .stopped }) z 0
  else s

/-! ### Cure rate (R118, R119) -/

/-- The page in use for a segment (R118). -/
def pageInUse (f : Profile) (p : Page) : List (Nat × Nat) :=
  if (f.pages.get p).length < 2 then f.pages.get 7 else f.pages.get p

/-- The rate between two points of a page (R119). -/
def interpolate (a b : Nat × Nat) (t : Nat) : Nat := a.2 + (b.2 - a.2) * (t - a.1) / (b.1 - a.1)

/-- The rate at a temperature above the first of the points still to be looked at. -/
def rateFrom (a : Nat × Nat) : List (Nat × Nat) → Nat → Nat
  | [], _ => a.2
  | b :: rest, t => if t < b.1 then interpolate a b t else rateFrom b rest t

/-- The cure rate of a page at a temperature (R119). -/
def cureRate (page : List (Nat × Nat)) (t : Nat) : Nat :=
  match page with
  | [] => 0
  | a :: rest => if t ≤ a.1 then a.2 else rateFrom a rest t

/-! ### Dose integration (R121 to R124) -/

/-- The dose interval Δ, ms (R120). -/
def doseInterval (f : Profile) : Nat := 2 ^ f.doseExponent

/-- Steps 2 to 4 of an integration, for a segment whose centre lies in a zone (R121). -/
def addDose (f : Profile) (x : ZoneState) (r : Segment) : Segment :=
  { r with
    dose := min (r.dose + cureRate (pageInUse f r.page) x.temperature * doseInterval f) Config.wordLimit
    peak := max r.peak x.temperature
    stale := r.stale || !x.fresh }

/-- The overcure test has set the flag at this integration (R123). -/
def newlyOvercured (before after : Segment) : Bool := !before.overcure && decide (after.dMax * 1000 < after.dose)

/-- One integration of a segment: the record after it (R121, R123). -/
def integrated (s : State) (r : Segment) : Segment :=
  if !inOven s r then r
  else
    match zoneAt s (ovenCentre s r) with
    | none => r
    | some z =>
      let r1 := addDose s.prof (s.zone z) r
      { r1 with overcure := r1.overcure || newlyOvercured r r1 }

/-- Whether the alert flag of a slot is set (R124). -/
def alertSet (s : State) (i : Slot) : Bool := s.ci.alerts.getLsbD i.val

/-- OVERCURE_ALERT for a segment overcured at this expiry, once per order (R124). -/
def alertFor (s : State) (r : Segment) : State :=
  match inOven s r, zoneAt s (ovenCentre s r), r.slot with
  | true, some z, some i =>
    let r1 := addDose s.prof (s.zone z) r
    if newlyOvercured r r1 && !alertSet s i then
      post { s with ci.alerts := s.ci.alerts ||| (1#64 <<< i.val) }
        { kind := .overcureAlert, tag := some r.tag, station := some (wordOfNat (zoneNo z)),
          serial := some (wordOfNat r.serial), first := some (wordOfNat (r1.dose / 1000)), second := some (wordOfNat r.dMax) }
    else s
  | _, _, _ => s

/-- The dose interval timer after an expiry at line clock `clk`: its next interval began at the last whole multiple of Δ, so
that the expiries keep their phase and none is taken twice (R120). -/
def nextInterval (t : Timer) (interval : Nat) (clk : Word) : Timer :=
  match t with
  | .stopped => .stopped
  | .running since => .running (since + wordOfNat (elapsed since clk / interval * interval))

/-- The integration of one expiry: the alerts in serial order, and every OVEN record (R121, R124). -/
def integrateDose (s : State) : State :=
  let s1 := s.wt.map.foldl alertFor s
  { s1 with
    wt.map := s.wt.map.map (integrated s)
    ci.doseTimer := nextInterval s.ci.doseTimer (doseInterval s.prof) s.clock }

/-- The expiry of the dose interval timer (R120, R121); a stopped timer does not expire. -/
def doseExpiry (s : State) : State :=
  if timerDue s.ci.doseTimer (doseInterval s.prof) s.clock then integrateDose s else s

/-! ### Setback (R126, R127) -/

/-- An oven advance at the setback timer and output (R126). -/
def setbackAdvance (s : State) : State :=
  if s.ci.setback then
    post { s with ci.setback := false, ci.setbackTimer := runTimer s }
      { kind := .setbackOff, tag := some 0#32, station := some 0#32, serial := some 0#32, first := some (mmWord s.wt.q),
        second := some (s.clock - s.ci.setbackStart) }
  else { s with ci.setbackTimer := runTimer s }

/-- How many segments are in the OVEN section. -/
def ovenCount (s : State) : Nat := (s.wt.map.filter (inOven s)).length

/-- The expiry of the setback timer (R126, R127); a stopped timer does not expire, nor one that an advance has just restarted.
The setback delay is in s. -/
def setbackExpiry (s : State) : State :=
  if timerDue s.ci.setbackTimer (s.prof.setbackDelay * 1000) s.clock then
    post { s with ci.setback := true, ci.setbackStart := s.clock, ci.setbackTimer := .stopped }
      { kind := .setbackOn, tag := some 0#32, station := some 0#32, serial := some 0#32, first := some (mmWord s.wt.q),
        second := some (wordOfNat (ovenCount s)) }
  else s

end Sys2Proof.Machine
end

