-- ==== Sys2Proof/Machine/Profile.lean ====
section
/-! DEFINITION. Loading and unloading a profile (sections 11.3 and 11.4): acceptance, rejection, completion, and the stages
and the end of an unload. -/

namespace Sys2Proof.Machine

/-! ### Loading (R172 to R175) -/

/-- The end of a LOAD_PROFILE or UNLOAD: command busy clears and CMD_DONE is set (R171). -/
def endCommand (s : State) : State := { s with busy := false, events.cmdDone := true }

/-- The acceptance of LOAD_PROFILE (R166, R172). R166 has no transaction in hand after it; the rules do not say whether the write
access in hand at it (of a PROFILE_REJECTED still being written) reaches memory. The model stops it and writes nothing of it.
DESIGN CHOICE, unsafe (log entry 40). -/
def beginLoad (s : State) : State :=
  let s1 := setLine { s with xi := resetExchange, busy := true } .loading
  enqueue s1 .profileRead

/-- A rejection (R174). -/
def rejectLoad (s : State) (reason item : Nat) : State :=
  endCommand (post (setLine s .unloaded)
    { kind := .profileRejected, tag := some 0#32, station := some 0#32, serial := some 0#32,
      first := some (wordOfNat reason), second := some (wordOfNat item) })

/-- A channel at the completion of a load (R84). -/
def loadedChannel (f : Profile) (i : Station) : Channel :=
  if (f.stations.get i).inService then { resetChannel with state := .lifted } else resetChannel

/-- A station's phase state at the completion of a load, its target still to be computed (R100). -/
def loadedPhase (f : Profile) (i : Station) : PhaseStation :=
  if (f.stations.get i).inService then { resetPhaseStation with base := (f.stations.get i).base } else resetPhaseStation

/-- The Web Tracker at the completion of a load (R20). -/
def loadedTracker (f : Profile) : WebTracker := { resetTracker with k := f.festoonFill + f.tableExit }

/-- The Cut Planner at the completion of a load (R64). -/
def loadedPlanner (seamLevel : Bool) : CutPlanner :=
  { resetPlanner with detector := if seamLevel then .latched else .idle }

/-- The Cure Integrator at the completion of a load (R131). -/
def loadedCure (s : State) : CureIntegrator := { resetCure with doseTimer := runTimer s, setbackStart := s.clock }

/-- Stage 1 of a completion: every block takes its values (R175). -/
def takeProfile (s : State) (f : Profile) : State :=
  driveTargets { s with
    prof := f
    wt := loadedTracker f
    cp := loadedPlanner s.pins.seamLevel
    os := resetSequencer
    sc := ⟨⟨stationList.map (loadedChannel f)⟩, rfl⟩
    pu := { resetPhaseUnit with stations := ⟨⟨stationList.map (loadedPhase f)⟩, rfl⟩ }
    mr := resetReader
    ci := loadedCure s
    co := resetCloseOut
    lc := resetLine }

/-- PROFILE_LOADED (R175). -/
def loadedReport (f : Profile) : ReportBody :=
  { kind := .profileLoaded, tag := some 0#32, station := some 0#32, serial := some 0#32,
    first := some ((inServiceSet f).setWidth 32), second := some (wordOfNat f.zones.length) }

/-- The completion of a load whose every item has passed, stage by stage (R175). -/
def completeLoad (s : State) (f : Profile) : State :=
  let s1 := takeProfile s f
  let s2 := { s1 with lc.line := .ready }
  endCommand (judgePermit (deliverFestoon (post s2 (loadedReport f))))

/-- The word that a list of words read holds at an offset; 0 for a word not read. -/
def wordAt (got : List (Nat × Word)) (offset : Nat) : Word :=
  match got.find? fun g => g.1 == offset with
  | some g => g.2
  | none => 0#32

/-- The end of a profile read with every word (R172, R173). -/
def endProfileRead (s : State) (got : List (Nat × Word)) : State :=
  let w (i : Nat) : Word := wordAt got (4 * i)
  match profileFault w with
  | some (reason, item) => rejectLoad s reason item
  | none => completeLoad s (profileOf w)

/-! ### Unloading (R51, R142, R176) -/

/-- An UNLOAD whose writes have all been served or ended: XI takes its reset values and the command ends (R166, R176). -/
def endUnload (s : State) : State :=
  if s.lc.line == .unloaded && s.busy && s.xi.queue.isEmpty && s.xi.inHand.isNone then
    endCommand { s with xi := resetExchange }
  else s

/-- Stage 1: a waiting close-out makes its steps 4 and 5 at once; the map and the open run are discarded (R21, R142). -/
def dropFabric (s : State) : State :=
  let s1 := match s.co.waiting.bind (oldestWith s) with
    | some r => settleExit s r
    | none => s
  { s1 with wt := resetTracker, co := resetCloseOut }

/-- The abandonment writes of one order (R51). -/
def abandonOrder (s : State) (r : InFlight) : State := handOver s (.abandonWrite r.slot (resultWords r .abandoned))

/-- Stage 2: every order of the table abandoned in take order, but one whose close writes are under way; the reads are
discarded and OS takes its reset values (R50, R51). -/
def abandonOrders (s : State) : State :=
  let s1 := (s.os.table.filter fun r => !r.closing).foldl abandonOrder s
  let s2 := discardReads s1
  { s2 with os := resetSequencer }

/-- Stage 3: the stations, the phase unit, the reader, the planner and the cure integrator take their reset values (R64, R85,
R101, R113, R132, R176). DEDUCED: the setback start too (log entry 38). -/
def resetBlocks (s : State) : State :=
  { s with
    sc := Vector.replicate 16 resetChannel
    pu := resetPhaseUnit
    mr := resetReader
    cp := resetPlanner
    ci := resetCure }

/-- HOLD_OFF at UNLOAD, listing every cause held (R147, R155). -/
def unloadHoldOff (s : State) : State := if s.lc.holds.any then post s (holdOffReport s s.lc.holds) else s

/-- Stage 4: the hold set emptied, the line UNLOADED, the permit removed (R155). The profile's fields leave with it. -/
def closeLine (s : State) : State :=
  let s1 := unloadHoldOff s
  judgePermit { s1 with lc := { resetLine with holdStart := s1.lc.holdStart }, prof := noProfile }

/-- An accepted UNLOAD (R176). -/
def unloadLine (s : State) : State :=
  endUnload (closeLine (resetBlocks (abandonOrders (dropFabric { s with busy := true }))))

end Sys2Proof.Machine
end

