-- ==== Sys2Proof/Machine/Exchange.lean ====
section
/-! DEFINITION. The Exchange Interface (Chapter 10): the service of transactions, the ends of accesses with what each
requester then does, bus faults and suspension, and the writing of the report ring. -/

namespace Sys2Proof.Machine

/-! ### Accesses -/

/-- The read of a word at an offset. -/
def readAt (offset : Nat) : Access := { offset := offset, write := none, mark := .plain }

/-- The write of a word at an offset. -/
def writeAt (offset : Nat) (w : Word) : Access := { offset := offset, write := some w, mark := .plain }

/-- Words written at ascending offsets (R158). -/
def writesFrom (offset : Nat) : List Word → List Access
  | [] => []
  | w :: rest => writeAt offset w :: writesFrom (offset + 4) rest

/-- Close or abandonment writes: the result words in ascending offset, then DONE (R49, R158). -/
def resultAccesses (slot : Slot) (words : List Word) : List Access :=
  writesFrom (slotOffset slot + 0xC0) words ++ [writeAt (slotOffset slot) doneCode]

/-- The five accesses of a quality map write (R158, R183). -/
def mapAccesses (serial : Nat) (words : List Word) : List Access :=
  ([0, 4, 8, 12, 0].zip words).map fun (k, w) => writeAt (mapOffset serial + k) w

/-- Offset of the ring slot of a sequence (R163, R182). -/
def ringOffset (seq : BitVec 16) : Nat := 0x05000 + 32 * (seq.toNat % Config.ringSlots)

/-- The eight writes of a report record, the sequence word last (R158, R163, R182). -/
def recordAccesses (p : Posting) (seq : BitVec 16) (done : AccessMark) : List Access :=
  writesFrom (ringOffset seq) [wordOfNat p.kind.code, p.tag, p.station, p.serial, p.clock, p.first, p.second] ++
    [{ offset := ringOffset seq + 28, write := some (seq.setWidth 32), mark := done }]

/-- The GAP record of a service (R164). -/
def gapPosting (s : State) : Posting :=
  { kind := .gap, tag := 0#32, station := 0#32, serial := 0#32, clock := s.clock, first := wordOfNat s.xi.lost,
    second := s.xi.firstLoss }

/-- Records written and not yet retired: (W − H) mod 65,536 (R163). -/
def ringUsed (x : ExchangeInterface) : Nat := (x.written - x.retired).toNat

/-! ### Service (R159, R160, R163, R164) -/

/-- An access begun: its address from EXBASE and its offset, and the timer started (R157, R159, R167). -/
def beginAccess (s : State) (h : InHand) (a : Access) (rest : List Access) : State :=
  let hand : InHand := { h with access := a, address := s.exbase + wordOfNat a.offset, rest := rest }
  { s with xi.inHand := some hand, xi.timer := runTimer s }

/-- A transaction taken in hand with its first accesses; one without accesses ends at once. -/
def takeInHand (s : State) (t : Transaction) (loseAfterGap : Bool) : List Access → State
  | [] => s
  | a :: rest =>
    beginAccess s
      { transaction := t, access := a, address := 0#32, rest := [], got := [], stage := .stateWord, discarded := false,
        loseAfterGap := loseAfterGap } a rest

/-- The service of a report posting, by the room that the ring has (R163, R164). -/
def serveReport (s : State) (p : Posting) : State :=
  let used := ringUsed s.xi
  let w := s.xi.written
  if Config.ringSlots ≤ used then loseReport s
  else if s.xi.lost = 0 then takeInHand s (.report p) false (recordAccesses p w .recordDone)
  else if used + 2 ≤ Config.ringSlots then
    takeInHand s (.report p) false
      (recordAccesses (gapPosting s) w .gapDone ++ recordAccesses p (w + 1#16) .recordDone)
  else takeInHand s (.report p) true (recordAccesses (gapPosting s) w .gapDone)

/-- A transaction begun (R160). -/
def serve (s : State) (t : Transaction) : State :=
  match t with
  | .profileRead => takeInHand s t false ((List.range 1024).map fun i => readAt (4 * i))
  | .slotRead slot => takeInHand s t false [readAt (slotOffset slot)]
  | .confirmRead slot => takeInHand s t false [readAt (slotOffset slot), readAt (slotOffset slot + 0x08)]
  | .takeWrite slot => takeInHand s t false [writeAt (slotOffset slot) takenCode]
  | .closeWrite slot words _ => takeInHand s t false (resultAccesses slot words)
  | .abandonWrite slot words => takeInHand s t false (resultAccesses slot words)
  | .mapWrite serial words => takeInHand s t false (mapAccesses serial words)
  | .report p => serveReport s p

/-- TRANSACTION_START: the oldest transaction of the queue taken, with none in hand and no suspension (R160, R162). -/
def startTransaction (s : State) : State :=
  if s.xi.inHand.isSome || s.xi.suspended then s
  else
    match s.xi.queue with
    | [] => s
    | t :: rest => endUnload (serve { s with xi.queue := rest } t)

/-! ### Ends of transactions -/

/-- No transaction in hand, and the timer stopped. -/
def freePort (s : State) : State := { s with xi.inHand := none, xi.timer := .stopped }

/-- The word first read at an offset of a slot. -/
def slotWord (h : InHand) (slot : Slot) (k : Nat) : Word := wordAt h.got.reverse (slotOffset slot + k)

/-- The word last read at an offset of a slot. -/
def slotWordAgain (h : InHand) (slot : Slot) (k : Nat) : Word := wordAt h.got (slotOffset slot + k)

/-- The validation of the body read: the order, or the reason of its refusal (R27, R29). -/
def validated (s : State) (h : InHand) (slot : Slot) : Order ⊕ OrderRefusal :=
  match orderOf (slotWord h slot) with
  | none => .inr .kindUnknown
  | some o =>
    match refusalOf s o with
    | some reason => .inr reason
    | none => .inl o

/-- A refusal's writes begun; the read is over, so the status is EMPTY (R28; log entry 9). -/
def beginRefusal (s : State) (h : InHand) (slot : Slot) (reason : OrderRefusal) : State :=
  let code := wordOfNat reason.code
  beginAccess (readEmpty s) { h with stage := .refusing, got := (slotOffset slot + 0xBC, code) :: h.got }
    (writeAt (slotOffset slot + 0xBC) code) [writeAt (slotOffset slot) refusedCode]

/-- ORDER_REFUSED, the REFUSED write done (R28). -/
def reportRefusal (s : State) (h : InHand) (slot : Slot) : State :=
  post s
    { kind := .orderRefused, tag := some (slotWord h slot 0x08), first := some (wordOfNat slot.val),
      second := some (slotWordAgain h slot 0xBC) }

/-- The accesses of one stage of a slot read are done: the next stage, or the read's end (R24, R28, R29, R30). -/
def slotReadNext (s : State) (h : InHand) (slot : Slot) : State :=
  match h.stage with
  | .stateWord =>
    if slotWord h slot 0x00 ≠ armedCode ∨ s.os.table.any (fun r => r.slot == slot) then readEmpty (freePort s)
    else beginAccess s { h with stage := .kindWord } (readAt (slotOffset slot + 0x04)) []
  | .kindWord =>
    match (bodyOffsets (slotWord h slot 0x04)).map (fun k => readAt (slotOffset slot + k)) with
    | a :: rest => beginAccess s { h with stage := .body } a rest
    | [] => readEmpty (freePort s)
  | .body =>
    beginAccess s { h with stage := .recheck } (readAt (slotOffset slot)) [readAt (slotOffset slot + 0x08)]
  | .recheck =>
    if slotWordAgain h slot 0x00 ≠ armedCode ∨ slotWordAgain h slot 0x08 ≠ slotWord h slot 0x08 then
      readEmpty (freePort s)
    else
      match validated s h slot with
      | .inl o => readValid (freePort s) o
      | .inr reason => beginRefusal s h slot reason
  | .refusing => reportRefusal (freePort s) h slot

/-- A confirm read's end (R31). -/
def endConfirmRead (s : State) (h : InHand) (slot : Slot) : State :=
  match s.os.copy with
  | some o =>
    if slotWord h slot 0x00 = armedCode ∧ slotWord h slot 0x08 = o.tag then confirmUnchanged s else confirmChanged s
  | none => confirmChanged s

/-- The accesses known for a transaction are done: what its requester then does (R160). A profile read belongs to a load, so
outside LOADING, where no run has one in hand, its end has no effect. -/
def accessesDone (s : State) (h : InHand) : State :=
  match h.transaction with
  | .profileRead => if s.lc.line == .loading then endProfileRead (freePort s) h.got else freePort s
  | .slotRead slot => slotReadNext s h slot
  | .confirmRead slot => endConfirmRead (freePort s) h slot
  | .takeWrite _ => freePort s
  | .closeWrite slot _ report => endClose (freePort s) slot report
  | .abandonWrite _ _ => freePort s
  | .mapWrite serial _ => finishExit (freePort s) serial
  | .report _ => if h.loseAfterGap then loseReport (freePort s) else freePort s

/-! ### Completions (R159) -/

/-- W rises by one and REPORT is set (R163). -/
def countRecord (s : State) : State := { s with xi.written := s.xi.written + 1#16, events.report := true }

/-- What a completed write means to the report ring (R163, R164). -/
def markWrite (s : State) (m : AccessMark) : State :=
  match m with
  | .plain => s
  | .recordDone => countRecord s
  | .gapDone => countRecord { s with xi.lost := 0 }

/-- Board memory after the access in hand: a write has reached it; a word that the host put there shows at the read (log
entry 2). -/
def accessMemory (m : Memory) (h : InHand) (host : Option Word) : Memory :=
  match h.access.write, host with
  | some w, _ => writeWord m h.address.toNat w
  | none, some w => writeWord m h.address.toNat w
  | none, none => m

/-- The transaction in hand with the word that its access yielded (R159). -/
def gather (m : Memory) (h : InHand) : InHand :=
  match h.access.write with
  | some _ => h
  | none => { h with got := (h.access.offset, readWord m h.address.toNat) :: h.got }

/-- The next access of a transaction, or its end; a discarded read makes no further access (R29, R159). -/
def nextAccess (s : State) (h : InHand) : State :=
  if h.discarded then freePort s
  else
    match h.rest with
    | a :: rest => beginAccess s h a rest
    | [] => accessesDone s h

/-- MEMORY_ACCESS_DONE: the completion of the access in hand; with none in hand it is ignored (R159). -/
def completeAccess (s : State) (host : Option Word) : State :=
  match s.xi.inHand with
  | none => s
  | some h =>
    let m := accessMemory s.mem h host
    let s1 := markWrite { s with mem := m, xi.timer := .stopped } h.access.mark
    endUnload (nextAccess s1 (gather m h))

/-! ### Timeouts (R136, R161, R162) -/

/-- The prefetch copy dropped and the next-order status EMPTY; a status of BARRED stays BARRED (R34). -/
def dropCopy (s : State) : State :=
  { s with os.copy := none, os.status := if s.os.status = .barred then .barred else .empty }

/-- What the requester of a transaction does when a bus fault has ended it (R161). -/
def endedByFault (s : State) (t : Transaction) : State :=
  match t with
  | .profileRead | .takeWrite _ | .abandonWrite _ _ => s
  | .slotRead _ | .confirmRead _ => dropCopy s
  | .closeWrite slot _ _ => changeOrder s slot fun r => { r with closing := false }
  | .mapWrite serial _ => finishExit s serial
  | .report _ => loseReport s

/-- The same for the transaction in hand: a discarded read has no effect left, and refusal writes have ended theirs (R28,
R29). DEDUCED: ORDER_REFUSED, which follows the REFUSED write, is then neither posted nor counted as lost (log entry 9). -/
def handEndedByFault (s : State) (h : InHand) : State :=
  if h.discarded || h.stage == .refusing then s else endedByFault s h.transaction

/-- Whether the access in hand writes a word that a fault leaves unwritten: the sequence word of a report record, which keeps
its old value (R158, R174, R175), or the closing serial word of a quality map entry, which stays 0 (R136, R158). -/
def markerWrite (h : InHand) : Bool :=
  match h.transaction with
  | .report _ => h.access.mark != .plain
  | .mapWrite _ _ => h.rest.isEmpty
  | .profileRead | .slotRead _ | .confirmRead _ | .takeWrite _ | .closeWrite _ _ _ | .abandonWrite _ _ => false

/-- The memory after a timeout: a write may or may not have reached it, but for the marker of a report record or of a quality
map entry, which has not (R136, R158, R161; log entry 5). -/
def lostAccess (s : State) (h : InHand) : State :=
  match h.access.write with
  | some w =>
    { s with
      mem := if !markerWrite h && Config.lostWriteLands s.draws then writeWord s.mem h.address.toNat w else s.mem
      draws := s.draws + 1 }
  | none => s

/-- A bus fault in READY or PRINTING: suspension, held fault, every transaction ended, BUS_FAULT raised (R161). A copy
that is HELD or SETTLED is dropped too, so that a boundary under suspension finds no settled order (R34; log entry 11). -/
def busFault (s : State) (h : InHand) : State :=
  let waiting := s.xi.queue
  let fault : HeldFault := { offset := h.access.offset, write := h.access.write.isSome, clock := s.clock }
  let s1 := dropCopy { s with xi.suspended := true, xi.held := some fault, xi.queue := [] }
  raiseFault (waiting.foldl endedByFault (handEndedByFault s1 h)) .busFault

/-- The loss of the access of `h`, by the line state (R161, R162, R172). -/
def loseAccess (s : State) (h : InHand) : State :=
  let s1 := freePort (lostAccess s h)
  match s.lc.line with
  | .ready | .printing => busFault s1 h
  | .loading => rejectLoad s1 loadBusFault h.access.offset
  | .unloaded => endUnload (handEndedByFault s1 h)

/-- MEMORY_ACCESS_TIMEOUT: the expiry of the memory access timer (R159, R161); with no access in hand, or within its first
ms, there is none. -/
def timeOutAccess (s : State) : State :=
  match s.xi.inHand with
  | none => s
  | some h => if timerDue s.xi.timer Config.accessTime s.clock then loseAccess s h else s

/-! ### The end of a suspension (R48, R154, R162) -/

/-- BUS_FAULT from the held fault, with the line clock of the fault (R162). -/
def reportBusFault (s : State) (f : HeldFault) : State :=
  postAt s
    { kind := .busFault, tag := some (entryTag s), station := some 0#32, serial := some (wordOfNat s.wt.nextSerial),
      first := some (wordOfNat f.offset), second := some (wordOfNat (bitOf f.write 0)) } f.clock

/-- The suspension ended by CLEAR_FAULT, with the close that it held back (R48, R162). DESIGN CHOICE: BUS_FAULT joins the queue
before that close (log entry 8). -/
def endSuspension (s : State) : State :=
  if s.xi.suspended then
    let s1 := { s with xi.suspended := false, xi.held := none }
    match s.xi.held with
    | some f => testClose (reportBusFault s1 f)
    | none => testClose s1
  else s

end Sys2Proof.Machine
end

