-- ==== Sys2Proof/WellFormed.lean ====
section
/-! DEFINITION. Which terms of Instr are commands that the outside can send. Every operand type but one carries only
values that its port or register can carry; the code of COMMAND_CODE_UNDEFINED must name no command. -/

namespace Sys2Proof

/-- Whether a COMMAND code names a command: 1..10 (R184). -/
def codeNamesCommand (code : BitVec 8) : Bool := 1 ≤ code.toNat && code.toNat ≤ 10

/-- The check on a command's operands. -/
def WellFormed (c : Instr) : Bool :=
  match c with
  | .commandCodeUndefined code => !codeNamesCommand code
  | .printForwardCount | .ovenForwardCount | .reverseCount _ | .seamLevelChange _
  | .stationSensorChange _ _ _ | .markEdge | .zoneFrame _ _ | .reset _ | .resetRelease
  | .actuationTimerExpiry _ | .evaluationTimerExpiry | .doseIntervalExpiry | .setbackTimerExpiry
  | .standstillTimerExpiry | .staleTimerExpiry _ | .memoryAccessTimeout | .memoryAccessDone _
  | .transactionStart | .closeOut | .loadProfile | .unload | .signal | .hold | .resume
  | .abortOrder | .clearFault | .liftSet _ | .liftClear _ | .trim _ _ | .exbaseWrite _
  | .retireWrite _ | .eventsRead | .registerWriteIgnored _ _ => true

end Sys2Proof
end

