-- ==== Sys2Proof/Machine/Commands.lean ====
section
/-! DEFINITION. The meanings of the commands written to COMMAND (section 11.2), with their acceptance. -/

namespace Sys2Proof.Machine

/-! ### Acceptance (R171) -/

/-- A refused command: CMD_REFUSED and no other effect (R171). -/
def refuseCommand (s : State) : State := { s with events.cmdRefused := true }

/-- A command with its effect at once: CMD_DONE is set at acceptance (R171). -/
def doneCommand (s : State) : State := { s with events.cmdDone := true }

/-- A command judged: with no effect under the RESET pin (R170), refused while busy or where `allowed` is false, its effect
otherwise (R171). -/
def judgeCommand (s : State) (allowed : Bool) (effect : State → State) : State :=
  if s.pins.resetAsserted then s
  else if s.busy || !allowed then refuseCommand s
  else effect s

/-! ### LOAD_PROFILE and UNLOAD -/

/-- LOAD_PROFILE, accepted in UNLOADED (R171, R172). -/
def execLoadProfile (s : State) : Host.Outcome State Fault Refusal :=
  .next (judgeCommand s (s.lc.line == .unloaded) beginLoad)

/-- UNLOAD, accepted in READY (R171, R176). -/
def execUnload (s : State) : Host.Outcome State Fault Refusal :=
  .next (judgeCommand s (s.lc.line == .ready) unloadLine)

/-! ### Orders -/

/-- SIGNAL at the Order Sequencer: a full read with the status EMPTY, nothing otherwise (R32). -/
def lookAtSlot (s : State) : State := if s.os.status = .empty then startSlotRead s else s

/-- SIGNAL (R32). -/
def execSignal (s : State) : Host.Outcome State Fault Refusal :=
  .next (judgeCommand s (lineOpen s) fun t => doneCommand (lookAtSlot t))

/-- ABORT_ORDER, accepted in PRINTING (R43). -/
def execAbortOrder (s : State) : Host.Outcome State Fault Refusal :=
  .next (judgeCommand s (s.lc.line == .printing) fun t => doneCommand (abortEntry t))

/-! ### Holds -/

/-- HOLD (R153). -/
def execHold (s : State) : Host.Outcome State Fault Refusal :=
  .next (judgeCommand s (lineOpen s) fun t => doneCommand (raiseCause t .host none))

/-- The causes that RESUME clears (R153). -/
def resumeCauses : HoldSet := { host := true, order := true, standstill := true }

/-- RESUME (R153). -/
def execResume (s : State) : Host.Outcome State Fault Refusal :=
  .next (judgeCommand s (lineOpen s) fun t => doneCommand (clearCauses t resumeCauses))

/-! ### CLEAR_FAULT (R81, R154, R162) -/

/-- Step 1: the FAULT cause and the first fault reason cleared. -/
def dropFault (s : State) : State := { s with lc.holds.fault := false, lc.firstFault := none }

/-- Step 3: STATION_LIFT raised again if a channel is left FAULTED with LIFT_TIMEOUT, with no hold entry. -/
def raiseStuck (s : State) : State :=
  if stuckDown s then noteFault { s with lc.holds.fault := true } .stationLift else s

/-- Step 5: the set judged against the one at the command. -/
def judgeSet (before : Bool) (s : State) : State :=
  if before then (if s.lc.holds.any then s else holdExit s { fault := true })
  else if s.lc.holds.any then holdEntry s (some .stationLift)
  else s

/-- CLEAR_FAULT's five steps (R154). -/
def clearFault (s : State) : State :=
  judgeSet s.lc.holds.any (endSuspension (raiseStuck (clearChannels (dropFault s))))

/-- CLEAR_FAULT (R154). -/
def execClearFault (s : State) : Host.Outcome State Fault Refusal :=
  .next (judgeCommand s (lineOpen s) fun t => doneCommand (clearFault t))

/-! ### Manual lift and trim -/

/-- LIFT_SET (R80). -/
def execLiftSet (set : StationSet) (s : State) : Host.Outcome State Fault Refusal :=
  .next (judgeCommand s (lineOpen s) fun t => doneCommand (setManual t set true))

/-- LIFT_CLEAR (R80). -/
def execLiftClear (set : StationSet) (s : State) : Host.Outcome State Fault Refusal :=
  .next (judgeCommand s (lineOpen s) fun t => doneCommand (setManual t set false))

/-- The station that a station number field names: 1..16 (R171, R184). -/
def trimStation (st : BitVec 5) : Option Station := stationList.find? fun i => stationNo i == st.toNat

/-- The station that a TRIM may act on: named, and in service in the loaded profile (R171). -/
def trimTarget (s : State) (st : BitVec 5) : Option Station :=
  (trimStation st).filter fun i => (s.stationCfg i).inService

/-- TRIM at the Phase Unit (R89, R90). -/
def trimBy (s : State) (target : Option Station) (delta : Int) : State :=
  match target with
  | some i => storeTrim s i (clampTo Config.trimLimit ((s.phase i).trim + delta))
  | none => s

/-- TRIM (R90, R171). -/
def execTrim (st : BitVec 5) (delta : BitVec 16) (s : State) : Host.Outcome State Fault Refusal :=
  .next (judgeCommand s (lineOpen s && (trimTarget s st).isSome)
    fun t => doneCommand (trimBy t (trimTarget s st) delta.toInt))

/-- COMMAND_CODE_UNDEFINED: a code that names no command is refused (R171, R184). A term whose code names a command is no
write of this row; it is refused by the model, not by the part. -/
def execCommandCodeUndefined (code : BitVec 8) (s : State) : Host.Outcome State Fault Refusal :=
  if codeNamesCommand code then .refused .illFormed
  else .next (judgeCommand s false fun t => t)

end Sys2Proof.Machine
end

