-- ==== Sys2Proof/Machine/Advance.lean ====
section
/-! DEFINITION. Counts of the two encoders (sections 1.2 and 1.3): debts, position limit, the print advance met position by
position, the oven advance with its re-anchoring, and reverse counts. -/

namespace Sys2Proof.Machine

/-! ### Print advance (R1, R5, R6, R150) -/

/-- The blocks that meet thresholds on a print advance. -/
inductive Actor where
  | detector
  | cut
  | stations
  | switches
  | settles
  | closing
  | openings
  | builds
  | confirm
  | printed
  deriving DecidableEq, Repr

/-- Every actor, in a fixed order. -/
def actorList : List Actor :=
  [.detector, .cut, .stations, .switches, .settles, .closing, .openings, .builds, .confirm, .printed]

/-- An actor's place in the fixed order: its field of the tie key. -/
def Actor.code (a : Actor) : Nat :=
  match a with
  | .detector => 0
  | .cut => 1
  | .stations => 2
  | .switches => 3
  | .settles => 4
  | .closing => 5
  | .openings => 6
  | .builds => 7
  | .confirm => 8
  | .printed => 9

/-- Whether an actor has a threshold at this print position. -/
def actorDue (s : State) (a : Actor) : Bool :=
  match a with
  | .detector => detectorDue s
  | .cut => cutDue s
  | .stations => stationList.any (stationDue s)
  | .switches => stationList.any fun i => (s.stationCfg i).inService && (switchHere s i).isSome
  | .settles => stationList.any (settlesNow s)
  | .closing => closingNow s
  | .openings => !(openingsHere s).isEmpty
  | .builds => s.mr.cursors.any (buildNow s)
  | .confirm => confirmHere s
  | .printed => s.os.table.any (printedNow s)

/-- An actor meets its thresholds at this print position. -/
def act (s : State) (a : Actor) : State :=
  match a with
  | .detector => meetDetector s
  | .cut => meetCut s
  | .stations => meetStations s
  | .switches => meetSwitches s
  | .settles => meetSettles s
  | .closing => meetClosing s
  | .openings => meetOpenings s
  | .builds => meetBuilds s
  | .confirm => meetConfirm s
  | .printed => meetPrinted s

/-- An actor put into a list by its tie key, after those that share it. -/
def insertActor (key : Actor → Nat) (a : Actor) : List Actor → List Actor
  | [] => [a]
  | b :: rest => if key b ≤ key a then b :: insertActor key a rest else a :: b :: rest

/-- The order in which the actors due at one position act: free where there are two or more (log entry 6). -/
def orderOfActors (draw : Nat) (due : List Actor) : List Actor :=
  due.foldl (fun acc a => insertActor (fun x => Config.tieKey draw x.code) a acc) []

/-- The thresholds due at one print position, each met once, in a free order (R1; log entry 6). -/
def meetThresholds (s : State) : State :=
  match actorList.filter (actorDue s) with
  | [] => s
  | [a] => act s a
  | due => (orderOfActors s.draws due).foldl act { s with draws := s.draws + 1 }

/-- P raised by one µm, with every threshold met at its exact position (R1). -/
def advanceOne (s : State) : State :=
  meetThresholds { s with wt.p := s.wt.p + 1, cp := detectorTravel s.cp }

/-- P raised by `d` µm, one position after another (R1). -/
def advanceBy : Nat → State → State
  | 0, s => s
  | d + 1, s => advanceBy d (advanceOne s)

/-- The end of an open underrun episode, with its report (R6). -/
def endUnderrun (s : State) : State :=
  match s.wt.underrun with
  | some total =>
    post { s with wt.underrun := none }
      { kind := .underrun, station := some 0#32, serial := some 0#32, first := some (wordOfNat total),
        second := some (mmWord s.wt.k) }
  | none => s

/-- A running standstill timer restarted by a print advance (R150). -/
def restartStandstill (s : State) : State :=
  if timerRuns s.lc.standstill then { s with lc.standstill := runTimer s } else s

/-- A print advance of `d` µm (R1, R5, R6, R86, R150; log entry 8 on the order). -/
def printAdvance (s : State) (d : Nat) : State :=
  deliverFestoon (driveTargets (advanceBy d (restartStandstill (endUnderrun s))))

/-! ### Position limit (R3) -/

/-- A count that would carry a position past its limit: TRACKING_LOST once since the load (R3; log entry 4 on the report's
other fields). -/
def reachLimit (s : State) : State :=
  if s.wt.limitPosted then s
  else
    post (raiseFault { s with wt.limitPosted := true } .trackingLost)
      { kind := .trackingLost, first := some 2#32 }

/-! ### Forward counts (R1, R2, R3) -/

/-- What a forward count of resolution `r` leaves of a debt, and its travel beyond the debt. -/
def payDebt (r debt : Nat) : Nat × Nat := (debt - r, r - debt)

/-- The travel that the position limit leaves of `d` (R3). -/
def travelLeft (position d : Nat) : Nat := min d (Config.positionLimit - position)

/-- A forward count of the print encoder (R1, R3). DESIGN CHOICE: the limit's TRACKING_LOST comes after the thresholds and the
delivery of Fp of the count's last partial advance (log entry 8). -/
def printForward (s : State) : State :=
  let paid := payDebt s.prof.printResolution s.wt.printDebt
  let s1 := { s with wt.printDebt := paid.1, wt.printReverse := .none }
  let d := travelLeft s.wt.p paid.2
  let s2 := if d = 0 then s1 else printAdvance s1 d
  if d < paid.2 then reachLimit s2 else s2

/-! ### Oven advance (R5, R6, R17, R18, R126) -/

/-- The deficit of the festoon: what Fp lacks to 0 (R6). -/
def deficit (s : State) : Nat := (-(festoon s)).toNat

/-- Re-anchoring: K raised by the deficit, which the episode total takes (R6). -/
def reanchor (s : State) : State :=
  if deficit s = 0 then s
  else
    { s with
      wt.k := s.wt.k + deficit s
      wt.underrun := some (min (s.wt.underrun.getD 0 + deficit s) Config.wordLimit) }

/-- The exit horizon given if no exited segment awaits close-out and none is in close-out (R18). -/
def horizonIfClear (s : State) : State :=
  if exitWaits s || s.co.waiting.isSome then s else giveHorizon s

/-- An oven advance of `d` µm (R1, R5, R6, R18, R126; log entry 8 on the order). -/
def ovenAdvance (s : State) (d : Nat) : State :=
  horizonIfClear (setbackAdvance (deliverFestoon (reanchor { s with wt.q := s.wt.q + d })))

/-- A forward count of the oven encoder (R1, R3); the limit's TRACKING_LOST comes last here too (log entry 8). -/
def ovenForward (s : State) : State :=
  let paid := payDebt s.prof.ovenResolution s.wt.ovenDebt
  let s1 := { s with wt.ovenDebt := paid.1, wt.ovenReverse := .none }
  let d := travelLeft s.wt.q paid.2
  let s2 := if d = 0 then s1 else ovenAdvance s1 d
  if d < paid.2 then reachLimit s2 else s2

/-! ### Reverse counts (R2) -/

/-- A stretch of reverse motion after one more count, discarding or not (R2). -/
def stretchAfter (x : ReverseStretch) (discards : Bool) : ReverseStretch :=
  if discards then .limited
  else
    match x with
    | .none => .open
    | .open => .open
    | .limited => .limited

/-- REVERSE_LIMIT, at the first discarding count of a stretch (R2; log entry 4 on the tag). -/
def reportReverse (s : State) (x : ReverseStretch) (code excess : Nat) : State :=
  if 0 < excess ∧ x ≠ .limited then
    post s
      { kind := .reverseLimit, station := some 0#32, serial := some 0#32, first := some (wordOfNat code),
        second := some (wordOfNat excess) }
  else s

/-- A reverse count of the print encoder (R2). -/
def printReverseCount (s : State) : State :=
  let debt := s.wt.printDebt + s.prof.printResolution
  let excess := debt - Config.debtLimit
  reportReverse
    { s with
      wt.printDebt := min debt Config.debtLimit
      wt.printReverse := stretchAfter s.wt.printReverse (decide (0 < excess)) }
    s.wt.printReverse 0 excess

/-- A reverse count of the oven encoder (R2). -/
def ovenReverseCount (s : State) : State :=
  let debt := s.wt.ovenDebt + s.prof.ovenResolution
  let excess := debt - Config.debtLimit
  reportReverse
    { s with
      wt.ovenDebt := min debt Config.debtLimit
      wt.ovenReverse := stretchAfter s.wt.ovenReverse (decide (0 < excess)) }
    s.wt.ovenReverse 1 excess

end Sys2Proof.Machine
end

