-- ==== Sys2Proof/Machine/Encoders.lean ====
section
/-! DEFINITION. The meanings of the encoder counts: PRINT_FORWARD_COUNT, OVEN_FORWARD_COUNT and REVERSE_COUNT. -/

namespace Sys2Proof.Machine

/-- PRINT_FORWARD_COUNT (R1, R3, R4). -/
def execPrintForwardCount (s : State) : Host.Outcome State Fault Refusal :=
  .next (if takesEvents s then printForward s else s)

/-- OVEN_FORWARD_COUNT (R1, R3, R4). -/
def execOvenForwardCount (s : State) : Host.Outcome State Fault Refusal :=
  .next (if takesEvents s then ovenForward s else s)

/-- REVERSE_COUNT from either encoder (R2, R4). -/
def execReverseCount (enc : Encoder) (s : State) : Host.Outcome State Fault Refusal :=
  .next
    (if takesEvents s then
      match enc with
      | .print => printReverseCount s
      | .oven => ovenReverseCount s
    else s)

end Sys2Proof.Machine
end

