-- ==== Sys2Proof/Machine/Inputs.lean ====
section
/-! DEFINITION. The meanings of the machine-side inputs: SEAM_LEVEL_CHANGE, STATION_SENSOR_CHANGE, MARK_EDGE and
ZONE_FRAME. -/

namespace Sys2Proof.Machine

/-- The seam detector pin at a new level. -/
def setSeamPin (s : State) (level : Bool) : State := { s with pins.seamLevel := level }

/-- A change of the seam detector level: judged in READY and PRINTING, only seen at the pin otherwise (R56, R144, R177). -/
def seamChange (s : State) (level : Bool) : State :=
  if s.pins.seamLevel = level then s
  else if takesEvents s then judgeSeamLevel (setSeamPin s level) level
  else setSeamPin s level

/-- SEAM_LEVEL_CHANGE (R56). -/
def execSeamLevelChange (level : Bool) (s : State) : Host.Outcome State Fault Refusal := .next (seamChange s level)

/-- STATION_SENSOR_CHANGE (R74); under the RESET pin it shows at the pin only (R177). -/
def execStationSensorChange (st : Station) (sensor : Sensor) (level : Bool) (s : State) :
    Host.Outcome State Fault Refusal :=
  .next (if s.pins.resetAsserted then setSensor s st sensor level else sensorChange s st sensor level)

/-- MARK_EDGE (R106); under the RESET pin no head edge is taken (R177). -/
def execMarkEdge (s : State) : Host.Outcome State Fault Refusal :=
  .next (if s.pins.resetAsserted then s else readEdge s)

/-- What a frame does: a corrupt one and one of a zone not in the table are discarded (R115, R116). -/
def takeFrame (s : State) (zone : BitVec 8) (load : FrameLoad) : State :=
  match frameZone s zone.toNat, load with
  | some z, .sample t => validFrame s z t.toNat
  | some z, .sensorFault => faultFrame s z
  | _, _ => s

/-- ZONE_FRAME (R115). -/
def execZoneFrame (zone : BitVec 8) (load : FrameLoad) (s : State) : Host.Outcome State Fault Refusal :=
  .next (if takesEvents s then takeFrame s zone load else s)

end Sys2Proof.Machine
end

