-- ==== Sys2Proof/Machine/Port.lean ====
section
/-! DEFINITION. The meanings of the memory port's events and of CLOSE_OUT. -/

namespace Sys2Proof.Machine

/-- MEMORY_ACCESS_TIMEOUT (R161, R162, R172). -/
def execMemoryAccessTimeout (s : State) : Host.Outcome State Fault Refusal := .next (timeOutAccess s)

/-- MEMORY_ACCESS_DONE (R159). -/
def execMemoryAccessDone (host : Option Word) (s : State) : Host.Outcome State Fault Refusal :=
  .next (completeAccess s host)

/-- TRANSACTION_START (R160). -/
def execTransactionStart (s : State) : Host.Outcome State Fault Refusal := .next (startTransaction s)

/-- CLOSE_OUT (R17). -/
def execCloseOut (s : State) : Host.Outcome State Fault Refusal := .next (startExit s)

end Sys2Proof.Machine
end

