-- ==== Sys2Proof/Machine/Power.lean ====
section
/-! DEFINITION. The meanings of RESET and RESET_RELEASE (R177). -/

namespace Sys2Proof.Machine

/-- The RESET pin after the event: asserted by an assertion, left as it is by power-on. -/
def resetPin (s : State) (cause : ResetCause) : Bool :=
  match cause with
  | .pin => true
  | .powerOn => s.pins.resetAsserted

/-- Every block, register and output at its reset values at once; board memory and the levels at the input pins are not the
part's and stay (R177). -/
def resetPart (s : State) (cause : ResetCause) : State :=
  { State.reset with
    mem := s.mem
    pins := { s.pins with resetAsserted := resetPin s cause }
    draws := s.draws
    pending := s.pending }

/-- RESET (R177). -/
def execReset (cause : ResetCause) (s : State) : Host.Outcome State Fault Refusal := .next (resetPart s cause)

/-- RESET_RELEASE: the line clock starts from 0 (R177). -/
def execResetRelease (s : State) : Host.Outcome State Fault Refusal :=
  .next (if s.pins.resetAsserted then { s with pins.resetAsserted := false, clock := 0#32 } else s)

end Sys2Proof.Machine
end

