-- ==== Sys2Proof/Machine/Registers.lean ====
section
/-! DEFINITION. The register window (sections 11.1 and 12.6): the meanings of EXBASE_WRITE, RETIRE_WRITE, EVENTS_READ and
REGISTER_WRITE_IGNORED, and the words that the registers and pins show. -/

namespace Sys2Proof.Machine

/-! ### What the registers and pins show -/

/-- Line and slot code (R185). DESIGN CHOICE: PRINTING without an entry order, which no run reaches, shows READY's code
(log entry 12). -/
def lineCode (s : State) : Nat :=
  match s.lc.line with
  | .unloaded => if s.busy then 65 else 64
  | .loading => 66
  | .ready => 67
  | .printing =>
    match s.os.entry with
    | some i => i.val
    | none => 67

/-- Festoon content as STATUS shows it (R5). -/
def festoonUnits (s : State) : Nat := if lineOpen s then min (festoon s / 10000).toNat Config.festoonShown else 0

/-- STATUS (R168, R184, R185). -/
def statusWord (s : State) : Word :=
  wordOfNat (lineCode s + bitOf s.lc.holds.host 7 + bitOf s.lc.holds.order 8 + bitOf s.lc.holds.festoon 9 +
    bitOf s.lc.holds.standstill 10 + faultCode s.lc.firstFault * 2 ^ 11 + bitOf s.ci.setback 14 +
    bitOf (decide (0 < s.xi.lost)) 15 + festoonUnits s * 2 ^ 16)

/-- EXBASE as read (R167). -/
def exbaseWord (s : State) : Word := s.exbase

/-- RETIRE as read (R170). -/
def retireWord (s : State) : Word := s.xi.retired.setWidth 32

/-- COMMAND as read (R170). -/
def commandWord (_s : State) : Word := 0#32

/-- The interrupt output (R169). -/
def interrupt (s : State) : Bool := s.events.any

/-! ### Writes -/

/-- A register write ignored with its cause (R169, R170). -/
def ignoreWrite (s : State) : State := { s with events.writeIgnored := true }

/-- A value that EXBASE may take: a multiple of 4096 that leaves the whole area below 2^32 (R167). -/
def exbaseValid (v : Word) : Bool := v.toNat % 4096 == 0 && decide (v.toNat ≤ Config.exbaseLimit)

/-- EXBASE_WRITE (R167). -/
def execExbaseWrite (value : Word) (s : State) : Host.Outcome State Fault Refusal :=
  .next
    (if s.pins.resetAsserted then s
    else if s.lc.line == .unloaded && !s.busy && exbaseValid value then { s with exbase := value }
    else ignoreWrite s)

/-- Whether a new retire count is accepted (R165). -/
def retireAccepted (s : State) (h : BitVec 16) : Bool :=
  lineOpen s && decide ((h - s.xi.retired).toNat ≤ (s.xi.written - s.xi.retired).toNat)

/-- RETIRE_WRITE: bits 16..31 are ignored (R165, R184). -/
def execRetireWrite (value : Word) (s : State) : Host.Outcome State Fault Refusal :=
  let h := value.extractLsb' 0 16
  .next
    (if s.pins.resetAsserted then s
    else if retireAccepted s h then { s with xi.retired := h }
    else ignoreWrite s)

/-- EVENTS_READ: the word is returned on the bus and every cause it showed is cleared (R169; log entry 10). -/
def execEventsRead (s : State) : Host.Outcome State Fault Refusal :=
  .next { s with busRead := s.events.word, events := {} }

/-- REGISTER_WRITE_IGNORED: a write to STATUS or EVENTS (R170). -/
def execRegisterWriteIgnored (_reg : ReadOnlyReg) (_value : Word) (s : State) : Host.Outcome State Fault Refusal :=
  .next (if s.pins.resetAsserted then s else ignoreWrite s)

end Sys2Proof.Machine
end

