-- ==== Sys2Proof/Machine/Timers.lean ====
section
/-! DEFINITION. The meanings of the timer expiries. A stopped timer does not expire, and a running one not before its interval
has run out on the line clock (log entry 3). -/

namespace Sys2Proof.Machine

/-- ACTUATION_TIMER_EXPIRY (R72, R73). -/
def execActuationTimerExpiry (st : Station) (s : State) : Host.Outcome State Fault Refusal :=
  .next (actuationExpiry s st)

/-- EVALUATION_TIMER_EXPIRY (R107). -/
def execEvaluationTimerExpiry (s : State) : Host.Outcome State Fault Refusal := .next (evaluationExpiry s)

/-- DOSE_INTERVAL_EXPIRY (R120, R121). -/
def execDoseIntervalExpiry (s : State) : Host.Outcome State Fault Refusal :=
  .next (doseExpiry s)

/-- SETBACK_TIMER_EXPIRY (R126, R127). -/
def execSetbackTimerExpiry (s : State) : Host.Outcome State Fault Refusal := .next (setbackExpiry s)

/-- The standstill timer's expiry: it stops, and STANDSTILL is raised (R150). -/
def standstillExpiry (s : State) : State :=
  if timerDue s.lc.standstill s.prof.standstillTime s.clock then
    raiseCause { s with lc.standstill := .stopped } .standstill none
  else s

/-- STANDSTILL_TIMER_EXPIRY (R150). -/
def execStandstillTimerExpiry (s : State) : Host.Outcome State Fault Refusal := .next (standstillExpiry s)

/-- STALE_TIMER_EXPIRY (R116). -/
def execStaleTimerExpiry (z : Zone) (s : State) : Host.Outcome State Fault Refusal := .next (staleExpiry s z)

end Sys2Proof.Machine
end

