-- ==== Sys2Proof/Machine/Dispatch.lean ====
section
/-! DEFINITION. The dispatch of a command to its meaning: one arm per row of spec/opcode_table.json. -/

namespace Sys2Proof.Machine

def exec (i : Instr) (s : State) : Host.Outcome State Fault Refusal :=
  match i with
  | .printForwardCount => Sys2Proof.Machine.execPrintForwardCount s
  | .ovenForwardCount => Sys2Proof.Machine.execOvenForwardCount s
  | .reverseCount enc => Sys2Proof.Machine.execReverseCount enc s
  | .seamLevelChange level => Sys2Proof.Machine.execSeamLevelChange level s
  | .stationSensorChange st sensor level => Sys2Proof.Machine.execStationSensorChange st sensor level s
  | .markEdge => Sys2Proof.Machine.execMarkEdge s
  | .zoneFrame zone load => Sys2Proof.Machine.execZoneFrame zone load s
  | .reset cause => Sys2Proof.Machine.execReset cause s
  | .resetRelease => Sys2Proof.Machine.execResetRelease s
  | .actuationTimerExpiry st => Sys2Proof.Machine.execActuationTimerExpiry st s
  | .evaluationTimerExpiry => Sys2Proof.Machine.execEvaluationTimerExpiry s
  | .doseIntervalExpiry => Sys2Proof.Machine.execDoseIntervalExpiry s
  | .setbackTimerExpiry => Sys2Proof.Machine.execSetbackTimerExpiry s
  | .standstillTimerExpiry => Sys2Proof.Machine.execStandstillTimerExpiry s
  | .staleTimerExpiry z => Sys2Proof.Machine.execStaleTimerExpiry z s
  | .memoryAccessTimeout => Sys2Proof.Machine.execMemoryAccessTimeout s
  | .memoryAccessDone host => Sys2Proof.Machine.execMemoryAccessDone host s
  | .transactionStart => Sys2Proof.Machine.execTransactionStart s
  | .closeOut => Sys2Proof.Machine.execCloseOut s
  | .loadProfile => Sys2Proof.Machine.execLoadProfile s
  | .unload => Sys2Proof.Machine.execUnload s
  | .signal => Sys2Proof.Machine.execSignal s
  | .hold => Sys2Proof.Machine.execHold s
  | .resume => Sys2Proof.Machine.execResume s
  | .abortOrder => Sys2Proof.Machine.execAbortOrder s
  | .clearFault => Sys2Proof.Machine.execClearFault s
  | .liftSet set => Sys2Proof.Machine.execLiftSet set s
  | .liftClear set => Sys2Proof.Machine.execLiftClear set s
  | .trim st delta => Sys2Proof.Machine.execTrim st delta s
  | .exbaseWrite value => Sys2Proof.Machine.execExbaseWrite value s
  | .retireWrite value => Sys2Proof.Machine.execRetireWrite value s
  | .eventsRead => Sys2Proof.Machine.execEventsRead s
  | .registerWriteIgnored reg value => Sys2Proof.Machine.execRegisterWriteIgnored reg value s
  | .commandCodeUndefined code => Sys2Proof.Machine.execCommandCodeUndefined code s

end Sys2Proof.Machine
end

