-- ==== Sys2Proof/Machine/Step.lean ====
section
/-! DEFINITION. One step of the part: the command at the front of the queue, or one millisecond of the line clock. -/

namespace Sys2Proof.Machine

/-- An idle step, the queue being empty: the line clock counts one ms, but under the RESET pin, where it stays at 0 (R177).
DESIGN CHOICE (log entry 13). -/
def tick (s : State) : State := if s.pins.resetAsserted then s else { s with clock := s.clock + 1#32 }

/-- One step: the command at the front of the queue meets the state with the queue's rest. -/
def step (s : State) : Host.Outcome State Fault Refusal :=
  match s.pending with
  | c :: rest => exec c { s with pending := rest }
  | [] => .next (tick s)

/-- The state with the command that a word spells put at the front of its queue; unchanged where the word spells none. -/
def State.withFetchWord (s : State) (nbits w : Nat) : State :=
  match decodeTableWord nbits w with
  | some c => { s with pending := c :: s.pending }
  | none => s

end Sys2Proof.Machine
end

