-- ==== Sys2Proof/Safety.lean ====
section
/-! DEFINITION. The laws that the spec states of every state of the part, as predicates of one state. -/

namespace Sys2Proof.Machine

/-- The permit rule: PRINT PERMIT is asserted exactly in READY or PRINTING with the hold cause set empty (R148). -/
def PermitRule (s : State) : Prop := s.lc.permit = (lineOpen s && !s.lc.holds.any)

/-- The law of holds: while the hold cause set is not empty, PRINT PERMIT is off and no station is LOWERING or ENGAGED
(R77). -/
def HoldLaw (s : State) : Prop :=
  s.lc.holds.any = true →
    s.lc.permit = false ∧ ∀ i : Station, (s.chan i).state ≠ .lowering ∧ (s.chan i).state ≠ .engaged

/-- The FAULT cause stands exactly while the first fault reason is other than none (R185). -/
def FaultLaw (s : State) : Prop := s.lc.holds.fault = s.lc.firstFault.isSome

/-- The law of the festoon: the festoon content is never negative (R6). -/
def FestoonLaw (s : State) : Prop := 0 ≤ festoon s

/-- The law of the offsets and the phase: every phase target in 0..65,535, every correction within the correction range,
every trim within 50,000 µm (R89). -/
def OffsetLaw (s : State) : Prop :=
  ∀ i : Station,
    (s.phase i).target < 65536 ∧
      (-(s.prof.correctionRange : Int) ≤ (s.phase i).correction ∧ (s.phase i).correction ≤ (s.prof.correctionRange : Int)) ∧
        (-Config.trimLimit ≤ (s.phase i).trim ∧ (s.phase i).trim ≤ Config.trimLimit)

/-- How many record-ending writes a list of accesses still holds. -/
def recordEnds (as : List Access) : Nat := (as.filter fun a => a.mark != .plain).length

/-- How many records the transaction in hand will still end in the ring. -/
def endsAhead (x : ExchangeInterface) : Nat :=
  match x.inHand with
  | some h => recordEnds (h.access :: h.rest)
  | none => 0

/-- The law of the report ring: (W − H) mod 65,536 is at most 256 (R163). -/
def RingLaw (s : State) : Prop := ringUsed s.xi ≤ Config.ringSlots

/-- The ring has room for the records that the transaction in hand has begun: the invariant behind the law of the ring. -/
def RingRoom (s : State) : Prop := ringUsed s.xi + endsAhead s.xi ≤ Config.ringSlots

/-- Board memory is in its canonical form. -/
def MemoryLaw (s : State) : Prop := Memory.wf s.mem = true

/-- The engaged indication is yes exactly while a channel is ENGAGED, and the standstill timer is stopped while it is no (R68,
R150). -/
def EngagedLaw (s : State) : Prop :=
  (s.lc.engaged = true ↔ ∃ i, (s.chan i).state = .engaged) ∧ (s.lc.engaged = false → s.lc.standstill = .stopped)

/-- A suspended exchange interface has no transaction, waiting or in hand, and holds its fault (R161, R162). -/
def SuspensionLaw (s : State) : Prop :=
  s.xi.suspended = true → s.xi.queue = [] ∧ s.xi.inHand = none ∧ s.xi.held.isSome = true

/-- The permit rule, the law of holds and the FAULT law together. -/
def LineLaws (s : State) : Prop := PermitRule s ∧ HoldLaw s ∧ FaultLaw s

/-- Neither position passes its limit (R3), and neither debt passes 65,535 µm (R2). -/
def PositionLaw (s : State) : Prop :=
  s.wt.p ≤ Config.positionLimit ∧ s.wt.q ≤ Config.positionLimit ∧ s.wt.printDebt ≤ Config.debtLimit ∧
    s.wt.ovenDebt ≤ Config.debtLimit

/-- While the RESET pin is asserted the part holds its reset values (R177): all but board memory, the pins, and the model's
own counter and queue. -/
def ResetLaw (s : State) : Prop :=
  s.pins.resetAsserted = true →
    s = { State.reset with mem := s.mem, pins := s.pins, draws := s.draws, pending := s.pending }

/-- An entry order exists exactly in PRINTING; command busy is set in LOADING, and otherwise only in UNLOADED (R185). -/
def EntryLaw (s : State) : Prop :=
  (s.lc.line = .printing ↔ s.os.entry.isSome = true) ∧ (s.lc.line = .loading → s.busy = true) ∧
    (s.busy = true → s.lc.line = .loading ∨ s.lc.line = .unloaded)

/-- The laws of a segment record: its printed set is a subset of its required set, which is empty for BLANK and RUN_OUT
(R10), and its dose is at most 4,294,967,295 mu (R121). -/
def SegmentLaw (r : Segment) : Prop :=
  minusSet r.printed r.required = 0#16 ∧ r.dose ≤ Config.wordLimit ∧
    (r.kind = .blank ∨ r.kind = .runOut → r.required = 0#16)

/-- The serials of a map, oldest first, increase by exactly one up to the next serial, which is at most 2^32; so they are
positive and below it (R11). -/
def SerialsRun (next : Nat) (map : List Segment) : Prop :=
  (∀ (k : Nat) (r : Segment), map[k]? = some r → r.serial + map.length = next + k) ∧ map.length < next ∧ next ≤ 4294967296

/-- The law of the web map: at most 2048 records with running serials (R11), each within the laws of a record and 1..L_seg µm
long, the open stretch not longer than L_seg (R8). -/
def MapLaw (s : State) : Prop :=
  s.wt.map.length ≤ Config.mapCapacity ∧ SerialsRun s.wt.nextSerial s.wt.map ∧
    (∀ r ∈ s.wt.map, SegmentLaw r ∧ 1 ≤ r.length ∧ r.length ≤ s.prof.segmentLength) ∧
    s.wt.p ≤ s.wt.lastCut + s.prof.segmentLength

/-- In READY and PRINTING the length cause lies ahead of P (R8). -/
def CutAhead (s : State) : Prop :=
  lineOpen s = true → 0 < s.prof.segmentLength ∧ s.wt.p < s.wt.lastCut + s.prof.segmentLength

/-! ### Frames of the statements -/

/-- `t` agrees with `s` in the line clock, the registers, the pins, the profile, the queue of commands and every byte of board
memory: what no event of the blocks changes. -/
structure Undisturbed (s t : State) : Prop where
  clock : t.clock = s.clock
  exbase : t.exbase = s.exbase
  busy : t.busy = s.busy
  busRead : t.busRead = s.busRead
  retired : t.xi.retired = s.xi.retired
  written : t.xi.written = s.xi.written
  pins : t.pins = s.pins
  prof : t.prof = s.prof
  pending : t.pending = s.pending
  mem : ∀ a, readByte t.mem a = readByte s.mem a

/-- The host may command: the RESET pin is not asserted, no command is under way, and the line is READY or PRINTING. -/
def Commandable (s : State) : Prop := s.pins.resetAsserted = false ∧ s.busy = false ∧ lineOpen s = true

/-- The rows that are writes to COMMAND (R171, R184). -/
def writesCommand (c : Instr) : Bool :=
  match c with
  | .loadProfile | .unload | .signal | .hold | .resume | .abortOrder | .clearFault | .liftSet _ | .liftClear _
  | .trim _ _ | .commandCodeUndefined _ => true
  | .printForwardCount | .ovenForwardCount | .reverseCount _ | .seamLevelChange _ | .stationSensorChange _ _ _
  | .markEdge | .zoneFrame _ _ | .reset _ | .resetRelease | .actuationTimerExpiry _ | .evaluationTimerExpiry
  | .doseIntervalExpiry | .setbackTimerExpiry | .standstillTimerExpiry | .staleTimerExpiry _
  | .memoryAccessTimeout | .memoryAccessDone _ | .transactionStart | .closeOut | .exbaseWrite _ | .retireWrite _
  | .eventsRead | .registerWriteIgnored _ _ => false

/-- Whether a report posted now is lost at its posting (R164). -/
def postingLost (s : State) : Bool := s.xi.suspended || decide (Config.waitingLimit ≤ waitingReports s.xi.queue)

/-- The exchange interface after a report has been posted: the report at the tail of the queue, or one more report lost
(R163, R164). -/
def xiAfterReport (s : State) (p : Posting) : ExchangeInterface :=
  if postingLost s then
    { s.xi with
      lost := min (s.xi.lost + 1) Config.lostLimit
      firstLoss := if s.xi.lost = 0 then s.clock else s.xi.firstLoss }
  else { s.xi with queue := s.xi.queue ++ [.report p] }

/-- EVENTS after a report has been posted (R164). -/
def eventsAfterReport (s : State) : Events := if postingLost s then { s.events with gap := true } else s.events

/-- The state after the report `p`, all of whose fields a rule gives, has been posted. -/
def afterReport (s : State) (p : Posting) : State :=
  { s with xi := xiAfterReport s p, events := eventsAfterReport s, draws := s.draws + 1 }

/-- STATION_FAULT of a channel (R71): the record under its contact line, its reason, and P in mm. -/
def stationFaultReport (s : State) (i : Station) (r : StationFault) : Posting :=
  { kind := .stationFault
    tag := tagOr0 (recordUnder s (s.stationCfg i).distance)
    station := wordOfNat (stationNo i)
    serial := wordOfNat (serialOr0 (recordUnder s (s.stationCfg i).distance))
    clock := s.clock
    first := wordOfNat r.code
    second := mmWord s.wt.p }

/-- The engaged indication of `t` shows its channels, and the standstill timer has followed the indication from `s`: started where
it became yes, stopped where it became no (R68, R150). -/
def EngagedFollows (s t : State) : Prop :=
  (t.lc.engaged = true ↔ ∃ i, (t.chan i).state = .engaged) ∧
    t.lc.standstill =
      if t.lc.engaged = s.lc.engaged then s.lc.standstill else if t.lc.engaged then .running s.clock else .stopped

/-- `t` is `s`, its pins apart, after one channel has entered FAULTED: reason set, pending lower clear, timer stopped,
STATION_FAULT posted; no other channel and no hold cause changes (R71). Of the line only the engaged indication and the
standstill timer follow the channel (R150). -/
structure EntersFaulted (s t : State) (i : Station) (r : StationFault) : Prop where
  channel : t.chan i = { s.chan i with state := .faulted, reason := some r, pendingLower := false, timer := .stopped }
  others : ∀ j, j ≠ i → t.chan j = s.chan j
  report : t.xi = xiAfterReport s (stationFaultReport s i r)
  engaged : EngagedFollows s t
  rest : t = { s with
    sc := t.sc
    lc := { s.lc with engaged := t.lc.engaged, standstill := t.lc.standstill }
    xi := t.xi
    events := eventsAfterReport s
    draws := s.draws + 1
    pins := t.pins }

/-- A channel after a hold entry at line clock `clk`: LOWERING and ENGAGED lift, LIFTING forgets its pending lower, the others
are left as they are (R77). -/
def heldChannel (clk : Word) (c : Channel) : Channel :=
  match c.state with
  | .lowering | .engaged => { c with state := .lifting, pendingLower := false, timer := .running clk }
  | .lifting => { c with pendingLower := false }
  | .out | .lifted | .faulted => c

/-- A timer whose interval of `ms` has run out at line clock `clk` (00_scope section 5.5). -/
def Due (t : Timer) (ms : Nat) (clk : Word) : Prop := ∃ since, t = .running since ∧ ms ≤ (clk - since).toNat

/-- HOLD_ON at a hold entry that leaves the set `h`, with the fault reason raised with it (R146). -/
def holdOnPosting (s : State) (h : HoldSet) (r : Option FaultReason) : Posting :=
  { kind := .holdOn, tag := entryTag s, station := 0#32, serial := wordOfNat s.wt.nextSerial, clock := s.clock,
    first := wordOfNat h.mask, second := wordOfNat (faultCode r) }

/-- A hold entry gives record `k` the stop mark of station `i`: the screen is LOWERING or ENGAGED, and `k` is the record under
its contact line (R77). -/
def StopMarkDue (s : State) (i : Station) (k : Nat) : Prop :=
  ((s.chan i).state = .lowering ∨ (s.chan i).state = .engaged) ∧ (s.stationCfg i).distance ≤ s.wt.p ∧
    s.wt.map.findIdx? (fun r => r.covers (s.wt.p - (s.stationCfg i).distance)) = some k

/-- `t` is `s` after a hold entry that leaves the set `h`, raised with the fault reason `r` if any (R146, R77): permit off,
screens lifted with their stop marks, hold start, HOLD of EVENTS, HOLD_ON. The rest of the machine is as before; of a web map
record only its stop marks can change. -/
structure EntersHold (s t : State) (h : HoldSet) (r : Option FaultReason) : Prop where
  line : t.lc = { s.lc with
    holds := h
    permit := false
    holdStart := s.clock
    engaged := false
    standstill := if s.lc.engaged then .stopped else s.lc.standstill }
  channels : ∀ i, t.chan i = heldChannel s.clock (s.chan i)
  count : t.wt.map.length = s.wt.map.length
  marks : ∀ (k : Nat) (r : Segment), s.wt.map[k]? = some r →
    ∃ m, t.wt.map[k]? = some { r with stopMarks := m } ∧
      ∀ i, (inSet m i = true ↔ inSet r.stopMarks i = true ∨ StopMarkDue s i k)
  report : t.xi = xiAfterReport s (holdOnPosting s h r)
  events : t.events = { eventsAfterReport s with hold := true }
  rest : t = { s with
    lc := t.lc
    sc := t.sc
    wt := { s.wt with map := t.wt.map }
    xi := t.xi
    events := t.events
    draws := s.draws + 1 }

/-- `t` is `s` after the fault reason `f` has been raised in READY or PRINTING: FAULT held, the first fault reason kept if there
is one, a hold entry if the set was empty (R145, R146, R152). -/
def RaisesFault (s t : State) (f : FaultReason) : Prop :=
  (s.lc.holds.any = true →
    t = { s with
      events.fault := true
      lc := { s.lc with holds := { s.lc.holds with fault := true }, firstFault := some (s.lc.firstFault.getD f) } }) ∧
  (s.lc.holds.any = false →
    EntersHold { s with events.fault := true, lc.firstFault := some (s.lc.firstFault.getD f) } t { fault := true } (some f))

/-- The report of a forward count that passes the position limit, or of a lost cut: TRACKING_LOST, the station word within
0..16, a tag that no rule gives (R3, R13, R182; log entry 4). -/
structure TrackingLost (clk : Word) (p : Posting) : Prop where
  kind : p.kind = .trackingLost
  station : p.station.toNat ≤ 16
  clock : p.clock = clk

/-- `t` is `s` after the correction `raw`, computed from error `e`, of station `i`: the value stored within the correction
range, target and transit if it changed, the limit flag, and REGISTER_LIMIT the first time (R86, R89, R91, R97). -/
structure Corrects (s t : State) (i : Station) (tag : Word) (raw e : Int) : Prop where
  value : (t.phase i).correction = max (-(s.prof.correctionRange : Int)) (min raw s.prof.correctionRange)
  kept : (t.phase i).correction = (s.phase i).correction →
    (t.phase i).target = (s.phase i).target ∧ (t.phase i).settle = (s.phase i).settle
  moved : (t.phase i).correction ≠ (s.phase i).correction →
    (t.phase i).target = targetOf
      ((s.wt.p : Int) - (s.phase i).origin - (s.stationCfg i).distance -
        ((s.phase i).base + (s.phase i).trim + (t.phase i).correction)) (s.stationCfg i).circumference ∧
    (t.phase i).settle = some (max ((s.phase i).settle.getD 0)
      (s.wt.p + (s.prof.readerDistance - (s.stationCfg i).distance) + s.prof.window))
  flag : (t.phase i).limitFlag = decide ((s.prof.correctionRange : Int) ≤ raw ∨ raw ≤ -(s.prof.correctionRange : Int))
  station : t.phase i = { s.phase i with
    correction := (t.phase i).correction
    target := (t.phase i).target
    settle := (t.phase i).settle
    limitFlag := (t.phase i).limitFlag }
  others : ∀ j, j ≠ i → t.phase j = s.phase j
  report : t = { (if (t.phase i).limitFlag = true ∧ (s.phase i).limitFlag = false then
      afterReport s
        { kind := .registerLimit, tag := tag, station := wordOfNat (i.val + 1),
          serial := wordOfNat (serialOr0 (recordUnder s s.prof.readerDistance)), clock := s.clock,
          first := wordOfInt (t.phase i).correction, second := wordOfInt e }
    else s) with pu.stations := t.pu.stations }

/-- TRANSACTION_START at `s` takes `t` from the queue, leaving `rest`, and begins its access `a`, with `more` to follow (R157,
R159, R160). -/
def BeginsService (s : State) (t : Transaction) (rest : List Transaction) (loseAfterGap : Bool) (a : Access)
    (more : List Access) : Prop :=
  exec .transactionStart s = .next { s with
    xi := { s.xi with
      queue := rest
      timer := .running s.clock
      inHand := some
        { transaction := t, access := a, address := s.exbase + wordOfNat a.offset, rest := more, got := [],
          stage := .stateWord, discarded := false, loseAfterGap := loseAfterGap } } }

/-- `s` with access `a` of the transaction in hand `h` begun, `rest` to follow (R157, R159). -/
def inAccess (s : State) (h : InHand) (a : Access) (rest : List Access) : State :=
  { s with
    xi := { s.xi with
      timer := .running s.clock
      inHand := some { h with access := a, address := s.exbase + wordOfNat a.offset, rest := rest } } }

/-- `t` has the exchange interface and EVENTS of `s` after the report `p`, with nothing but reads of the next order queued behind
it. -/
def PostsThenReads (s t : State) (p : Posting) : Prop :=
  t.events = eventsAfterReport s ∧
    ∃ reads, t.xi = { xiAfterReport s p with queue := (xiAfterReport s p).queue ++ reads } ∧
      ∀ x ∈ reads, isOrderRead x = true

/-- The GAP record of the losses counted at `s` (R164). -/
def lossPosting (s : State) : Posting :=
  { kind := .gap, tag := 0#32, station := 0#32, serial := 0#32, clock := s.clock, first := wordOfNat s.xi.lost,
    second := s.xi.firstLoss }

/-- The first write of the record of `p` with sequence `w`: its kind, into ring slot w mod 256 (R158, R163, R182). -/
def recordStart (p : Posting) (w : BitVec 16) : Access :=
  writeAt (0x5000 + 32 * (w.toNat % 256)) (wordOfNat p.kind.code)

/-- The other seven writes of a record, the sequence word last (R158, R163, R182). -/
def recordRest (p : Posting) (w : BitVec 16) (done : AccessMark) : List Access :=
  let slot := 0x5000 + 32 * (w.toNat % 256)
  [writeAt (slot + 4) p.tag, writeAt (slot + 8) p.station, writeAt (slot + 12) p.serial, writeAt (slot + 16) p.clock,
   writeAt (slot + 20) p.first, writeAt (slot + 24) p.second,
   { offset := slot + 28, write := some (w.setWidth 32), mark := done }]

/-- What the end of the access of `h` does to board memory (R159; log entry 2). -/
structure MovesWord (s t : State) (h : InHand) (host : Option Word) : Prop where
  elsewhere : ∀ a, a < h.address.toNat ∨ h.address.toNat + 4 ≤ a → readByte t.mem a = readByte s.mem a
  writeWord : ∀ w, h.access.write = some w → readWord t.mem h.address.toNat = w
  hostWord : ∀ w, h.access.write = none → host = some w → readWord t.mem h.address.toNat = w
  read : h.access.write = none → host = none → t.mem = s.mem

/-- What the end of the access of `h` does to the ring count, the lost count and EVENTS, and what it leaves; the transaction in
hand, the queue, the timer and the Order Sequencer are the caller's (R159, R163, R164). -/
structure AccessMoves (s t : State) (h : InHand) : Prop where
  ring : t.xi.written = if h.access.mark = .plain then s.xi.written else s.xi.written + 1
  lost : t.xi.lost = if h.access.mark = .gapDone then 0 else s.xi.lost
  events : t.events = if h.access.mark = .plain then s.events else { s.events with report := true }
  rest : t = { s with mem := t.mem, xi := t.xi, events := t.events, os := t.os }
  exchange : t.xi = { s.xi with
    inHand := t.xi.inHand
    timer := t.xi.timer
    queue := t.xi.queue
    written := t.xi.written
    lost := t.xi.lost }

/-- UNLOADED after an event that left `y`: with no transaction left under command busy, XI takes its reset values and the UNLOAD
ends; it stays busy while one is queued or in hand (R166, R176). -/
def unloadServed (y : State) : State :=
  if y.busy = true ∧ y.xi.queue = [] ∧ y.xi.inHand = none then
    { y with
      busy := false
      xi := { queue := [], inHand := none, timer := .stopped, written := 0#16, retired := 0#16, lost := 0,
              firstLoss := 0#32, suspended := false, held := none }
      events := { y.events with cmdDone := true } }
  else y

/-- The end of the access in hand at `s` leaves `y`; where that ends the last transaction of an UNLOAD, the command ends (R159,
R166, R176). -/
def AccessEnds (s : State) (host : Option Word) (y : State) : Prop :=
  (s.lc.line ≠ .unloaded → exec (.memoryAccessDone host) s = .next y) ∧
  (s.lc.line = .unloaded → exec (.memoryAccessDone host) s = .next (unloadServed y))

/-- The schedules of `t` are those of `s`, but for the entry of station `i` in the schedule `sch`, which is now `x` (R103). -/
structure EntryBecomes (s t : State) (sch : Schedule) (i : Station) (x : ScheduleEntry) : Prop where
  schedule : ∃ es, scheduleOf t sch.tag sch.index = some { sch with entries := es } ∧
    es.map (fun y => y.station) = sch.entries.map (fun y => y.station) ∧ es.find? (fun y => y.station == i) = some x ∧
    ∀ j, j ≠ i → es.find? (fun y => y.station == j) = entryOf sch j
  others : ∀ tag index, tag ≠ sch.tag ∨ index ≠ sch.index → scheduleOf t tag index = scheduleOf s tag index
  order : t.mr.schedules.map (fun y => (y.tag, y.index)) = s.mr.schedules.map fun y => (y.tag, y.index)

/-- A row of the table of R27 applies to an order body, or PROOF_TOLERANCE; KIND_UNKNOWN to none that spells an order. -/
def RefusalDue (s : State) (o : Order) (r : OrderRefusal) : Prop :=
  let design := o.kind = .print ∨ o.kind = .proof
  match r with
  | .kindUnknown => False
  | .tagZero => o.tag = 0#32
  | .tagInUse => ∃ x ∈ s.os.table, x.order.tag = o.tag
  | .setEmpty => design ∧ ∀ i, inSet o.set i = false
  | .stationOutOfService => design ∧ ∃ i, inSet o.set i = true ∧ (s.stationCfg i).inService = false
  | .stationFaulted => design ∧ ∃ i, inSet o.set i = true ∧ (s.chan i).state = .faulted
  | .repeatMismatch => design ∧ ∃ i, inSet o.set i = true ∧ o.length ≠ (s.stationCfg i).circumference
  | .countRange => design ∧ (o.count = 0 ∨ 255 < o.overrun)
  | .lengthRange => o.kind = .blank ∧ (o.length < 100 ∨ 1000000 < o.length ∨ 100000 < o.overrun)
  | .cureLimits => o.kind ≠ .halt ∧ (o.dMax < o.dMin ∨ 4294967 < o.dMax)
  | .zoneCount => design ∧ 16 < o.markCount
  | .zoneOrder => design ∧ ((∃ m ∈ o.marks, m.position = 0 ∨ o.count * o.length ≤ m.position * 1000) ∨
      ¬o.marks.Pairwise fun a b => a.position < b.position)
  | .proofTolerance => o.kind = .proof ∧ o.tolerance = 0

/-- The refusal reasons in the order of the checks (R27). -/
def refusalOrder : List OrderRefusal :=
  [.kindUnknown, .tagZero, .tagInUse, .setEmpty, .stationOutOfService, .stationFaulted, .repeatMismatch, .countRange,
   .lengthRange, .cureLimits, .zoneCount, .zoneOrder, .proofTolerance]

/-- The least number with a property. -/
def Lowest (P : Nat → Prop) (n : Nat) : Prop := P n ∧ ∀ m, m < n → ¬P m

/-- The greatest number with a property. -/
def Highest (P : Nat → Prop) (n : Nat) : Prop := P n ∧ ∀ m, n < m → ¬P m

/-- A field of the profile, by its word index, lies outside the range of its chapter's table; `general` lists the words of the
line itself with their ranges (R173, R179). -/
def FieldOutside (general : List (Nat × Nat × Nat)) (w : Nat → Word) (n : Nat) : Prop :=
  let out (lo hi : Nat) : Prop := (w n).toNat < lo ∨ hi < (w n).toNat
  (∃ lo hi, (n, lo, hi) ∈ general ∧ out lo hi) ∨
  (∃ i : Station,
    let b := 0x40 + 8 * i.val
    n = b ∧ out 0 1 ∨
    w b = 1#32 ∧ (n = b + 1 ∧ out 50 50000 ∨ n = b + 2 ∧ out 0 10000 ∨ n = b + 3 ∧ out 400000 1400000 ∨
      n = b + 4 ∧ ((w n).toInt < -200000 ∨ 200000 < (w n).toInt) ∨ n = b + 5 ∧ out 0 1400000)) ∨
  (∃ k, k < 2 * (w 0x17).toNat ∧ n = 0xC0 + k ∧ out 0 150000) ∨
  (∃ p i, p < 8 ∧ 2 ≤ (w (0x100 + 32 * p)).toNat ∧ (w (0x100 + 32 * p)).toNat ≤ 16 ∧ i < (w (0x100 + 32 * p)).toNat ∧
    n = 0x100 + 32 * p + 1 + i ∧ (3000 < bitField (w n) 0 16 ∨ 10000 < bitField (w n) 16 16))

/-- Item `k` of the table of R173 fails for the profile that `w` spells, with the item number `n`. -/
def ItemFails (general : List (Nat × Nat × Nat)) (w : Nat → Word) (k n : Nat) : Prop :=
  let f := profileOf w
  let station (i : Station) : StationProfile := f.stations.get i
  match k with
  | 1 => Lowest (FieldOutside general w) n
  | 2 => Lowest (fun m => ∃ i j : Station, m = i.val + 1 ∧ j < i ∧ (station i).inService = true ∧
      (station j).inService = true ∧ (∀ x, j < x → x < i → (station x).inService = false) ∧
      (station i).distance ≤ (station j).distance) n
  | 3 => Lowest (fun m => ∃ i : Station, m = i.val + 1 ∧ (station i).inService = true ∧
      ((station i).distance : Int) - (station i).lead < f.segmentLength) n
  | 4 => Highest (fun m => ∃ i : Station, m = i.val + 1 ∧ (station i).inService = true ∧
      (f.readerDistance : Int) - f.window ≤ (station i).distance) n
  | 5 => n = 0 ∧ f.tableExit < f.readerDistance + 1400000 + f.window
  | 6 => n = 0 ∧ f.seamDistance ≤ f.guardBefore + f.segmentLength
  | 7 => n = 0 ∧ (¬(f.resumeMark < f.highMark ∧ f.highMark < f.festoonCapacity) ∨ f.festoonCapacity < f.festoonFill)
  | 8 => Lowest (fun m => ∃ z a b, m = z + 1 ∧ f.zones[z]? = some (a, b) ∧
      (b ≤ a ∨ (∃ c d, f.zones[z + 1]? = some (c, d) ∧ c < b) ∨ f.ovenLength < b)) n
  | 9 => Lowest (fun m => ∃ p : Page, m = p.val ∧ (w (0x100 + 32 * p.val)).toNat ≠ 0 ∧
      ((w (0x100 + 32 * p.val)).toNat < 2 ∨ 16 < (w (0x100 + 32 * p.val)).toNat ∨
        ∃ i a b, (f.pages.get p)[i]? = some a ∧ (f.pages.get p)[i + 1]? = some b ∧ (b.1 ≤ a.1 ∨ b.2 < a.2))) n
  | 10 => n = 7 ∧ w (0x100 + 32 * 7) = 0#32
  | 11 => n = 0 ∧ f.dMax < f.dMin
  | 12 => Lowest (fun m => ∃ i : Station, m = i.val + 1 ∧ (station i).inService = true ∧
      ((station i).markOffset < f.window + f.correctionRange ∨
        ((station i).circumference : Int) - f.window - f.correctionRange < (station i).markOffset)) n
  | 13 => 2048 < n ∧ ∃ q, Lowest (fun x => f.tableExit + f.festoonCapacity + f.ovenLength ≤ x * f.segmentLength) q ∧ n = q + 64
  | _ => False

/-- The pending cut list is in ascending order of position (R52). -/
def CutsAscend (c : CutPlanner) : Prop := c.pending.Pairwise fun a b => a.position ≤ b.position

end Sys2Proof.Machine
end

