-- ==== Sys2Proof/Certificates/Slice0/Obligations.lean ====
section
/-! DEFINITION. The statements for the provers. Where a statement rests on a choice of the model, its docstring names the log
entry. -/

open Sys2Proof Sys2Proof.Machine

/-! ### The queue of commands -/

/-- A step gives the command at the front of the queue its meaning, on the state with the queue's rest. With an empty queue a
step is one millisecond of the line clock, which stays at 0 under the RESET pin: the model's choice (log entry 13). -/
def Obligations.StepRunsTheFrontCommand : Prop :=
  (∀ (c : Instr) (s : State) (rest : List Instr), s.pending = c :: rest → step s = exec c { s with pending := rest }) ∧
  ∀ s : State, s.pending = [] →
    (s.pins.resetAsserted = false → step s = .next { s with clock := s.clock + 1#32 }) ∧
      (s.pins.resetAsserted = true → step s = .next s)

/-! ### Encoder counts (sections 1.2 and 1.3) -/

/-- Counts are applied in READY and PRINTING, also during a hold, and discarded in UNLOADED and LOADING (R4). `PositionLaw`
is an invariant (FestoonOffsetAndPositionLawsKept). -/
def Obligations.CountsApplyOnlyInReadyAndPrinting : Prop :=
  ∀ s : State, s.pins.resetAsserted = false → PositionLaw s →
    ((s.lc.line = .unloaded ∨ s.lc.line = .loading) →
      exec .printForwardCount s = .next s ∧ exec .ovenForwardCount s = .next s ∧
        ∀ e, exec (.reverseCount e) s = .next s) ∧
    ((s.lc.line = .ready ∨ s.lc.line = .printing) →
      (∃ t, exec .printForwardCount s = .next t ∧ t.wt.printDebt = s.wt.printDebt - s.prof.printResolution ∧
        t.wt.p = min (s.wt.p + (s.prof.printResolution - s.wt.printDebt)) Config.positionLimit) ∧
      (∃ t, exec .ovenForwardCount s = .next t ∧ t.wt.ovenDebt = s.wt.ovenDebt - s.prof.ovenResolution ∧
        t.wt.q = min (s.wt.q + (s.prof.ovenResolution - s.wt.ovenDebt)) Config.positionLimit) ∧
      (∃ t, exec (.reverseCount .print) s = .next t ∧ t.wt.p = s.wt.p ∧
        t.wt.printDebt = min (s.wt.printDebt + s.prof.printResolution) Config.debtLimit) ∧
      (∃ t, exec (.reverseCount .oven) s = .next t ∧ t.wt.q = s.wt.q ∧
        t.wt.ovenDebt = min (s.wt.ovenDebt + s.prof.ovenResolution) Config.debtLimit))

/-- A forward count that only pays debt lowers the debt and ends the stretch of reverse motion on its encoder; nothing else
changes (R1). A reverse count adds its resolution to its encoder's debt, up to 65,535 µm, and leaves the position; the first
discarding count of a stretch posts REVERSE_LIMIT (R2). The report's tag, which no rule gives, is free (log entry 4). -/
def Obligations.CountsMoveTheDebts : Prop :=
  ∀ s : State, takesEvents s = true →
    (s.prof.printResolution ≤ s.wt.printDebt →
      exec .printForwardCount s =
        .next { s with wt.printDebt := s.wt.printDebt - s.prof.printResolution, wt.printReverse := .none }) ∧
    (s.prof.ovenResolution ≤ s.wt.ovenDebt →
      exec .ovenForwardCount s =
        .next { s with wt.ovenDebt := s.wt.ovenDebt - s.prof.ovenResolution, wt.ovenReverse := .none }) ∧
    (s.wt.printDebt + s.prof.printResolution ≤ Config.debtLimit →
      exec (.reverseCount .print) s = .next { s with
        wt.printDebt := s.wt.printDebt + s.prof.printResolution
        wt.printReverse := if s.wt.printReverse = .limited then .limited else .open }) ∧
    (Config.debtLimit < s.wt.printDebt + s.prof.printResolution →
      ∃ tag, exec (.reverseCount .print) s = .next
        (if s.wt.printReverse = .limited then { s with wt.printDebt := Config.debtLimit, wt.printReverse := .limited }
        else
          afterReport { s with wt.printDebt := Config.debtLimit, wt.printReverse := .limited }
            { kind := .reverseLimit, tag := tag, station := 0#32, serial := 0#32, clock := s.clock, first := 0#32,
              second := wordOfNat (s.wt.printDebt + s.prof.printResolution - Config.debtLimit) })) ∧
    (s.wt.ovenDebt + s.prof.ovenResolution ≤ Config.debtLimit →
      exec (.reverseCount .oven) s = .next { s with
        wt.ovenDebt := s.wt.ovenDebt + s.prof.ovenResolution
        wt.ovenReverse := if s.wt.ovenReverse = .limited then .limited else .open }) ∧
    (Config.debtLimit < s.wt.ovenDebt + s.prof.ovenResolution →
      ∃ tag, exec (.reverseCount .oven) s = .next
        (if s.wt.ovenReverse = .limited then { s with wt.ovenDebt := Config.debtLimit, wt.ovenReverse := .limited }
        else
          afterReport { s with wt.ovenDebt := Config.debtLimit, wt.ovenReverse := .limited }
            { kind := .reverseLimit, tag := tag, station := 0#32, serial := 0#32, clock := s.clock, first := 1#32,
              second := wordOfNat (s.wt.ovenDebt + s.prof.ovenResolution - Config.debtLimit) }))

/-- A print forward count with travel beyond the debt: P rises by it, the debt is paid, the underrun episode ends, and every
station in service has the target of R86 at the new P; the oven side, the registers and board memory do not change. UNDERRUN
closes an episode (R6; its tag: log entry 4; words of mm: log entry 35) and a running standstill timer restarts (R150) before
P moves; each µm then meets the thresholds at the new P, each block once (R1), by the meanings of the table of blocks; the
targets and the festoon content come last (R5, R86; what the content does: OvenAdvanceMovesTheConveyor). The order of these
parts, and the order among blocks that share a position, which is free, are the model's choice (log entries 6 and 8). -/
def Obligations.PrintAdvanceMovesTheBlanket : Prop :=
  ∀ (s : State) (d : Nat), takesEvents s = true → s.prof.printResolution = s.wt.printDebt + d → 0 < d →
    s.wt.p + d ≤ Config.positionLimit →
    (∃ t, exec .printForwardCount s = .next t ∧ Undisturbed s t ∧
      t.wt.p = s.wt.p + d ∧ t.wt.printDebt = 0 ∧ t.wt.printReverse = .none ∧ t.wt.underrun = none ∧
      (t.wt.q = s.wt.q ∧ t.wt.k = s.wt.k ∧ t.wt.ovenDebt = s.wt.ovenDebt ∧ t.wt.ovenReverse = s.wt.ovenReverse) ∧
      t.ci.zones = s.ci.zones ∧ lineOpen t = true ∧
      ∀ i, (s.stationCfg i).inService = true →
        (t.phase i).target = targetOf (phaseX t i) (s.stationCfg i).circumference) ∧
    (∀ u : State, d = 1 → s.wt.underrun = none → s.lc.standstill = .stopped →
      u = { s with
        wt := { s.wt with p := s.wt.p + 1, printDebt := 0, printReverse := .none }
        cp.travel := if s.cp.detector = .rising ∨ s.cp.detector = .clearing then s.cp.travel + 1 else s.cp.travel } →
      ((∀ a, actorDue u a = false) → exec .printForwardCount s = .next (deliverFestoon (driveTargets u))) ∧
      (∀ a, actorDue u a = true → (∀ b, b ≠ a → actorDue u b = false) →
        exec .printForwardCount s = .next (deliverFestoon (driveTargets (act u a))))) ∧
    (∃ tag : Word, ∀ base : State,
      base = { s with
        wt := { s.wt with printDebt := 0, printReverse := .none, underrun := none }
        lc.standstill := match s.lc.standstill with
          | .stopped => .stopped
          | .running _ => .running s.clock } →
      exec .printForwardCount s = .next (deliverFestoon (driveTargets (advanceBy d (match s.wt.underrun with
        | none => base
        | some total => afterReport base
          { kind := .underrun, tag := tag, station := 0#32, serial := 0#32, clock := s.clock, first := wordOfNat total,
            second := wordOfNat (s.wt.k / 1000) }))))) ∧
    ∀ u : State,
      (advanceBy 0 u = u ∧ ∀ n, advanceBy (n + 1) u = advanceBy n (meetThresholds { u with
        wt.p := u.wt.p + 1
        cp.travel := if u.cp.detector = .rising ∨ u.cp.detector = .clearing then u.cp.travel + 1 else u.cp.travel })) ∧
      (∃ order : List Actor, order.Nodup ∧ (∀ a, a ∈ order ↔ actorDue u a = true) ∧
        meetThresholds u = order.foldl act (if 2 ≤ order.length then { u with draws := u.draws + 1 } else u)) ∧
      ((actorDue u .detector = detectorDue u ∧ act u .detector = meetDetector u) ∧
        (actorDue u .cut = cutDue u ∧ act u .cut = meetCut u) ∧
        ((actorDue u .stations = true ↔ ∃ i, stationDue u i = true) ∧ act u .stations = meetStations u) ∧
        ((actorDue u .switches = true ↔ ∃ i, (u.stationCfg i).inService = true ∧
            ∃ o ∈ u.pu.switches, o + (u.stationCfg i).distance = u.wt.p) ∧ act u .switches = meetSwitches u) ∧
        ((actorDue u .settles = true ↔ ∃ i p, (u.phase i).settle = some p ∧ p ≤ u.wt.p) ∧
          act u .settles = meetSettles u) ∧
        (actorDue u .closing = closingNow u ∧ act u .closing = meetClosing u) ∧
        ((actorDue u .openings = true ↔ openingsHere u ≠ []) ∧ act u .openings = meetOpenings u) ∧
        ((actorDue u .builds = true ↔ ∃ c ∈ u.mr.cursors, buildNow u c = true) ∧ act u .builds = meetBuilds u) ∧
        (actorDue u .confirm = confirmHere u ∧ act u .confirm = meetConfirm u) ∧
        ((actorDue u .printed = true ↔ ∃ r ∈ u.os.table, printedNow u r = true) ∧ act u .printed = meetPrinted u)) ∧
      ∃ t, driveTargets u = t ∧ t = { u with pu := { u.pu with stations := t.pu.stations } } ∧
        ∀ i, t.phase i =
          if (u.stationCfg i).inService then
            { u.phase i with
              target := targetOf
                ((u.wt.p : Int) - (u.phase i).origin - (u.stationCfg i).distance -
                  ((u.phase i).base + (u.phase i).trim + (u.phase i).correction)) (u.stationCfg i).circumference }
          else u.phase i

/-- An oven forward count with travel beyond the debt: Q rises by it, K rises by what the festoon lacked, which the underrun
episode takes, SETBACK is deasserted, with SETBACK_OFF if it was asserted, and its timer runs afresh; the print side, the
registers and board memory do not change (R1, R6, R126, R127). Without an exited segment awaiting or in close-out, the Order
Sequencer has the exit horizon at the end, none while it is negative (R18). The festoon content delivered by either advance:
FESTOON is raised at the high mark and cleared at the resume mark, with HOLD_ON or HOLD_OFF where the set becomes, or ceases to
be, non-empty (R146, R147, R151); above the capacity it raises FAULT once, until it has come back (R7). The order of these
parts is log entry 8, and words of mm log entry 35. -/
def Obligations.OvenAdvanceMovesTheConveyor : Prop :=
  (∀ (s : State) (d : Nat), takesEvents s = true → s.prof.ovenResolution = s.wt.ovenDebt + d → 0 < d →
    s.wt.q + d ≤ Config.positionLimit →
    (∃ t, exec .ovenForwardCount s = .next t ∧ Undisturbed s t ∧
      t.wt.q = s.wt.q + d ∧ t.wt.ovenDebt = 0 ∧ t.wt.ovenReverse = .none ∧
      t.wt.k = s.wt.k + ((d : Int) - festoon s).toNat ∧
      t.wt.underrun =
        (if (d : Int) ≤ festoon s then s.wt.underrun
        else some (min (s.wt.underrun.getD 0 + ((d : Int) - festoon s).toNat) Config.wordLimit)) ∧
      t.ci.setback = false ∧ t.ci.setbackTimer = .running s.clock ∧
      (t.wt.p = s.wt.p ∧ t.wt.printDebt = s.wt.printDebt ∧ t.wt.printReverse = s.wt.printReverse) ∧
      t.ci.zones = s.ci.zones ∧ lineOpen t = true) ∧
    ∀ u v w : State,
      u = { s with wt := { s.wt with
        q := s.wt.q + d
        k := s.wt.k + ((d : Int) - festoon s).toNat
        ovenDebt := 0
        ovenReverse := .none
        underrun := if (d : Int) ≤ festoon s then s.wt.underrun
          else some (min (s.wt.underrun.getD 0 + ((d : Int) - festoon s).toNat) 4294967295) } } →
      v = { deliverFestoon u with ci := { s.ci with setback := false, setbackTimer := .running s.clock } } →
      w = (if s.ci.setback then afterReport v
          { kind := .setbackOff, tag := 0#32, station := 0#32, serial := 0#32, clock := s.clock,
            first := wordOfNat ((s.wt.q + d) / 1000), second := s.clock - s.ci.setbackStart }
        else v) →
      (w.co.waiting.isSome = true ∨ (∃ r, w.wt.map.head? = some r ∧ exited w r = true) →
        exec .ovenForwardCount s = .next w) ∧
      (∀ x : Int, w.co.waiting = none → (∀ r, w.wt.map.head? = some r → exited w r = false) →
        x = ((s.wt.q + d : Nat) : Int) - u.wt.k - s.prof.ovenLength →
        (x < 0 → exec .ovenForwardCount s = .next w) ∧
        (0 ≤ x → exec .ovenForwardCount s = .next (testClose { w with wt.horizon := some x.toNat })))) ∧
  ∀ (u : State) (f : Int), f = festoon u → lineOpen u = true →
    ∃ v,
      (u.lc.holds.festoon = false → f < u.prof.highMark → v = u) ∧
      (u.lc.holds.festoon = false → u.prof.highMark ≤ f →
        (u.lc.holds.any = true → v = { u with lc.holds := { u.lc.holds with festoon := true } }) ∧
        (u.lc.holds.any = false → EntersHold u v { festoon := true } none)) ∧
      (u.lc.holds.festoon = true → u.prof.resumeMark < f → v = u) ∧
      (u.lc.holds.festoon = true → f ≤ u.prof.resumeMark →
        (u.lc.holds ≠ { festoon := true } → v = { u with lc.holds := { u.lc.holds with festoon := false } }) ∧
        (u.lc.holds = { festoon := true } →
          v = { afterReport u
            { kind := .holdOff, tag := entryTag u, station := 0#32, serial := wordOfNat u.wt.nextSerial, clock := u.clock,
              first := 4#32, second := u.clock - u.lc.holdStart } with
            lc := { u.lc with holds := {}, permit := true } })) ∧
      (f ≤ u.prof.festoonCapacity → deliverFestoon u = { v with wt.overfillArmed := true }) ∧
      (u.prof.festoonCapacity < f → u.wt.overfillArmed = false → deliverFestoon u = v) ∧
      (u.prof.festoonCapacity < f → u.wt.overfillArmed = true →
        RaisesFault { v with wt.overfillArmed := false } (deliverFestoon u) .festoonOverfill)

/-- A count that would pass 2^48 − 1 stops there; the first such count since the load raises FAULT with TRACKING_LOST and posts
TRACKING_LOST with first value word 2, a later one raises and posts nothing (R3). The report comes last (log entry 8), and its
other fields are free, the station word within 0..16 (R182; log entry 4). -/
def Obligations.CountsStopAtThePositionLimit : Prop :=
  ∀ (s : State) (d : Nat), takesEvents s = true →
    (s.prof.printResolution = s.wt.printDebt + d → s.wt.p ≤ Config.positionLimit → Config.positionLimit < s.wt.p + d →
      ∃ u, Undisturbed s u ∧ u.wt.p = Config.positionLimit ∧ u.wt.printDebt = 0 ∧ u.wt.limitPosted = s.wt.limitPosted ∧
        (s.wt.p = Config.positionLimit → u = { s with wt.printDebt := 0, wt.printReverse := .none }) ∧
        (s.wt.limitPosted = true → exec .printForwardCount s = .next u) ∧
        (s.wt.limitPosted = false → ∃ v p, RaisesFault { u with wt.limitPosted := true } v .trackingLost ∧
          TrackingLost s.clock p ∧ p.first = 2#32 ∧ exec .printForwardCount s = .next (afterReport v p))) ∧
    (s.prof.ovenResolution = s.wt.ovenDebt + d → s.wt.q ≤ Config.positionLimit → Config.positionLimit < s.wt.q + d →
      ∃ u, Undisturbed s u ∧ u.wt.q = Config.positionLimit ∧ u.wt.ovenDebt = 0 ∧ u.wt.limitPosted = s.wt.limitPosted ∧
        (s.wt.q = Config.positionLimit → u = { s with wt.ovenDebt := 0, wt.ovenReverse := .none }) ∧
        (s.wt.limitPosted = true → exec .ovenForwardCount s = .next u) ∧
        (s.wt.limitPosted = false → ∃ v p, RaisesFault { u with wt.limitPosted := true } v .trackingLost ∧
          TrackingLost s.clock p ∧ p.first = 2#32 ∧ exec .ovenForwardCount s = .next (afterReport v p)))

/-- Under the law of the festoon a segment is in exactly one section, by the conditions of R14, and no count takes it to an
earlier one. `FestoonLaw` is an invariant (FestoonOffsetAndPositionLawsKept). -/
def Obligations.SectionsFollowThePositions : Prop :=
  ∀ (s : State) (r : Segment), FestoonLaw s →
    (∃ x, inSection s r x = true ∧ ∀ y, inSection s r y = true → y = x) ∧
    (inSection s r .table = true ↔ (s.wt.p : Int) - r.pEnd < s.prof.tableExit) ∧
    (inSection s r .festoon = true ↔
      (s.prof.tableExit : Int) ≤ (s.wt.p : Int) - r.pEnd ∧ s.wt.q < r.pEnd + s.wt.k) ∧
    (inSection s r .oven = true ↔
      r.pEnd + s.wt.k ≤ s.wt.q ∧ (s.wt.q : Int) - (r.pEnd + s.wt.k : Nat) < s.prof.ovenLength) ∧
    (inSection s r .exited = true ↔ (s.prof.ovenLength : Int) ≤ (s.wt.q : Int) - (r.pEnd + s.wt.k : Nat)) ∧
    ∀ c t, c = .printForwardCount ∨ c = .ovenForwardCount ∨ (∃ e, c = .reverseCount e) → exec c s = .next t →
      (inSection t r .table = true → inSection s r .table = true) ∧
      (inSection s r .oven = true → inSection t r .oven = true ∨ inSection t r .exited = true) ∧
      (inSection s r .exited = true → inSection t r .exited = true)

/-! ### Cuts and seams (Chapters 1 and 3) -/

/-- A cut closes the open stretch, unless P is P_c (R8, R9): the record of R10 joins the web map with the next serial, P_c moves
and the order's serials follow (R46); a full map or exhausted serials make no record, and the first such cut of a loss raises
FAULT and posts TRACKING_LOST (R13). A cut is due at P_c + L_seg and at the first pending entry, whose effect is on the fabric
after the cut (R8, R52, R54, R61, R62); entries that share the position take effect one after the other in list order, which by
R52 makes a difference only for the two edges of one seam: its entry is OPEN and then gone, the seam status OUTSIDE (R55). That
station thresholds of OLDER stretches at the cut position are met before that effect is the model's choice (log entry 39). What
the closing of a stretch does to its thresholds is LeadAndStationPointsMoveTheScreen, what reaching an end does
HaltAndStarvationLeaveReady. Which words of TRACKING_LOST no rule gives: log entry 4; that it comes after the FAULT: log entry
8; a position above 2^32 − 1 mm: log entry 35. -/
def Obligations.CutsMakeRecords : Prop :=
  ∀ s : State,
    (s.wt.p ≤ s.wt.lastCut → closeStretch s = s) ∧
    (s.wt.lastCut < s.wt.p →
      closeStretch s = meetStations (addStretch (recordStretch s)
        { start := s.wt.lastCut
          finish := s.wt.p
          serial := if s.wt.map.length < 2048 ∧ s.wt.nextSerial ≤ 4294967295 then some s.wt.nextSerial else none })) ∧
    (s.wt.map.length < 2048 → s.wt.nextSerial ≤ 4294967295 →
      recordStretch s = { s with wt := (recordStretch s).wt, os.table := (recordStretch s).os.table } ∧
      (s.os.entry = none →
        (recordStretch s).os.table = s.os.table ∧
        (recordStretch s).wt = { s.wt with
          map := s.wt.map ++ [
            { serial := s.wt.nextSerial, length := s.wt.p - s.wt.lastCut, pEnd := s.wt.p, tag := 0#32, slot := none,
              kind := .runOut, required := 0#16, pressure := 0#3, seam := s.cp.inside, page := 7, dMin := s.prof.dMin,
              dMax := s.prof.dMax, printed := 0#16, stopMarks := 0#16, registerDefect := false, dose := 0, peak := 0,
              stale := false, overcure := false, verdict := none }]
          nextSerial := s.wt.nextSerial + 1
          lastCut := s.wt.p
          lost := false }) ∧
      (∀ x, entryRecord s = some x → x.order.kind ≠ .halt →
        (recordStretch s).wt = { s.wt with
          map := s.wt.map ++ [
            { serial := s.wt.nextSerial, length := s.wt.p - s.wt.lastCut, pEnd := s.wt.p, tag := x.order.tag,
              slot := some x.slot,
              kind := if x.order.kind = .print then .print else if x.order.kind = .proof then .proof else .blank,
              required := if (x.order.kind = .print ∨ x.order.kind = .proof) ∧ s.cp.inside = false then
                minusSet x.order.set s.cp.lift else 0#16,
              pressure := if x.order.kind = .print ∨ x.order.kind = .proof then s.cp.pressure else 0#3,
              seam := s.cp.inside, page := x.order.page, dMin := x.order.dMin, dMax := x.order.dMax, printed := 0#16,
              stopMarks := 0#16, registerDefect := false, dose := 0, peak := 0, stale := false, overcure := false,
              verdict := none }]
          nextSerial := s.wt.nextSerial + 1
          lastCut := s.wt.p
          lost := false } ∧
        entryRecord (recordStretch s) = some { x with
          firstSerial := if x.firstSerial = 0 then s.wt.nextSerial else x.firstSerial
          lastSerial := s.wt.nextSerial })) ∧
    (2048 ≤ s.wt.map.length ∨ 4294967295 < s.wt.nextSerial →
      (s.wt.lost = true → recordStretch s = { s with wt.lastCut := s.wt.p }) ∧
      (s.wt.lost = false → lineOpen s = true → ∃ v p,
        RaisesFault { s with wt.lastCut := s.wt.p, wt.lost := true } v .trackingLost ∧ TrackingLost s.clock p ∧
        (s.wt.nextSerial ≤ 4294967295 → p.first = 0#32) ∧ (s.wt.map.length < 2048 → p.first = 1#32) ∧
        p.second = wordOfNat (s.wt.p / 1000) ∧ (∀ r, s.wt.map.getLast? = some r → p.serial = wordOfNat r.serial) ∧
        recordStretch s = afterReport v p)) ∧
    (cutDue s = true ↔ s.wt.lastCut + s.prof.segmentLength ≤ s.wt.p ∨
      ∃ e, s.cp.pending.head? = some e ∧ e.position ≤ s.wt.p) ∧
    (cutDue s = true → (∀ e ∈ s.cp.pending, s.wt.p < e.position) → meetCut s = closeStretch s) ∧
    (∀ e rest u, s.cp.pending = e :: rest → e.position ≤ s.wt.p → (∀ x ∈ rest, s.wt.p < x.position) →
      u = { closeStretch s with cp := { s.cp with pending := rest } } →
      (∀ k m, e.kind = .zoneMark k → s.cp.marks[k]? = some m →
        ∃ t, meetCut s = t ∧ t = { u with cp := { u.cp with lift := m.lift, pressure := m.pressure, marks := t.cp.marks } } ∧
          t.cp.marks[k]? = some { m with applied := true } ∧ ∀ j, j ≠ k → t.cp.marks[j]? = s.cp.marks[j]?) ∧
      (∀ n, e.kind = .seamStart n →
        meetCut s = { u with cp := { u.cp with
          inside := true
          seams := modifyFirst (fun x => x.position == n) (fun x => { x with opened := true }) s.cp.seams } }) ∧
      (∀ n, e.kind = .seamEnd n → meetCut s = { u with
        cp := { u.cp with inside := false, seams := s.cp.seams.filter fun x => x.position != n } }) ∧
      (e.kind = .orderEnd → meetCut s = reachEnd u)) ∧
    (∀ here ahead, s.cp.pending = here ++ ahead → here ≠ [] → (∀ e ∈ here, e.position ≤ s.wt.p) →
      (∀ e ∈ ahead, s.wt.p < e.position) →
      meetCut s = here.foldl cutEffect { closeStretch s with cp := { s.cp with pending := ahead } }) ∧
    (∀ n p q rest, s.cp.pending = { kind := .seamStart n, position := p } :: { kind := .seamEnd n, position := q } :: rest →
      p ≤ s.wt.p → q ≤ s.wt.p → (∀ x ∈ rest, s.wt.p < x.position) →
      meetCut s = { closeStretch s with
        cp := { s.cp with pending := rest, inside := false, seams := s.cp.seams.filter fun x => x.position != n } }) ∧
    ∀ e : CutEntry,
      (e.kind = .orderEnd → cutEffect s e = reachEnd s) ∧
      (∀ k m, e.kind = .zoneMark k → s.cp.marks[k]? = some m → cutEffect s e = { s with
        cp := { s.cp with lift := m.lift, pressure := m.pressure, marks := s.cp.marks.set k { m with applied := true } } }) ∧
      (∀ n, e.kind = .seamStart n → cutEffect s e = { s with cp := { s.cp with
        inside := true
        seams := modifyFirst (fun x => x.position == n) (fun x => { x with opened := true }) s.cp.seams } }) ∧
      (∀ n, e.kind = .seamEnd n → cutEffect s e = { s with
        cp := { s.cp with inside := false, seams := s.cp.seams.filter fun x => x.position != n } })

/-- The pending cut list stays in ascending order of position under every command (R52). A new end of the entry order replaces
its ORDER_END, withdraws exactly the zone marks at or beyond it, and enters again, each at its record's position and once, the
PENDING ones that lie between P and it and have no entry; no other entry is added, and the seam edges stay in their order (R40,
R53, R54, R55). A seam queued puts its SEAM_START before its SEAM_END, also at one position, and an extension moves its SEAM_END
alone (R55). -/
def Obligations.PlanningKeepsTheCutOrder : Prop :=
  (∀ (c : Instr) (s t : State), exec c s = .next t → CutsAscend s.cp → CutsAscend t.cp) ∧
  (∀ (c : CutPlanner) (p finish : Nat) (u : CutPlanner), planEnd c p finish = u →
    u = { c with pending := u.pending } ∧
    (∀ e, e.kind = .orderEnd → (e ∈ u.pending ↔ p < finish ∧ e.position = finish)) ∧
    (∀ e, (∃ n, e.kind = .seamStart n ∨ e.kind = .seamEnd n) → (e ∈ u.pending ↔ e ∈ c.pending)) ∧
    (∀ e k, e.kind = .zoneMark k → e ∈ c.pending → (e ∈ u.pending ↔ e.position < finish)) ∧
    (∀ e k, e.kind = .zoneMark k → e ∈ u.pending → e.position < finish) ∧
    (∀ k m, c.marks[k]? = some m → m.applied = false → p < m.position → m.position < finish →
      ∃ e ∈ u.pending, e.kind = .zoneMark k) ∧
    (u.pending.filter fun e => !isOrderEnd e && !isZoneMark e) = (c.pending.filter fun e => !isOrderEnd e && !isZoneMark e) ∧
    u.pending.filter isOrderEnd = (if p < finish then [{ kind := .orderEnd, position := finish }] else []) ∧
    ∀ (k : Nat) (kept : List CutEntry), kept = (c.pending.filter fun e => e.kind == .zoneMark k && decide (e.position < finish)) →
      (kept ≠ [] → (u.pending.filter fun e => e.kind == .zoneMark k) = kept) ∧
      (kept = [] → (u.pending.filter fun e => e.kind == .zoneMark k) = (match c.marks[k]? with
        | some m =>
          if m.applied = false ∧ p < m.position ∧ m.position < finish then [{ kind := .zoneMark k, position := m.position }]
          else []
        | none => []))) ∧
  ∀ (c : CutPlanner) (seam zoneStart zoneEnd : Nat),
    (zoneStart ≤ zoneEnd → ∃ x y z, c.pending = x ++ (y ++ z) ∧
      (queueSeam c seam zoneStart zoneEnd).pending = x ++ { kind := .seamStart seam, position := zoneStart } ::
        (y ++ { kind := .seamEnd seam, position := zoneEnd } :: z)) ∧
    ∃ x z, (c.pending.filter fun e => e.kind != .seamEnd seam) = x ++ z ∧
      (extendSeam c seam zoneEnd).pending = x ++ { kind := .seamEnd seam, position := zoneEnd } :: z

/-- A change of the detector level moves the detector by the table of R56; it is watched in READY and PRINTING only. A print
advance that brings its travel to 2 mm (PrintAdvanceMovesTheBlanket) takes RISING to LATCHED with the announcement of the seam
at the rise position (SeamsAreMergedAcceptedOrLost), and CLEARING to IDLE (R56, R57). That the pin record follows the level in
every line state, and that a level already held is no change, is the model's reading (log entry 32). -/
def Obligations.SeamDetectorFollowsTheLevel : Prop :=
  ∀ s : State,
    (takesEvents s = true → s.pins.seamLevel = false →
      exec (.seamLevelChange true) s = .next
        (if s.cp.detector = .idle then
          { s with pins.seamLevel := true, cp.detector := .rising, cp.risePosition := s.wt.p, cp.travel := 0 }
        else if s.cp.detector = .clearing then { s with pins.seamLevel := true, cp.detector := .latched }
        else { s with pins.seamLevel := true })) ∧
    (takesEvents s = true → s.pins.seamLevel = true →
      exec (.seamLevelChange false) s = .next
        (if s.cp.detector = .rising then { s with pins.seamLevel := false, cp.detector := .idle }
        else if s.cp.detector = .latched then
          { s with pins.seamLevel := false, cp.detector := .clearing, cp.travel := 0 }
        else { s with pins.seamLevel := false })) ∧
    (takesEvents s = false → ∀ level, exec (.seamLevelChange level) s = .next { s with pins.seamLevel := level }) ∧
    (detectorDue s = true ↔ (s.cp.detector = .rising ∨ s.cp.detector = .clearing) ∧ 2000 ≤ s.cp.travel) ∧
    (detectorDue s = false → meetDetector s = s) ∧
    (s.cp.detector = .rising → 2000 ≤ s.cp.travel →
      meetDetector s = announceSeam { s with cp.detector := .latched } s.cp.risePosition) ∧
    (s.cp.detector = .clearing → 2000 ≤ s.cp.travel → meetDetector s = { s with cp.detector := .idle })

/-- An announcement within the seam minimum spacing of the newest queued seam, or touching its zone, is merged into it: the zone
end moves to the later of the two, and the SEAM_END with it (R55, R58; "within" at equality: log entry 37). A distinct seam is
accepted while fewer than four are queued, with its zone and both its cuts (R57, R59); with four it is lost, and FAULT is raised
with SEAM_LOST (R60). Where the edges stand in the list is PlanningKeepsTheCutOrder. SEAM_SEEN and SEAM_LOST carry the words of
R59; SEAM_LOST after the FAULT, and SEAM_SEEN before a read that the moved end starts: log entry 8; exhausted serials and
positions above 2^32 − 1 mm: log entries 35 and 36. -/
def Obligations.SeamsAreMergedAcceptedOrLost : Prop :=
  ∀ (s : State) (rise position zoneStart zoneEnd : Nat), lineOpen s = true → position = rise + s.prof.seamDistance →
    zoneStart = position - s.prof.guardBefore → zoneEnd = position + s.prof.guardAfter →
    (∀ e, mergeTarget s position zoneStart = some e ↔ s.cp.seams.getLast? = some e ∧
      (e.position ≤ position ∧ position ≤ e.position + s.prof.seamSpacing ∨ zoneStart ≤ e.zoneEnd)) ∧
    (∀ e init, mergeTarget s position zoneStart = some e → s.cp.seams = init ++ [e] →
      (∀ x ∈ init, x.position ≠ e.position) →
      (announceSeam s rise).cp.seams = init ++ [{ e with zoneEnd := max e.zoneEnd zoneEnd }] ∧
      { kind := .seamEnd e.position, position := max e.zoneEnd zoneEnd } ∈ (announceSeam s rise).cp.pending ∧
      (∀ x ∈ (announceSeam s rise).cp.pending, x.kind = .seamEnd e.position → x.position = max e.zoneEnd zoneEnd) ∧
      PostsThenReads s (announceSeam s rise)
        { kind := .seamSeen, tag := entryTag s, station := 0#32, serial := wordOfNat s.wt.nextSerial, clock := s.clock,
          first := wordOfNat (e.zoneStart / 1000), second := wordOfNat (max e.zoneEnd zoneEnd / 1000) }) ∧
    (∀ e, mergeTarget s position zoneStart = some e → announceSeam s rise = applySeamRule (afterReport
      { s with cp := extendSeam s.cp e.position (max e.zoneEnd zoneEnd) }
      { kind := .seamSeen, tag := entryTag s, station := 0#32, serial := wordOfNat s.wt.nextSerial, clock := s.clock,
        first := wordOfNat (e.zoneStart / 1000), second := wordOfNat (max e.zoneEnd zoneEnd / 1000) })) ∧
    (mergeTarget s position zoneStart = none → s.cp.seams.length < 4 → announceSeam s rise = applySeamRule (afterReport
      { s with cp := queueSeam s.cp position zoneStart zoneEnd }
      { kind := .seamSeen, tag := entryTag s, station := 0#32, serial := wordOfNat s.wt.nextSerial, clock := s.clock,
        first := wordOfNat (zoneStart / 1000), second := wordOfNat (zoneEnd / 1000) })) ∧
    (mergeTarget s position zoneStart = none → s.cp.seams.length < 4 →
      (announceSeam s rise).cp.seams = s.cp.seams ++
        [{ position := position, zoneStart := zoneStart, zoneEnd := zoneEnd, opened := false }] ∧
      { kind := .seamStart position, position := zoneStart } ∈ (announceSeam s rise).cp.pending ∧
      { kind := .seamEnd position, position := zoneEnd } ∈ (announceSeam s rise).cp.pending ∧
      PostsThenReads s (announceSeam s rise)
        { kind := .seamSeen, tag := entryTag s, station := 0#32, serial := wordOfNat s.wt.nextSerial, clock := s.clock,
          first := wordOfNat (zoneStart / 1000), second := wordOfNat (zoneEnd / 1000) }) ∧
    (mergeTarget s position zoneStart = none → 4 ≤ s.cp.seams.length →
      ∃ v, RaisesFault s v .seamLost ∧ announceSeam s rise = afterReport v
        { kind := .seamLost, tag := entryTag s, station := 0#32, serial := wordOfNat s.wt.nextSerial, clock := s.clock,
          first := wordOfNat (zoneStart / 1000), second := wordOfNat (zoneEnd / 1000) })

/-! ### Stations (Chapter 4) -/

/-- The sensor changes that end a motion (R70, R150). A rise of DOWN_SENSE with UP_SENSE low ends a lowering: ENGAGED, the
timer stopped, and the engaged indication yes, which starts the standstill timer if it was no. A rise of UP_SENSE with
DOWN_SENSE low ends a lift: LIFTED, or straight on to LOWERING if a lowering was deferred and nothing forbids it; pending lower
clear either way, and the engaged indication and the standstill timer as they were. -/
def Obligations.SensesEndAMotion : Prop :=
  ∀ (s : State) (i : Station), s.pins.resetAsserted = false → inSet s.pins.upSense i = false →
    inSet s.pins.downSense i = false →
    ((s.chan i).state = .lowering →
      ∃ t, exec (.stationSensorChange i .down true) s = .next t ∧
        t.chan i = { s.chan i with state := .engaged, timer := .stopped } ∧
        (∀ j, j ≠ i → t.chan j = s.chan j) ∧
        t.lc = { s.lc with
          engaged := true
          standstill := if s.lc.engaged then s.lc.standstill else .running s.clock } ∧
        t = { s with sc := t.sc, lc := t.lc, pins.downSense := addTo s.pins.downSense i }) ∧
    ((s.chan i).state = .lifting →
      ∃ t, exec (.stationSensorChange i .up true) s = .next t ∧
        t.chan i =
          (if (s.chan i).pendingLower = true ∧ (s.chan i).lastRequired = true ∧ (s.chan i).manual = false ∧
              s.lc.holds.any = false then
            { s.chan i with state := .lowering, pendingLower := false, timer := .running s.clock }
          else { s.chan i with state := .lifted, pendingLower := false, timer := .stopped }) ∧
        (∀ j, j ≠ i → t.chan j = s.chan j) ∧
        t = { s with
          sc := t.sc
          lc := { s.lc with engaged := t.lc.engaged, standstill := t.lc.standstill }
          pins.upSense := addTo s.pins.upSense i } ∧
        (EngagedLaw s → t.lc = s.lc))

/-- The sensor changes that fault a channel: UP_LOST in LIFTED, DOWN_LOST in ENGAGED, and SENSE_CONFLICT where a rise leaves
both sensors high (R74, R75). A change of every other cell of R74 for a channel in LIFTED, LOWERING, ENGAGED or LIFTING has no
effect (the four cells that act are the two faults here and the two ends of a motion of SensesEndAMotion), and a channel in OUT
or FAULTED ignores its sensors. That the pin record follows the level all the same, and that a level already held is no change,
is the model's reading (log entry 32). -/
def Obligations.SensorsFaultAChannel : Prop :=
  ∀ (s : State) (i : Station), s.pins.resetAsserted = false →
    ((s.chan i).state = .lifted → inSet s.pins.upSense i = true →
      ∃ t, exec (.stationSensorChange i .up false) s = .next t ∧ EntersFaulted s t i .upLost ∧
        t.pins = { s.pins with upSense := minusSet s.pins.upSense (oneSet i) }) ∧
    ((s.chan i).state = .engaged → inSet s.pins.downSense i = true →
      ∃ t, exec (.stationSensorChange i .down false) s = .next t ∧ EntersFaulted s t i .downLost ∧
        t.pins = { s.pins with downSense := minusSet s.pins.downSense (oneSet i) }) ∧
    ((s.chan i).state ≠ .out → (s.chan i).state ≠ .faulted → inSet s.pins.upSense i = false →
      inSet s.pins.downSense i = true →
      ∃ t, exec (.stationSensorChange i .up true) s = .next t ∧ EntersFaulted s t i .senseConflict ∧
        t.pins = { s.pins with upSense := addTo s.pins.upSense i }) ∧
    ((s.chan i).state ≠ .out → (s.chan i).state ≠ .faulted → inSet s.pins.upSense i = true →
      inSet s.pins.downSense i = false →
      ∃ t, exec (.stationSensorChange i .down true) s = .next t ∧ EntersFaulted s t i .senseConflict ∧
        t.pins = { s.pins with downSense := addTo s.pins.downSense i }) ∧
    ((s.chan i).state = .out ∨ (s.chan i).state = .faulted →
      ∀ k b, exec (.stationSensorChange i k b) s =
        .next (if sensorLevel s i k = b then s else setSensor s i k b)) ∧
    (∀ (k : Sensor) (b : Bool) (t : State), (s.chan i).state ≠ .out → (s.chan i).state ≠ .faulted → t = setSensor s i k b →
      (sensorLevel s i k = b → exec (.stationSensorChange i k b) s = .next s) ∧
      (sensorLevel s i k ≠ b → inSet t.pins.upSense i = false ∨ inSet t.pins.downSense i = false →
        ¬((s.chan i).state = .lifted ∧ k = .up ∧ b = false) → ¬((s.chan i).state = .lowering ∧ k = .down ∧ b = true) →
        ¬((s.chan i).state = .engaged ∧ k = .down ∧ b = false) → ¬((s.chan i).state = .lifting ∧ k = .up ∧ b = true) →
        exec (.stationSensorChange i k b) s = .next t)) ∧
    sensorLevel s i .up = inSet s.pins.upSense i ∧ sensorLevel s i .down = inSet s.pins.downSense i ∧
    setSensor s i .up true = { s with pins.upSense := addTo s.pins.upSense i } ∧
    setSensor s i .up false = { s with pins.upSense := minusSet s.pins.upSense (oneSet i) } ∧
    setSensor s i .down true = { s with pins.downSense := addTo s.pins.downSense i } ∧
    setSensor s i .down false = { s with pins.downSense := minusSet s.pins.downSense (oneSet i) }

/-- The actuation timer, once its interval has run out. Of a LOWERING channel it faults it with LOWER_TIMEOUT and raises no
hold cause (R72). Of a LIFTING channel it faults it with LIFT_TIMEOUT and raises FAULT with STATION_LIFT; if the set was empty,
the hold entry leaves no channel LOWERING or ENGAGED (R73, R77, R152). Stopped, or within its interval, it does not expire
(R65; log entry 3). -/
def Obligations.ActuationTimeoutsFaultTheChannel : Prop :=
  ∀ (s : State) (i : Station),
    (¬Due (s.chan i).timer s.prof.actuationTimeout s.clock → exec (.actuationTimerExpiry i) s = .next s) ∧
    (Due (s.chan i).timer s.prof.actuationTimeout s.clock → (s.chan i).state = .lowering →
      ∃ t, exec (.actuationTimerExpiry i) s = .next t ∧ EntersFaulted s t i .lowerTimeout ∧ t.pins = s.pins) ∧
    (Due (s.chan i).timer s.prof.actuationTimeout s.clock → (s.chan i).state = .lifting → lineOpen s = true →
      ∃ u t, EntersFaulted s u i .liftTimeout ∧ u.pins = s.pins ∧ RaisesFault u t .stationLift ∧
        exec (.actuationTimerExpiry i) s = .next t ∧
        t.chan i = { s.chan i with state := .faulted, reason := some .liftTimeout, pendingLower := false, timer := .stopped } ∧
        (s.lc.holds.any = false →
          t.lc.permit = false ∧ ∀ j, (t.chan j).state ≠ .lowering ∧ (t.chan j).state ≠ .engaged))

/-- LIFT_SET sets, and LIFT_CLEAR clears, the manual lift bit of exactly the operand's stations, in every channel state, and
sets CMD_DONE; nothing else changes at the command (R80, R171). -/
def Obligations.LiftCommandsWriteTheManualBits : Prop :=
  ∀ (s : State) (m : StationSet), Commandable s →
    (∃ t, exec (.liftSet m) s = .next t ∧
      (∀ i, t.chan i = { s.chan i with manual := inSet m i || (s.chan i).manual }) ∧
      t = { s with sc := t.sc, events.cmdDone := true }) ∧
    (∃ t, exec (.liftClear m) s = .next t ∧
      (∀ i, t.chan i = { s.chan i with manual := !inSet m i && (s.chan i).manual }) ∧
      t = { s with sc := t.sc, events.cmdDone := true })

/-- The lead point and the station point of a stretch. A station in service is due at a point's position (R66). At the lead
point the stretch needs it down by the four conditions of R67, its channel moves by the table of R68, and last required follows
the required set; at the station point PRESSURE follows the stretch, and a required station that is ENGAGED joins the printed
set (R76). A channel in OUT does neither. A closed stretch queues both thresholds at every station in service, each is met
once, and where the two fall together the station point is judged first (R66, R69). The stations meet their thresholds each on
its own: no other station, and no order among them, changes what one does (R69). The engaged indication follows the channels,
and its change starts or stops the standstill timer (R68, R150). That a lowering ends at once at a DOWN_SENSE
already high whatever UP_SENSE shows, and that a lift waits though UP_SENSE is high, is the model's reading (log entry 17). -/
def Obligations.LeadAndStationPointsMoveTheScreen : Prop :=
  ∀ (s : State) (i : Station) (x : Stretch) (requires need : Bool),
    (requires = true ↔ ∃ n r, x.serial = some n ∧ recordOfSerial s n = some r ∧ inSet r.required i = true) →
    (need = true ↔ requires = true ∧ (s.chan i).manual = false ∧ s.lc.holds.any = false ∧
      (s.chan i).state ≠ .faulted ∧ (s.chan i).state ≠ .out) →
    (stationDue s i = true ↔ (s.stationCfg i).inService = true ∧
      ((∃ y, (s.chan i).points.head? = some y ∧ y.start + (s.stationCfg i).distance ≤ s.wt.p) ∨
        ∃ y, (s.chan i).leads.head? = some y ∧
          (y.start : Int) + (s.stationCfg i).distance - (s.stationCfg i).lead ≤ s.wt.p)) ∧
    ((s.chan i).state = .out → evaluateLead s i x = s ∧ (evaluateLead s i x).chan i = s.chan i) ∧
    ((s.chan i).state ≠ .out → ∃ t, evaluateLead s i x = t ∧
      t = { s with sc := t.sc, lc := { s.lc with engaged := t.lc.engaged, standstill := t.lc.standstill } } ∧
      EngagedFollows s t ∧ (∀ j, j ≠ i → t.chan j = s.chan j) ∧
      ((s.chan i).state = .lifted → need = true → inSet s.pins.downSense i = false →
        t.chan i = { s.chan i with
          state := .lowering, pendingLower := false, lastRequired := true, timer := .running s.clock }) ∧
      ((s.chan i).state = .lifted → need = true → inSet s.pins.downSense i = true →
        t.chan i = { s.chan i with state := .engaged, pendingLower := false, lastRequired := true, timer := .stopped }) ∧
      ((s.chan i).state = .lowering ∨ (s.chan i).state = .engaged → need = false →
        t.chan i = { s.chan i with
          state := .lifting, pendingLower := false, lastRequired := requires, timer := .running s.clock }) ∧
      ((s.chan i).state = .lifting →
        t.chan i = { s.chan i with pendingLower := need, lastRequired := requires }) ∧
      ((s.chan i).state = .faulted ∨ (s.chan i).state = .lifted ∧ need = false ∨
          ((s.chan i).state = .lowering ∨ (s.chan i).state = .engaged) ∧ need = true →
        t.chan i = { s.chan i with lastRequired := requires })) ∧
    (∃ t, meetStationPoint s i x = t ∧
      t = { s with sc := t.sc, wt := { s.wt with map := t.wt.map } } ∧ (∀ j, j ≠ i → t.chan j = s.chan j) ∧
      ((s.chan i).state = .out → t.chan i = s.chan i) ∧
      ((s.chan i).state ≠ .out → ∃ level, t.chan i = { s.chan i with pressure := level } ∧
        (x.serial = none → level = 0#3) ∧
        ∀ n r, x.serial = some n → recordOfSerial s n = some r → level = r.pressure) ∧
      (x.serial = none ∨ (s.chan i).state ≠ .engaged ∨ requires = false → t.wt.map = s.wt.map) ∧
      (∀ (n k : Nat) (r : Segment), x.serial = some n → (s.chan i).state = .engaged → requires = true → s.wt.map[k]? = some r →
        r.serial = n → (∀ (j : Nat) (y : Segment), s.wt.map[j]? = some y → y.serial = n → j = k) →
        t.wt.map[k]? = some { r with printed := addTo r.printed i } ∧
          ∀ j : Nat, j ≠ k → t.wt.map[j]? = s.wt.map[j]?)) ∧
    (∃ t, addStretch s x = t ∧ t = { s with sc := t.sc } ∧
      ∀ j, t.chan j =
        if (s.stationCfg j).inService then
          { s.chan j with leads := (s.chan j).leads ++ [x], points := (s.chan j).points ++ [x] }
        else s.chan j) ∧
    ((s.stationCfg i).inService = false → meetStation s i = s) ∧
    (∀ u, (s.stationCfg i).inService = true →
      u = (match (s.chan i).points with
        | y :: rest =>
          if y.start + (s.stationCfg i).distance ≤ s.wt.p then
            meetStationPoint (s.setChan i { s.chan i with points := rest }) i y
          else s
        | [] => s) →
      meetStation s i = (match (s.chan i).leads with
        | z :: rest =>
          if z.start + (s.stationCfg i).distance ≤ s.wt.p + (s.stationCfg i).lead then
            evaluateLead (u.setChan i { u.chan i with leads := rest }) i z
          else u
        | [] => u)) ∧
    (∃ t, meetStations s = t ∧
      t = { s with
        sc := t.sc
        wt := { s.wt with map := t.wt.map }
        lc := { s.lc with engaged := t.lc.engaged, standstill := t.lc.standstill } } ∧
      (EngagedLaw s → EngagedLaw t) ∧
      (s.lc.engaged = false → t.lc.engaged = true → t.lc.standstill = .running s.clock) ∧
      (s.lc.engaged = true → t.lc.engaged = false → t.lc.standstill = .stopped) ∧
      (t.lc.standstill = s.lc.standstill ∨ t.lc.engaged = true ∧ t.lc.standstill = .running s.clock ∨
        t.lc.engaged = false ∧ t.lc.standstill = .stopped) ∧
      (∀ j, t.chan j = (meetStation s j).chan j) ∧ t.wt.map.length = s.wt.map.length ∧
      ∀ (k : Nat) (r : Segment), s.wt.map[k]? = some r → ∃ m, t.wt.map[k]? = some { r with printed := m } ∧
        ∀ j, ∃ r', (meetStation s j).wt.map[k]? = some r' ∧ inSet m j = inSet r'.printed j)

/-! ### Register phasing (Chapter 5) -/

/-- TRIM adds its delta to the trim, clamped to ±50,000 µm; a change drives the new target and puts the station in transit
until the later settle position; no other station changes (R86, R89, R90, R91). A settle position that a print advance has
reached becomes none (R91), and a reference switch that it reaches gives the stations at it the order's origin and the target of
R86; a switch stays while a station in service is still ahead of it (R87). What calls these on an advance is stated in
PrintAdvanceMovesTheBlanket. -/
def Obligations.TrimMovesTheOffset : Prop :=
  (∀ (s : State) (st : BitVec 5) (i : Station) (delta : BitVec 16) (v : Int), Commandable s → st.toNat = i.val + 1 →
    (s.stationCfg i).inService = true → v = max (-50000) (min ((s.phase i).trim + delta.toInt) 50000) →
    (v = (s.phase i).trim → exec (.trim st delta) s = .next { s with events.cmdDone := true }) ∧
    (v ≠ (s.phase i).trim →
      ∃ t, exec (.trim st delta) s = .next t ∧
        t.phase i = { s.phase i with
          trim := v
          target := targetOf
            ((s.wt.p : Int) - (s.phase i).origin - (s.stationCfg i).distance -
              ((s.phase i).base + v + (s.phase i).correction)) (s.stationCfg i).circumference
          settle := some (max ((s.phase i).settle.getD 0)
            (s.wt.p + (s.prof.readerDistance - (s.stationCfg i).distance) + s.prof.window)) } ∧
        (∀ j, j ≠ i → t.phase j = s.phase j) ∧
        t = { s with pu := { s.pu with stations := t.pu.stations }, events.cmdDone := true })) ∧
  ∀ s : State,
    (∃ t, meetSettles s = t ∧ t = { s with pu := { s.pu with stations := t.pu.stations } } ∧
      ∀ i, (∀ p, (s.phase i).settle = some p → p ≤ s.wt.p → t.phase i = { s.phase i with settle := none }) ∧
        ((s.phase i).settle = none ∨ (∃ p, (s.phase i).settle = some p ∧ s.wt.p < p) → t.phase i = s.phase i)) ∧
    ∃ t, meetSwitches s = t ∧
      t = { s with pu := { s.pu with stations := t.pu.stations, switches := t.pu.switches } } ∧
      (∀ i, (s.stationCfg i).inService = false ∨ (∀ o ∈ s.pu.switches, o + (s.stationCfg i).distance ≠ s.wt.p) →
        t.phase i = s.phase i) ∧
      (∀ i, ∀ o ∈ s.pu.switches, (s.stationCfg i).inService = true → o + (s.stationCfg i).distance = s.wt.p →
        t.phase i = { s.phase i with
          origin := o
          target := targetOf
            ((s.wt.p : Int) - o - (s.stationCfg i).distance -
              ((s.phase i).base + (s.phase i).trim + (s.phase i).correction)) (s.stationCfg i).circumference }) ∧
      t.pu.switches.Sublist s.pu.switches ∧
      ∀ o, o ∈ t.pu.switches ↔ o ∈ s.pu.switches ∧
        (s.wt.p < o ∨ ∃ i, (s.stationCfg i).inService = true ∧ s.wt.p < o + (s.stationCfg i).distance)

/-- What one error of an evaluation does at its station (R92): nothing in transit; a station of the join set is UNCAPTURED
first and leaves that set. An UNCAPTURED station is captured if |e| is within the capture limit, its correction lowered by the
whole error (R94), and otherwise posts CAPTURE_FAIL once per order (R95). A CAPTURED one takes the damped step of R96, or none.
Each stored correction follows R89, R91 and R97, also where the error
is 0 (log entry 18). -/
def Obligations.ErrorsCorrectTheirStation : Prop :=
  ∀ (s : State) (i : Station) (tag : Word) (index : Nat) (e : Int),
    ((s.phase i).settle.isSome = true ∨ s.pu.orders.find? (fun o => o.tag == tag) = none →
      correctStation tag index s (i, e) = s) ∧
    (∀ o u, s.pu.orders.find? (fun o => o.tag == tag) = some o → (s.phase i).settle = none →
      (s.stationCfg i).inService = true →
      (inSet o.join i = false → u = s) →
      (inSet o.join i = true → u = { s with
        pu := { s.pu with
          stations := u.pu.stations
          orders := modifyFirst (fun x => x.tag == tag) (fun x => { x with join := minusSet x.join (oneSet i) })
            s.pu.orders } } ∧
        u.phase i = { s.phase i with captured := false } ∧ ∀ j, j ≠ i → u.phase j = s.phase j) →
      ((u.phase i).captured = false → e.natAbs ≤ s.prof.captureLimit →
        ∃ v, v = { u with pu := { u.pu with stations := v.pu.stations } } ∧
          v.phase i = { u.phase i with captured := true } ∧ (∀ j, j ≠ i → v.phase j = u.phase j) ∧
          Corrects v (correctStation tag index s (i, e)) i tag ((s.phase i).correction - e) e) ∧
      ((u.phase i).captured = false → s.prof.captureLimit < e.natAbs → inSet o.captureFails i = true →
        correctStation tag index s (i, e) = u) ∧
      ((u.phase i).captured = false → s.prof.captureLimit < e.natAbs → inSet o.captureFails i = false →
        correctStation tag index s (i, e) = afterReport
          { u with pu.orders :=
              modifyFirst (fun x => x.tag == tag) (fun x => { x with captureFails := addTo x.captureFails i }) u.pu.orders }
          { kind := .captureFail, tag := tag, station := wordOfNat (i.val + 1),
            serial := wordOfNat (serialOr0 (recordUnder s s.prof.readerDistance)), clock := s.clock,
            first := wordOfInt e, second := wordOfNat index }) ∧
      ((u.phase i).captured = true → ∀ step : Int,
        step = max (-(s.prof.maxStep : Int)) (min ((e * s.prof.gain).tdiv 16) s.prof.maxStep) →
        (e.natAbs ≤ s.prof.deadband ∨ step = 0 → correctStation tag index s (i, e) = u) ∧
        (s.prof.deadband < e.natAbs → step ≠ 0 →
          Corrects u (correctStation tag index s (i, e)) i tag ((s.phase i).correction - step) e)))

/-! ### The mark reader (Chapter 6) -/

/-- An edge while the reader is OPEN finds the current entry at P − P_o − D_M, and the reader evaluates it; in IDLE and
EVALUATING, and under the RESET pin, an edge is ignored (R104, R106). At its closing position the OPEN entry is missed (R106).
At its opening position a WAITING entry is DROPPED, opened or SKIPPED, the oldest schedule's entries first, and a repeat is
evaluated as soon as its last entry settles (R105, R107). A build point makes the schedule of a repeat that starts before the
order's end, if the list has room, and a cursor without such a repeat is removed (R102, R103); the key station is the
lowest-numbered of the set (R102). What calls these on a print advance is stated in PrintAdvanceMovesTheBlanket. -/
def Obligations.EdgeFindsTheOpenWindow : Prop :=
  ∀ s : State,
    (∀ (c : CurrentEntry) (sch : Schedule), s.pins.resetAsserted = false → s.mr.reader = .opened →
      s.mr.current = some c → scheduleOf s c.tag c.index = some sch →
      ∃ t, exec .markEdge s = .next t ∧
        (scheduleOf t c.tag c.index).bind (fun x => entryOf x c.station) =
          (entryOf sch c.station).map (fun e =>
            { e with state := .evaluating, measured := some ((s.wt.p : Int) - sch.origin - s.prof.readerDistance) }) ∧
        (∀ e, entryOf sch c.station = some e → EntryBecomes s t sch c.station
          { e with state := .evaluating, measured := some ((s.wt.p : Int) - sch.origin - s.prof.readerDistance) }) ∧
        t = { s with
          mr := { s.mr with schedules := t.mr.schedules, reader := .evaluating, timer := .running s.clock } }) ∧
    (s.pins.resetAsserted = true ∨ s.mr.reader ≠ .opened → exec .markEdge s = .next s) ∧
    ((closingNow s = true ↔ s.mr.reader = .opened ∧ ∃ c sch e, s.mr.current = some c ∧
        scheduleOf s c.tag c.index = some sch ∧ entryOf sch c.station = some e ∧ e.closesAt ≤ (s.wt.p : Int)) ∧
      (closingNow s = false → meetClosing s = s) ∧
      ∀ c sch e, s.mr.reader = .opened → s.mr.current = some c → scheduleOf s c.tag c.index = some sch →
        entryOf sch c.station = some e → e.closesAt ≤ (s.wt.p : Int) →
        ∃ t, meetClosing s = t ∧ EntryBecomes s t sch c.station { e with state := .evaluating, measured := none } ∧
          t = { s with
            mr := { s.mr with schedules := t.mr.schedules, reader := .evaluating, timer := .running s.clock } }) ∧
    ((∀ sch e, (sch, e) ∈ openingsHere s ↔
        sch ∈ s.mr.schedules ∧ e ∈ sch.entries ∧ e.state = .waiting ∧ e.opensAt ≤ (s.wt.p : Int)) ∧
      (openingsHere s).Sublist (s.mr.schedules.flatMap fun sch => sch.entries.map fun e => (sch, e)) ∧
      meetOpenings s = (openingsHere s).foldl (fun t x => testOpening t x.1 x.2) s) ∧
    (∀ (sch now : Schedule) (e x : ScheduleEntry) (printed : Bool), scheduleOf s sch.tag sch.index = some now →
      entryOf now e.station = some x →
      (printed = true ↔ ∃ r, 0 ≤ (sch.origin : Int) + e.predicted ∧
        recordAt s ((sch.origin : Int) + e.predicted).toNat = some r ∧ r.tag = sch.tag ∧
        inSet r.printed e.station = true) →
      (printed = false → ∃ u, EntryBecomes s u now e.station { x with state := .dropped } ∧
        u = { s with mr := { s.mr with schedules := u.mr.schedules } } ∧
        testOpening s sch e = evaluateIfComplete u sch.tag sch.index) ∧
      (printed = true → s.mr.reader = .idle → ∃ u, EntryBecomes s u now e.station { x with state := .opened } ∧
        u = { s with mr := { s.mr with
          schedules := u.mr.schedules
          reader := .opened
          current := some { tag := sch.tag, index := sch.index, station := e.station } } } ∧
        testOpening s sch e = u) ∧
      (printed = true → s.mr.reader ≠ .idle → ∃ u, EntryBecomes s u now e.station { x with state := .skipped } ∧
        u = { s with mr := { s.mr with schedules := u.mr.schedules } } ∧
        testOpening s sch e = evaluateIfComplete u sch.tag sch.index)) ∧
    (∀ tag index,
      (scheduleOf s tag index = none → evaluateIfComplete s tag index = s) ∧
      ∀ sch, scheduleOf s tag index = some sch →
        ((∀ x ∈ sch.entries, x.state = .found ∨ x.state = .missed ∨ x.state = .skipped ∨ x.state = .dropped) →
          evaluateIfComplete s tag index = evaluateRepeat s sch) ∧
        ((∃ x ∈ sch.entries, x.state = .waiting ∨ x.state = .opened ∨ x.state = .evaluating) →
          evaluateIfComplete s tag index = s)) ∧
    (∀ (m : StationSet) (i : Station), keyOf m = some i ↔ inSet m i = true ∧ ∀ j, j < i → inSet m j = false) ∧
    meetBuilds s = s.mr.cursors.foldl meetBuild s ∧
    ∀ c : Cursor,
      (buildNow s c = true ↔ c.origin + c.index * c.length + s.prof.readerDistance ≤
        s.wt.p + (s.prof.window + s.prof.correctionRange + 10000)) ∧
      (repeatBegins s c = true ↔ ∃ r, s.os.table.find? (fun r => r.order.tag == c.tag) = some r ∧
        c.origin + c.index * c.length < r.finish) ∧
      (buildNow s c = false → meetBuild s c = s) ∧
      (buildNow s c = true → repeatBegins s c = false →
        meetBuild s c = { s with mr.cursors := s.mr.cursors.filter fun x => x.tag != c.tag }) ∧
      (∀ u, buildNow s c = true → repeatBegins s c = true →
        u = { s with
          mr.cursors := modifyFirst (fun x => x.tag == c.tag) (fun x => { x with index := x.index + 1 }) s.mr.cursors } →
        (8 ≤ s.mr.schedules.length → meetBuild s c = u) ∧
        (s.mr.schedules.length < 8 →
          meetBuild s c = evaluateIfComplete { u with mr.schedules := s.mr.schedules ++ [buildSchedule s c] } c.tag c.index)) ∧
      ∃ es, buildSchedule s c = { tag := c.tag, origin := c.origin, length := c.length, key := c.key, index := c.index,
                                  entries := es } ∧
        es.Pairwise (fun a b => a.predicted < b.predicted ∨ a.predicted = b.predicted ∧ a.station < b.station) ∧
        ∀ e, e ∈ es ↔ inSet c.set e.station = true ∧ (s.phase e.station).settle = none ∧
          e.intended = (c.index * c.length : Nat) + ((s.stationCfg e.station).markOffset : Int) +
            (s.phase e.station).base + (s.phase e.station).trim ∧
          e.predicted = e.intended + (s.phase e.station).correction ∧
          e.opensAt = c.origin + e.predicted - s.prof.window + s.prof.readerDistance ∧
          e.closesAt = c.origin + e.predicted + s.prof.window + s.prof.readerDistance ∧
          e.state = (if e.opensAt ≤ (s.wt.p : Int) then .skipped else .waiting) ∧ e.measured = none

/-- The evaluation timer, once its interval has run out, settles the current entry: a found one clears its station's miss count,
a missed one raises it or, at the miss limit, clears it; the reader is IDLE and its timer stopped (R107). The repeat is then
evaluated if its last entry has settled (R107; RepeatsAreEvaluated). A miss sets the register defect on exactly the records of
the order that overlap the repeat; at the miss limit the station becomes UNCAPTURED, its phase otherwise as it was, and
MARK_LOST is posted, with the serial of the predicted fabric or 0 (R108). Stopped, or within its interval in whole ms, the timer
does not expire (log entry 3). -/
def Obligations.EvaluationTimerSettlesTheReading : Prop :=
  ∀ (s : State),
    (¬Due s.mr.timer (s.prof.evaluationTime / 1000) s.clock → exec .evaluationTimerExpiry s = .next s) ∧
    (∀ (c : CurrentEntry) (sch : Schedule) (e : ScheduleEntry), Due s.mr.timer (s.prof.evaluationTime / 1000) s.clock →
      s.mr.current = some c → scheduleOf s c.tag c.index = some sch → entryOf sch c.station = some e →
      ∃ t, exec .evaluationTimerExpiry s = .next t ∧ Undisturbed s t ∧
        (t.mr.reader = .idle ∧ t.mr.current = none ∧ t.mr.timer = .stopped ∧ t.mr.cursors = s.mr.cursors) ∧
        (∀ j, j ≠ c.station → t.mr.misses.get j = s.mr.misses.get j) ∧
        (e.measured.isSome = true → t.mr.misses.get c.station = 0) ∧
        (e.measured = none → s.mr.misses.get c.station + 1 < s.prof.missLimit →
          t.mr.misses.get c.station = s.mr.misses.get c.station + 1) ∧
        (e.measured = none → s.prof.missLimit ≤ s.mr.misses.get c.station + 1 → t.mr.misses.get c.station = 0) ∧
        ∃ u w z now,
          EntryBecomes s u sch c.station { e with state := if e.measured.isSome then .found else .missed } ∧
          u = { s with mr := { s.mr with schedules := u.mr.schedules } } ∧ scheduleOf u c.tag c.index = some now ∧
          (e.measured.isSome = true → w = { u with mr := { u.mr with misses := w.mr.misses } } ∧
            w.mr.misses.get c.station = 0 ∧ ∀ j, j ≠ c.station → w.mr.misses.get j = s.mr.misses.get j) ∧
          (e.measured = none → w = missEntry u sch e) ∧
          z = { w with mr := { w.mr with reader := .idle, current := none, timer := .stopped } } ∧
          ((∀ x ∈ now.entries, x.state = .found ∨ x.state = .missed ∨ x.state = .skipped ∨ x.state = .dropped) →
            t = evaluateRepeat z now) ∧
          ((∃ x ∈ now.entries, x.state = .waiting ∨ x.state = .opened ∨ x.state = .evaluating) → t = z)) ∧
    (∀ (sch : Schedule) (e : ScheduleEntry),
      ((missEntry s sch e).wt.map = s.wt.map.map fun r =>
        if r.tag = sch.tag ∧ r.start < sch.origin + (sch.index + 1) * sch.length ∧
            sch.origin + sch.index * sch.length < r.pEnd then { r with registerDefect := true }
        else r) ∧
      (s.mr.misses.get e.station + 1 < s.prof.missLimit → (missEntry s sch e).pu = s.pu ∧ (missEntry s sch e).xi = s.xi) ∧
      (s.prof.missLimit ≤ s.mr.misses.get e.station + 1 →
        (missEntry s sch e).phase e.station = { s.phase e.station with captured := false } ∧
          (∀ j, j ≠ e.station → (missEntry s sch e).phase j = s.phase j) ∧
          (missEntry s sch e).xi = xiAfterReport s
            { kind := .markLost, tag := sch.tag, station := wordOfNat (e.station.val + 1),
              serial := wordOfNat
                (if (sch.origin : Int) + e.predicted < 0 then 0
                else serialOr0 (recordAt s ((sch.origin : Int) + e.predicted).toNat))
              clock := s.clock, first := wordOfNat sch.index, second := wordOfNat s.prof.missLimit }) ∧
      ∃ t, missEntry s sch e = t ∧ t.mr = { s.mr with misses := t.mr.misses } ∧
        t.mr.misses.get e.station =
          (if s.mr.misses.get e.station + 1 < s.prof.missLimit then s.mr.misses.get e.station + 1 else 0) ∧
        (∀ j, j ≠ e.station → t.mr.misses.get j = s.mr.misses.get j) ∧
        t = { s with
          wt := { s.wt with map := t.wt.map }
          mr := t.mr
          pu := { s.pu with stations := t.pu.stations }
          xi := t.xi
          events := if s.mr.misses.get e.station + 1 < s.prof.missLimit then s.events else eventsAfterReport s
          draws := if s.mr.misses.get e.station + 1 < s.prof.missLimit then s.draws else s.draws + 1 })

/-- A repeat evaluation (R109, R110, R111): the relative errors of the FOUND stations against the key's deviation; without it no
error and no effect but the schedule's end; with it, a register defect on the records of the repeat if an error is above the
tolerance, the errors of the stations other than the key to PU, the worst error raised, the lower station winning a tie, and a
PROOF above its tolerance failed once, with its ORDER cause, its proof end and the next order barred (R42, R46). The order of
those hand-offs is the model's choice (log entry 8). -/
def Obligations.RepeatsAreEvaluated : Prop :=
  ∀ (s : State) (sch : Schedule),
    (∀ d, keyDeviation sch = some d ↔ ∃ i e x, sch.key = some i ∧ entryOf sch i = some e ∧ e.state = .found ∧
      e.measured = some x ∧ d = x - e.intended) ∧
    (∀ dKey,
      (∀ i err, (i, err) ∈ relativeErrors sch dKey ↔ ∃ e x, entryOf sch i = some e ∧ e.state = .found ∧
        e.measured = some x ∧ err = x - e.intended - dKey) ∧
      (relativeErrors sch dKey).Pairwise fun a b => a.1 < b.1) ∧
    (∀ errors : List (Station × Int), (errors.Pairwise fun a b => a.1 < b.1) →
      (worstOf errors = none ↔ errors = []) ∧
      ∀ i w, worstOf errors = some (i, w) → (∃ e, (i, e) ∈ errors ∧ e.natAbs = w) ∧
        ∀ j e, (j, e) ∈ errors → e.natAbs < w ∨ e.natAbs = w ∧ i ≤ j) ∧
    (keyDeviation sch = none → evaluateRepeat s sch =
      { s with mr.schedules := s.mr.schedules.filter fun x => !(x.tag == sch.tag && x.index == sch.index) }) ∧
    (∀ d errors worst t, keyDeviation sch = some d → errors = relativeErrors sch d → worst = worstOf errors →
      t = (errors.filter fun e => some e.1 != sch.key).foldl (correctStation sch.tag sch.index) (checkTolerance s sch errors) →
      ∃ u, u = compareProof (raiseWorst t sch.tag worst) sch.tag sch.index worst ∧
        evaluateRepeat s sch =
          { u with mr.schedules := u.mr.schedules.filter fun x => !(x.tag == sch.tag && x.index == sch.index) }) ∧
    (∀ errors, checkTolerance s sch errors =
      if ∃ e ∈ errors, s.prof.tolerance < e.2.natAbs then
        { s with wt.map := s.wt.map.map fun r =>
            if r.tag = sch.tag ∧ r.start < sch.origin + (sch.index + 1) * sch.length ∧
                sch.origin + sch.index * sch.length < r.pEnd then { r with registerDefect := true }
            else r }
      else s) ∧
    (∀ r i w, s.os.table.find? (fun x => x.order.tag == sch.tag) = some r →
      s.os.table.find? (fun x => x.slot == r.slot) = some r →
      (w ≤ r.worst → raiseWorst s sch.tag (some (i, w)) = s) ∧
      (r.worst < w → ∃ t, raiseWorst s sch.tag (some (i, w)) = t ∧
        t = { s with os := { s.os with table := t.os.table } } ∧
        t.os.table.find? (fun x => x.slot == r.slot) = some { r with worst := w, worstStation := i.val + 1 }) ∧
      (r.order.kind ≠ .proof ∨ r.proofFailure.isSome = true ∨ w ≤ r.order.tolerance →
        compareProof s sch.tag sch.index (some (i, w)) = s) ∧
      (r.order.kind = .proof → r.proofFailure = none → r.order.tolerance < w → lineOpen s = true →
        ∃ t r', compareProof s sch.tag sch.index (some (i, w)) = t ∧ t.lc.line = s.lc.line ∧
          t.lc.holds = { s.lc.holds with order := true } ∧
          t.os.table.find? (fun x => x.slot == r.slot) = some r' ∧
          r' = { r with proofFailure := some (sch.index, i), proofEnd := r'.proofEnd, finish := r'.finish } ∧
          (s.os.entry = some r.slot → r.ended = false → t.os.status = .barred ∧ t.os.copy = none ∧
            (∀ x ∈ t.xi.queue, isOrderRead x = false) ∧ t.xi.inHand = s.xi.inHand.map discardInHand ∧
            r'.proofEnd = some (boundaryAfter r.origin r.order.length s.wt.p) ∧
            r'.finish = (if s.wt.p < r.finish then leastEnd r' else r.finish)) ∧
          (s.os.entry ≠ some r.slot ∨ r.ended = true →
            r'.proofEnd = r.proofEnd ∧ r'.finish = r.finish ∧ t.os.status = s.os.status ∧ t.os.copy = s.os.copy)))

/-! ### Cure (Chapter 7) -/

/-- The cure rate of a page of two or more points, T strictly increasing and r not decreasing: the clamps, the points, the
interpolation, and the law of the curve (R119). -/
def Obligations.CureRateFollowsTheCurve : Prop :=
  ∀ (page : List (Nat × Nat)) (first last : Nat × Nat) (t : Nat), 2 ≤ page.length → page.head? = some first →
    page.getLast? = some last → page.Pairwise (fun a b => a.1 < b.1 ∧ a.2 ≤ b.2) →
    (t ≤ first.1 → cureRate page t = first.2) ∧
    (last.1 ≤ t → cureRate page t = last.2) ∧
    (∀ (i : Nat) (a : Nat × Nat), page[i]? = some a → t = a.1 → cureRate page t = a.2) ∧
    (∀ (i : Nat) (a b : Nat × Nat), page[i]? = some a → page[i + 1]? = some b → a.1 < t → t < b.1 →
      cureRate page t = a.2 + (b.2 - a.2) * (t - a.1) / (b.1 - a.1)) ∧
    first.2 ≤ cureRate page t ∧ cureRate page t ≤ last.2 ∧
    ((∀ a ∈ page, a.2 ≤ 10000) → cureRate page t ≤ 10000)

/-- Frames of the zone link: a sample is clamped to 3000 and makes its zone FRESH, a fault frame makes a FRESH zone STALE,
each change with its report; corrupt frames, frames of other zone numbers and frames outside READY and PRINTING change
nothing (R115, R116, R117). The stale timer, once the stale limit has run out, makes its zone STALE with ZONE_STALE, keeping
its temperature; stopped, or restarted within its limit, it does not expire (R116, R117; log entry 3). -/
def Obligations.ZonesFollowFramesAndTimer : Prop :=
  ∀ s : State,
    (∀ n : BitVec 8,
      (∀ (z : Zone) (x : BitVec 16), takesEvents s = true → n.toNat = z.val + 1 → n.toNat ≤ s.prof.zones.length →
        exec (.zoneFrame n (.sample x)) s = .next
          (if (s.zone z).fresh = true then
            s.setZone z { temperature := min x.toNat 3000, fresh := true, timer := .running s.clock }
          else
            afterReport (s.setZone z { temperature := min x.toNat 3000, fresh := true, timer := .running s.clock })
              { kind := .zoneFresh, tag := 0#32, station := wordOfNat (z.val + 1), serial := 0#32, clock := s.clock,
                first := wordOfNat (min x.toNat 3000), second := if 3000 < x.toNat then 1#32 else 0#32 }) ∧
        exec (.zoneFrame n .sensorFault) s = .next
          (if (s.zone z).fresh = true then
            afterReport (s.setZone z { s.zone z with fresh := false, timer := .stopped })
              { kind := .zoneStale, tag := 0#32, station := wordOfNat (z.val + 1), serial := 0#32, clock := s.clock,
                first := 1#32, second := wordOfNat (s.zone z).temperature }
          else s)) ∧
      (takesEvents s = false ∨ n = 0#8 ∨ s.prof.zones.length < n.toNat → ∀ load, exec (.zoneFrame n load) s = .next s) ∧
      exec (.zoneFrame n .corrupt) s = .next s) ∧
    ∀ z : Zone,
      (¬Due (s.zone z).timer s.prof.staleLimit s.clock → exec (.staleTimerExpiry z) s = .next s) ∧
      (Due (s.zone z).timer s.prof.staleLimit s.clock →
        exec (.staleTimerExpiry z) s = .next
          (afterReport (s.setZone z { s.zone z with fresh := false, timer := .stopped })
            { kind := .zoneStale, tag := 0#32, station := wordOfNat (z.val + 1), serial := 0#32, clock := s.clock,
              first := 0#32, second := wordOfNat (s.zone z).temperature }))

/-- An expiry of the dose interval Δ = 2^k ms integrates every OVEN record whose centre lies in a zone, and no other: dose,
peak, stale flag and overcure flag (R114, R121, R123); the next interval began a whole number of Δ after this one (R120). Before
Δ has run out, or stopped, the timer does not expire (log entry 3). -/
def Obligations.DoseIntervalIntegratesTheOven : Prop :=
  ∀ s : State,
    (¬Due s.ci.doseTimer (2 ^ s.prof.doseExponent) s.clock → exec .doseIntervalExpiry s = .next s) ∧
    (∀ since, s.ci.doseTimer = .running since → 2 ^ s.prof.doseExponent ≤ (s.clock - since).toNat →
      ∃ t, exec .doseIntervalExpiry s = .next t ∧ Undisturbed s t ∧
        (∃ n, 0 < n ∧ t.ci.doseTimer = .running (since + wordOfNat (n * 2 ^ s.prof.doseExponent)) ∧
          n * 2 ^ s.prof.doseExponent ≤ (s.clock - since).toNat ∧
          (s.clock - since).toNat < (n + 1) * 2 ^ s.prof.doseExponent) ∧
        t.ci.zones = s.ci.zones ∧ { t.wt with map := s.wt.map } = s.wt ∧ t.wt.map.length = s.wt.map.length ∧
        ∀ (k : Nat) (r : Segment), s.wt.map[k]? = some r →
          (∀ z, r.pEnd + s.wt.k ≤ s.wt.q → s.wt.q < r.pEnd + s.wt.k + s.prof.ovenLength →
            zoneAt s (s.wt.q - (r.pEnd + s.wt.k) + r.length / 2) = some z →
            t.wt.map[k]? = some { r with
              dose := min
                (r.dose + cureRate (pageInUse s.prof r.page) (s.zone z).temperature * 2 ^ s.prof.doseExponent) 4294967295
              peak := max r.peak (s.zone z).temperature
              stale := r.stale || !(s.zone z).fresh
              overcure := r.overcure || decide (r.dMax * 1000 < min
                (r.dose + cureRate (pageInUse s.prof r.page) (s.zone z).temperature * 2 ^ s.prof.doseExponent)
                4294967295) }) ∧
          (s.wt.q < r.pEnd + s.wt.k ∨ r.pEnd + s.wt.k + s.prof.ovenLength ≤ s.wt.q ∨
            zoneAt s (s.wt.q - (r.pEnd + s.wt.k) + r.length / 2) = none → t.wt.map[k]? = some r))

/-- The zone of an oven distance (R114), the page in use (R118), and OVERCURE_ALERT: a record with a slot whose dose newly
passes its D_max posts it and sets the slot's alert flag, unless that is set (R123, R124). An expiry takes the records oldest
first. -/
def Obligations.OvercureAlertsOncePerOrder : Prop :=
  ∀ s : State,
    (∀ (c : Nat) (z : Zone), zoneAt s c = some z ↔
      (∃ a b, s.prof.zones[z.val]? = some (a, b) ∧ a ≤ c ∧ c < b) ∧
        ∀ y, y < z → ∀ a b, s.prof.zones[y.val]? = some (a, b) → c < a ∨ b ≤ c) ∧
    (∀ p : Page, (2 ≤ (s.prof.pages.get p).length → pageInUse s.prof p = s.prof.pages.get p) ∧
      ((s.prof.pages.get p).length < 2 → pageInUse s.prof p = s.prof.pages.get 7)) ∧
    (Due s.ci.doseTimer (2 ^ s.prof.doseExponent) s.clock → ∃ t u, exec .doseIntervalExpiry s = .next t ∧
      u = s.wt.map.foldl alertFor s ∧ t = { u with wt := t.wt, ci.doseTimer := t.ci.doseTimer }) ∧
    (∀ (r : Segment) (z : Zone) (i : Slot) (dose : Nat), r.pEnd + s.wt.k ≤ s.wt.q →
      s.wt.q < r.pEnd + s.wt.k + s.prof.ovenLength → zoneAt s (s.wt.q - (r.pEnd + s.wt.k) + r.length / 2) = some z →
      r.slot = some i →
      dose = min (r.dose + cureRate (pageInUse s.prof r.page) (s.zone z).temperature * 2 ^ s.prof.doseExponent) 4294967295 →
      (r.overcure = false → r.dMax * 1000 < dose → s.ci.alerts.getLsbD i.val = false →
        ∃ u, u = { s with ci.alerts := u.ci.alerts } ∧
          (∀ j : Slot, u.ci.alerts.getLsbD j.val = (s.ci.alerts.getLsbD j.val || decide (j = i))) ∧
          alertFor s r = afterReport u
            { kind := .overcureAlert, tag := r.tag, station := wordOfNat (z.val + 1), serial := wordOfNat r.serial,
              clock := s.clock, first := wordOfNat (dose / 1000), second := wordOfNat r.dMax }) ∧
      (r.overcure = true ∨ dose ≤ r.dMax * 1000 ∨ s.ci.alerts.getLsbD i.val = true → alertFor s r = s)) ∧
    (∀ r : Segment, r.slot = none ∨ s.wt.q < r.pEnd + s.wt.k ∨ r.pEnd + s.wt.k + s.prof.ovenLength ≤ s.wt.q ∨
      zoneAt s (s.wt.q - (r.pEnd + s.wt.k) + r.length / 2) = none → alertFor s r = s)

/-- The setback timer, once the setback delay has run out, asserts SETBACK with SETBACK_ON and stops; stopped, or restarted
within its delay, it does not expire (R126, R127; log entry 3; a Q above 2^32 − 1 mm: log entry 35). -/
def Obligations.SetbackTimerAssertsSetback : Prop :=
  ∀ s : State,
    (¬Due s.ci.setbackTimer (s.prof.setbackDelay * 1000) s.clock → exec .setbackTimerExpiry s = .next s) ∧
    (Due s.ci.setbackTimer (s.prof.setbackDelay * 1000) s.clock →
      exec .setbackTimerExpiry s = .next
        (afterReport { s with ci.setback := true, ci.setbackStart := s.clock, ci.setbackTimer := .stopped }
          { kind := .setbackOn, tag := 0#32, station := 0#32, serial := 0#32, clock := s.clock,
            first := wordOfNat (s.wt.q / 1000), second := wordOfNat (s.wt.map.filter (inOven s)).length }))

/-! ### Close-out (section 1.6, Chapter 8) -/

/-- The verdict of an exiting segment and what it counts for: the defect set of R133; step 4, the counts in the record of its
order, found by slot and tag (R138); step 5, the five rows of R140, with DEFECT_RUN as R141 gives it. -/
def Obligations.ExitIsJudgedAndCounted : Prop :=
  (∀ r : Segment,
    ((defectsOf r).missingColour = true ↔ ∃ i, inSet r.required i = true ∧ inSet r.printed i = false) ∧
    ((defectsOf r).stopMark = true ↔ ∃ i, inSet r.stopMarks i = true) ∧
    (defectsOf r).register = r.registerDefect ∧ (defectsOf r).seam = r.seam ∧
    ((defectsOf r).undercured = true ↔ r.dose < r.dMin * 1000) ∧ (defectsOf r).overcured = r.overcure ∧
    (defectsOf r).unverified = r.stale) ∧
  ∀ (s : State) (r : Segment) (d : DefectSet),
    (r.slot = none → tallySegment s r d = s) ∧
    (∀ (i : Slot) (x : InFlight), r.slot = some i →
      s.os.table.find? (fun y => y.slot == i && y.order.tag == r.tag) = some x →
      (tallySegment s r d).os.table.find? (fun y => y.slot == i && y.order.tag == r.tag) = some { x with
        segments := min (x.segments + 1) 4294967295
        accepted := if d.any then x.accepted else min (x.accepted + 1) 4294967295
        classes :=
          { missingColour := if d.missingColour then min (x.classes.missingColour + 1) 4294967295 else x.classes.missingColour
            stopMark := if d.stopMark then min (x.classes.stopMark + 1) 4294967295 else x.classes.stopMark
            register := if d.register then min (x.classes.register + 1) 4294967295 else x.classes.register
            seam := if d.seam then min (x.classes.seam + 1) 4294967295 else x.classes.seam
            undercured := if d.undercured then min (x.classes.undercured + 1) 4294967295 else x.classes.undercured
            overcured := if d.overcured then min (x.classes.overcured + 1) 4294967295 else x.classes.overcured
            unverified := if d.unverified then min (x.classes.unverified + 1) 4294967295 else x.classes.unverified } }) ∧
    (s.co.run = none → d.any = false → followRun s r d = s) ∧
    (s.co.run = none → d.any = true →
      followRun s r d = { s with
        co.run := some { slot := r.slot, tag := r.tag, firstSerial := r.serial, count := 1, defects := d } }) ∧
    (∀ run, s.co.run = some run →
      (d.any = true → run.defects = d → run.slot = r.slot → run.tag = r.tag →
        followRun s r d = { s with co.run := some { run with count := min (run.count + 1) 4294967295 } }) ∧
      (d.any = false ∨ ¬(run.defects = d ∧ run.slot = r.slot ∧ run.tag = r.tag) →
        followRun s r d = { afterReport s
          { kind := .defectRun, tag := run.tag, station := 0#32, serial := wordOfNat run.firstSerial, clock := s.clock,
            first := wordOfNat run.count, second := wordOfNat run.defects.mask } with
          co.run :=
            if d.any then some { slot := r.slot, tag := r.tag, firstSerial := r.serial, count := 1, defects := d }
            else none }))

/-- CLOSE_OUT takes the oldest record if it has exited and no close-out is under way: its verdict is settled and its quality
map write handed to the exchange interface (R17, R135, R158, R183); during a suspension the write is skipped and the oldest
record leaves at once (R136); otherwise nothing happens. A record leaves, here or at the last access of its write
(AccessesMoveTheirWord), counted into its order and the defect run (R17, R138, R140; ExitIsJudgedAndCounted); with the last
exited one the Order Sequencer has the exit horizon, none while it is negative (R18). -/
def Obligations.CloseOutSettlesTheOldestExit : Prop :=
  ∀ s : State,
    (∀ (r : Segment) (rest : List Segment), s.co.waiting = none → s.wt.map = r :: rest → exited s r = true →
      s.xi.suspended = false →
      exec .closeOut s = .next { s with
        wt.map := { r with verdict := some (defectsOf r) } :: rest
        co.waiting := some r.serial
        xi.queue := s.xi.queue ++ [.mapWrite r.serial
          [0#32, r.tag, wordOfNat (r.printed.toNat + r.peak * 65536),
           wordOfNat (r.dose / 1000 + (defectsOf r).mask * 8388608), wordOfNat r.serial]] }) ∧
    (∀ (r : Segment) (rest : List Segment), s.co.waiting = none → s.wt.map = r :: rest → exited s r = true →
      s.xi.suspended = true →
      ∃ t, exec .closeOut s = .next t ∧ Undisturbed s t ∧ t.xi.queue = s.xi.queue ∧ t.co.waiting = none ∧
        t.wt.map = rest ∧
        t = finishExit { s with wt.map := { r with verdict := some (defectsOf r) } :: rest } r.serial) ∧
    (s.co.waiting.isSome = true ∨ s.wt.map = [] ∨ (∃ r rest, s.wt.map = r :: rest ∧ exited s r = false) →
      exec .closeOut s = .next s) ∧
    ∀ n : Nat,
      (∀ r rest d v w, s.wt.map = r :: rest → r.serial = n → d = r.verdict.getD (defectsOf r) →
        v = followRun (tallySegment s r d) r d → w = { v with wt.map := rest, co.waiting := none } →
        ((∃ x, rest.head? = some x ∧ exited s x = true) → finishExit s n = w) ∧
        (∀ X : Int, (∀ x, rest.head? = some x → exited s x = false) →
          X = (s.wt.q : Int) - s.wt.k - s.prof.ovenLength →
          (X < 0 → finishExit s n = w) ∧
          (0 ≤ X → finishExit s n = testClose { w with wt.horizon := some X.toNat }))) ∧
      (s.wt.map = [] ∨ (∃ r, s.wt.map.head? = some r ∧ r.serial ≠ n) →
        finishExit s n = { s with co.waiting := none })

/-! ### Holds and faults (Chapter 9) -/

/-- HOLD raises HOST (R153), and the standstill timer, once the standstill time has run out, stops and raises STANDSTILL (R150);
if the set was empty either is a hold entry (R146). Stopped, or within its time, the timer does not expire (log entry 3), and
outside READY and PRINTING no cause is raised (R145). -/
def Obligations.HoldAndStandstillRaiseTheirCause : Prop :=
  ∀ s : State,
    (Commandable s →
      (s.lc.holds.any = true →
        exec .hold s = .next { s with lc.holds := { s.lc.holds with host := true }, events.cmdDone := true }) ∧
      (s.lc.holds.any = false →
        ∃ t, exec .hold s = .next { t with events.cmdDone := true } ∧ EntersHold s t { host := true } none)) ∧
    (¬Due s.lc.standstill s.prof.standstillTime s.clock → exec .standstillTimerExpiry s = .next s) ∧
    (Due s.lc.standstill s.prof.standstillTime s.clock →
      (lineOpen s = false → exec .standstillTimerExpiry s = .next { s with lc.standstill := .stopped }) ∧
      (lineOpen s = true → s.lc.holds.any = true →
        exec .standstillTimerExpiry s = .next
          { s with lc.standstill := .stopped, lc.holds := { s.lc.holds with standstill := true } }) ∧
      (lineOpen s = true → s.lc.holds.any = false →
        ∃ t, exec .standstillTimerExpiry s = .next t ∧
          EntersHold { s with lc.standstill := .stopped } t { standstill := true } none))

/-- RESUME clears HOST, ORDER and STANDSTILL and leaves FESTOON and FAULT; emptying the set is a hold exit, with HOLD_OFF and
the permit (R147, R153). -/
def Obligations.ResumeClearsTheHostCauses : Prop :=
  ∀ s : State, Commandable s →
    (s.lc.holds.festoon = true ∨ s.lc.holds.fault = true ∨ s.lc.holds.any = false →
      exec .resume s = .next { s with
        lc.holds := { s.lc.holds with host := false, order := false, standstill := false }
        events.cmdDone := true }) ∧
    (s.lc.holds.any = true → s.lc.holds.festoon = false → s.lc.holds.fault = false →
      exec .resume s = .next { s with
        lc := { s.lc with holds := {}, permit := true }
        xi := xiAfterReport s
          { kind := .holdOff, tag := entryTag s, station := 0#32, serial := wordOfNat s.wt.nextSerial, clock := s.clock,
            first := wordOfNat s.lc.holds.mask, second := s.clock - s.lc.holdStart }
        events := { eventsAfterReport s with cmdDone := true }
        draws := s.draws + 1 })

/-- CLEAR_FAULT: each FAULTED channel with UP_SENSE high is LIFTED and UNCAPTURED, one with both sensors high is FAULTED again
with SENSE_CONFLICT, the others stay; FAULT stands afterwards exactly if one stays FAULTED with LIFT_TIMEOUT; the suspension
ends, with BUS_FAULT from the held fault, at the clock of the fault, and the close that it held back; then the set is judged:
emptied, HOLD_OFF lists FAULT and the permit returns (R48, R81, R147, R154, R162). What a channel with both sensors high keeps
is the model's reading (log entry 16), and that BUS_FAULT joins the queue before the close its choice (log entry 8). A channel
FAULTED with LIFT_TIMEOUT under an empty set, which no run has, is left aside: its FAULT stands until its lift is seen (R81,
R154). -/
def Obligations.ClearFaultRecoversTheLine : Prop :=
  ∀ (s : State) (stuck : Bool), Commandable s →
    (stuck = true ↔ ∃ i, (s.chan i).state = .faulted ∧ inSet s.pins.upSense i = false ∧
      (s.chan i).reason = some .liftTimeout) →
    (s.lc.holds.any = true ∨ stuck = false → ∃ t, exec .clearFault s = .next t ∧ Undisturbed s t ∧ t.events.cmdDone = true ∧
      (∀ i, ((s.chan i).state = .faulted → inSet s.pins.upSense i = true → inSet s.pins.downSense i = false →
          t.chan i = { s.chan i with state := .lifted, reason := none } ∧ (t.phase i).captured = false) ∧
        ((s.chan i).state = .faulted → inSet s.pins.upSense i = true → inSet s.pins.downSense i = true →
          t.chan i = { s.chan i with
            state := .faulted, reason := some .senseConflict, pendingLower := false, timer := .stopped }) ∧
        ((s.chan i).state ≠ .faulted ∨ inSet s.pins.upSense i = false →
          t.chan i = s.chan i ∧ t.phase i = s.phase i)) ∧
      t.lc.line = s.lc.line ∧ t.lc.holds = { s.lc.holds with fault := stuck } ∧
      t.lc.firstFault = (if stuck then some .stationLift else none) ∧ (stuck = true → t.events.fault = true) ∧
      t.lc.permit = (if s.lc.holds.any = true ∧ t.lc.holds.any = false then true else s.lc.permit) ∧
      t.xi.suspended = false ∧ (s.xi.suspended = false → t.xi.held = s.xi.held) ∧
      (s.xi.suspended = true → t.xi.held = none) ∧ t.xi.inHand = s.xi.inHand) ∧
    ∃ u v,
      (u.wt = s.wt ∧ u.os = s.os ∧ u.co = s.co ∧ u.clock = s.clock) ∧
      (u.xi.suspended = s.xi.suspended ∧ u.xi.held = s.xi.held) ∧
      (u.lc.line = s.lc.line ∧ u.lc.holds = { s.lc.holds with fault := stuck } ∧ u.lc.holdStart = s.lc.holdStart) ∧
      ((∀ i, (s.chan i).state = .faulted → inSet s.pins.upSense i = true → inSet s.pins.downSense i = false) →
        u.xi = s.xi ∧ u.events = { s.events with fault := s.events.fault || stuck }) ∧
      (s.xi.suspended = false → v = u) ∧
      (s.xi.suspended = true → s.xi.held = none → v = testClose { u with xi.suspended := false }) ∧
      (∀ f, s.xi.suspended = true → s.xi.held = some f →
        v = testClose (afterReport { u with xi.suspended := false, xi.held := none }
          { kind := .busFault, tag := entryTag s, station := 0#32, serial := wordOfNat s.wt.nextSerial, clock := f.clock,
            first := wordOfNat f.offset, second := if f.write then 1#32 else 0#32 })) ∧
      (s.lc.holds.any = true → { s.lc.holds with fault := stuck } ≠ ({} : HoldSet) →
        exec .clearFault s = .next { v with events.cmdDone := true }) ∧
      (s.lc.holds = { fault := true } → stuck = false →
        exec .clearFault s = .next { afterReport v
          { kind := .holdOff, tag := entryTag s, station := 0#32, serial := wordOfNat s.wt.nextSerial, clock := s.clock,
            first := 16#32, second := s.clock - s.lc.holdStart } with
          lc := { v.lc with permit := true }
          events := { eventsAfterReport v with cmdDone := true } }) ∧
      (s.lc.holds.any = false → stuck = false → exec .clearFault s = .next { v with events.cmdDone := true })

/-! ### Print orders (Chapter 2) -/

/-- SIGNAL with the status EMPTY starts a full read of slot n, ended at once with the status EMPTY during a suspension; with
any other status it changes nothing; each time the command takes effect (R32, R34). That a read started with the confirm point
reached is past it from its start is the model's choice (log entry 41). -/
def Obligations.SignalLooksAtSlotN : Prop :=
  ∀ s : State, Commandable s →
    (s.os.status = .empty → s.xi.suspended = false →
      exec .signal s = .next { s with
        os := { s.os with
          status := .reading
          pastConfirm := match entryRecord s with
            | some r => decide (r.finish ≤ s.wt.p + 50000)
            | none => false }
        xi.queue := s.xi.queue ++ [.slotRead s.os.next]
        events.cmdDone := true }) ∧
    (s.os.status = .empty → s.xi.suspended = true →
      exec .signal s = .next { s with os.copy := none, events.cmdDone := true }) ∧
    (s.os.status ≠ .empty → exec .signal s = .next { s with events.cmdDone := true })

/-- ABORT_ORDER in PRINTING ends the entry order at P: the cut now, which is the cut of CutsMakeRecords, closes the open
stretch; then the line is READY without an entry order, the outcome ABORTED, the next order's copy, its waiting read and the
read in hand discarded, its cuts withdrawn and its mark table cleared, the zone attributes plain, and every seam edge kept (R8,
R29, R43, R53, R54, R55, R62). -/
def Obligations.AbortEndsTheEntryOrder : Prop :=
  ∀ (s : State) (r : InFlight), Commandable s → s.lc.line = .printing → entryRecord s = some r →
    ∃ t u, exec .abortOrder s = .next t ∧ Undisturbed s t ∧ t.events.cmdDone = true ∧
      t.lc.line = .ready ∧ t.lc.permit = !t.lc.holds.any ∧
      (s.wt.map.length < 2048 → s.wt.nextSerial ≤ 4294967295 → t.lc.holds = s.lc.holds) ∧
      t.os.entry = none ∧ t.os.status = .empty ∧ t.os.copy = none ∧ t.os.next = s.os.next ∧
      (∃ r', t.os.table.find? (fun x => x.slot == r.slot) = some r' ∧ r'.order = r.order ∧ r'.origin = r.origin ∧
        r'.finish = s.wt.p ∧ r'.ended = true ∧ outcomeOf r' = .aborted) ∧
      t.wt.p = s.wt.p ∧ (s.wt.lastCut ≤ s.wt.p → t.wt.lastCut = s.wt.p) ∧
      t.cp.lift = 0#16 ∧ t.cp.pressure = 0#3 ∧ t.cp.seams = s.cp.seams ∧
      (∀ e, e ∈ t.cp.pending ↔ e ∈ s.cp.pending ∧ e.kind ≠ .orderEnd ∧ ∀ k, e.kind ≠ .zoneMark k) ∧
      (∀ x ∈ t.xi.queue, isOrderRead x = false) ∧ t.xi.inHand = s.xi.inHand.map discardInHand ∧
      (∀ h, isOrderRead h.transaction = true → h.stage ≠ .refusing → (discardInHand h).discarded = true) ∧
      u = closeStretch s ∧
      t = { u with
        os := { u.os with
          entry := none
          status := .empty
          copy := none
          table := modifyFirst (fun x => x.slot == r.slot)
            (fun x => { x with finish := s.wt.p, ended := true, aborted := true }) u.os.table }
        cp := { s.cp with
          pending := s.cp.pending.filter fun e => !isOrderEnd e && !isZoneMark e
          marks := []
          lift := 0#16
          pressure := 0#3 }
        lc := { u.lc with line := .ready, permit := !u.lc.holds.any }
        xi := { u.xi with
          queue := u.xi.queue.filter fun x => !isOrderRead x
          inHand := u.xi.inHand.map discardInHand }
        events := { u.events with cmdDone := true } }

/-- A take of a PRINT, PROOF or BLANK order: origin and planned end, the entry order, PRINTING with the permit judged, its
ORDER_END, the alert flag of its slot clear (R124); TAKEN, ORDER_TAKEN and the prefetch of the next slot handed over in that
order (R36, R40, R144). A PRINT or PROOF brings its lift mask and pressure and its marks, each PENDING at origin + position ×
1000 µm, with the ZONE_MARK entries of those before the end; a BLANK brings none; the marks of the order before are gone, and
the seam edges and queue stay (R53, R54, R55, R62). The Phase Unit has the order's record with its join set and, for PRINT and
PROOF, its reference switch (R87, R93), and the Mark Reader its build cursor, met at once if its build point is not ahead
(R102); a BLANK empties the last station set alone. That a prefetch that starts with the confirm point reached is past it from
its start is the model's choice (log entry 41), that a take is one event its reading (log entry 14), and the station field of
ORDER_TAKEN is free within 0..16 (R182; log entry 4). -/
def Obligations.TakeEntersTheOrder : Prop :=
  ∀ (s : State) (o : Order) (late : Bool), o.kind ≠ .halt → s.xi.suspended = false →
    waitingReports s.xi.queue < 48 → (∀ sch ∈ s.mr.schedules, sch.tag ≠ o.tag) →
    ∃ t r, takeOrder s o late = t ∧ Undisturbed s t ∧
      t.os.table = s.os.table ++ [r] ∧ t.os.entry = some s.os.next ∧ t.os.next = s.os.next + 1 ∧
      t.os.status = .reading ∧ t.os.copy = none ∧
      r.slot = s.os.next ∧ r.order = o ∧ r.origin = s.wt.p ∧ r.late = late ∧ r.ended = false ∧ r.segments = 0 ∧
      ((∀ x ∈ s.os.table, x.slot ≠ s.os.next) → t.os.pastConfirm = decide (r.finish ≤ s.wt.p + 50000)) ∧
      (r.seamEnd = seamEndNow { r with seamEnd := none } s.cp.seams ∧ r.proofEnd = none ∧ r.finish = leastEnd r) ∧
      (s.cp.seams = [] → r.finish = (match o.kind, o.endCondition with
        | .blank, .count => s.wt.p + o.length * 1000
        | .blank, .seam => s.wt.p + (o.length + o.overrun) * 1000
        | _, .count => s.wt.p + o.count * o.length
        | _, .seam => s.wt.p + (o.count + o.overrun) * o.length)) ∧
      t.lc.line = .printing ∧ t.lc.permit = !s.lc.holds.any ∧ t.lc.holds = s.lc.holds ∧
      (s.wt.p < r.finish → { kind := .orderEnd, position := r.finish } ∈ t.cp.pending) ∧ t.wt = s.wt ∧
      (o.kind = .print ∨ o.kind = .proof → t.cp.lift = o.lift ∧ t.cp.pressure = o.pressure ∧
        t.cp.marks = o.marks.map fun m =>
          { position := s.wt.p + m.position * 1000, lift := m.lift, pressure := m.pressure, applied := false }) ∧
      (o.kind = .blank → t.cp.lift = 0#16 ∧ t.cp.pressure = 0#3 ∧ t.cp.marks = []) ∧
      t.cp = { s.cp with
        lift := t.cp.lift, pressure := t.cp.pressure, marks := t.cp.marks, pending := t.cp.pending } ∧
      (∀ e, e.kind = .orderEnd → (e ∈ t.cp.pending ↔ s.wt.p < r.finish ∧ e.position = r.finish)) ∧
      (∀ e k, e.kind = .zoneMark k → (e ∈ t.cp.pending ↔
        ∃ m, t.cp.marks[k]? = some m ∧ e.position = m.position ∧ s.wt.p < m.position ∧ m.position < r.finish)) ∧
      (t.cp.pending.filter fun e => !isOrderEnd e && !isZoneMark e) =
        (s.cp.pending.filter fun e => !isOrderEnd e && !isZoneMark e) ∧
      t.cp = planEnd { s.cp with
        lift := t.cp.lift
        pressure := t.cp.pressure
        marks := t.cp.marks
        pending := s.cp.pending.filter fun e => !isOrderEnd e && !isZoneMark e } s.wt.p r.finish ∧
      (∀ i, t.chan i = s.chan i) ∧
      (∀ i : Slot, t.ci.alerts.getLsbD i.val = (s.ci.alerts.getLsbD i.val && decide (i ≠ s.os.next))) ∧
      (o.kind = .print ∨ o.kind = .proof →
        t.pu = { s.pu with
          orders := s.pu.orders ++ [
            { tag := o.tag, origin := s.wt.p, length := o.length, set := o.set, key := keyOf o.set,
              join := if late then o.set else minusSet o.set s.pu.lastSet, captureFails := 0#16 }]
          lastSet := o.set
          switches := s.pu.switches ++ [s.wt.p] } ∧
        ∀ c : Cursor, c = { tag := o.tag, origin := s.wt.p, length := o.length, set := o.set, key := keyOf o.set, index := 0 } →
          ∃ x, (x.wt = s.wt ∧ x.prof = s.prof ∧ x.os.table = t.os.table ∧ x.pu = t.pu) ∧
            x.mr = { s.mr with cursors := s.mr.cursors ++ [c] } ∧ t.mr = (meetBuild x c).mr) ∧
      (o.kind = .blank → t.pu = { s.pu with lastSet := 0#16 } ∧ t.mr = s.mr) ∧
      ∃ station : Word, station.toNat ≤ 16 ∧ t.xi.queue = s.xi.queue ++
        [.takeWrite s.os.next,
         .report
           { kind := .orderTaken, tag := o.tag, station := station, serial := wordOfNat s.wt.nextSerial, clock := s.clock,
             first := wordOfNat s.os.next.val, second := if late then 1#32 else 0#32 },
         .slotRead (s.os.next + 1)]

/-- The end of the entry order, starvation and HALT. At its ORDER_END cut (CutsMakeRecords) the order is ended and its cuts and
marks withdrawn; with the status SETTLED the copy is taken on time, with any other the order starves (R35, R37, R53, R54). An
order that ends without a successor leaves the line READY with no entry order and plain zone attributes; HELD goes on to a
confirm read, BARRED becomes EMPTY, and the tail HOLD or a failed proof raises ORDER (R37, R62). A HALT is taken and ended at P
in one event: its record has no length, TAKEN and ORDER_TAKEN are handed over, ORDER is raised, the line is READY, no prefetch
starts, and of the cuts and marks only the seam edges stay (R39, R53, R54, R55, R62). That ORDER_TAKEN, and the confirm read of
a HELD status, come before HOLD_ON is the model's choice (log entry 8), and that HOLD_ON carries the HALT's tag its reading (log
entry 23); the station word of ORDER_TAKEN is free (log entry 4). -/
def Obligations.HaltAndStarvationLeaveReady : Prop :=
  ∀ s : State,
    (entryRecord s = none → reachEnd s = s) ∧
    (∀ r, entryRecord s = some r → ∃ u,
      u = { s with os := { s.os with table := u.os.table }, cp := { s.cp with pending := u.cp.pending, marks := [] } } ∧
      u.os.table.find? (fun x => x.slot == r.slot) = some { r with ended := true } ∧
      (∀ j, j ≠ r.slot → u.os.table.find? (fun x => x.slot == j) = s.os.table.find? (fun x => x.slot == j)) ∧
      u.cp.pending.Sublist s.cp.pending ∧
      (∀ e, e ∈ u.cp.pending ↔ e ∈ s.cp.pending ∧ e.kind ≠ .orderEnd ∧ ∀ k, e.kind ≠ .zoneMark k) ∧
      (∀ o, s.os.status = .settled → s.os.copy = some o → reachEnd s = takeOrder u o false) ∧
      (s.os.status ≠ .settled ∨ s.os.copy = none → reachEnd s = starve u { r with ended := true })) ∧
    (∀ r t, starve s r = t →
      Undisturbed s t ∧ t.os.entry = none ∧ t.lc.line = .ready ∧ t.os.table = s.os.table ∧ t.os.next = s.os.next ∧
      (t.cp.lift = 0#16 ∧ t.cp.pressure = 0#3 ∧ t.cp.pending = s.cp.pending ∧ t.cp.seams = s.cp.seams) ∧
      t.cp = { s.cp with lift := 0#16, pressure := 0#3 } ∧
      (s.os.status = .held → s.xi.suspended = false →
        t.os.status = .confirming ∧ t.os.copy = s.os.copy ∧ Transaction.confirmRead s.os.next ∈ t.xi.queue) ∧
      (s.os.status = .held → s.xi.suspended = true → t.os.status = .empty ∧ t.os.copy = none) ∧
      (s.os.status = .barred → t.os.status = .empty) ∧
      (s.os.status ≠ .held → s.os.status ≠ .barred → t.os.status = s.os.status ∧ t.os.copy = s.os.copy) ∧
      (r.order.tail = .hold ∨ r.proofFailure.isSome = true →
        t.lc.holds = { s.lc.holds with order := true } ∧ t.lc.permit = false) ∧
      (r.order.tail = .runOut → r.proofFailure = none → t.lc.holds = s.lc.holds ∧ t.lc.permit = !s.lc.holds.any)) ∧
    (∀ (o : Order) (late : Bool), o.kind = .halt → lineOpen s = true → s.xi.suspended = false →
      waitingReports s.xi.queue < 47 → (∀ x ∈ s.os.table, x.slot ≠ s.os.next) →
      ∃ t r station, takeOrder s o late = t ∧ Undisturbed s t ∧ t.os.table = s.os.table ++ [r] ∧
        (r.slot = s.os.next ∧ r.order = o ∧ r.origin = s.wt.p ∧ r.finish = s.wt.p ∧ r.ended = true ∧ r.late = late ∧
          r.segments = 0) ∧
        t.os.entry = none ∧ t.os.next = s.os.next + 1 ∧ t.os.status = .empty ∧ t.os.copy = none ∧ t.lc.line = .ready ∧
        t.lc.holds = { s.lc.holds with order := true } ∧ t.lc.permit = false ∧
        t.wt.p = s.wt.p ∧ t.wt.nextSerial = s.wt.nextSerial ∧ station.toNat ≤ 16 ∧
        t.cp = { s.cp with
          pending := s.cp.pending.filter fun e => !isOrderEnd e && !isZoneMark e
          marks := []
          lift := 0#16
          pressure := 0#3 } ∧
        t.xi.queue = s.xi.queue ++
          [.takeWrite s.os.next,
           .report
             { kind := .orderTaken, tag := o.tag, station := station, serial := wordOfNat s.wt.nextSerial, clock := s.clock,
               first := wordOfNat s.os.next.val, second := if late then 1#32 else 0#32 }] ++
          (if s.lc.holds.any = true then []
          else
            [.report
              { kind := .holdOn, tag := o.tag, station := 0#32, serial := wordOfNat s.wt.nextSerial, clock := s.clock,
                first := 2#32, second := 0#32 }]))

/-- The reads of the next order end by the words read (R28 to R31). A full read goes on from the state word to the body and
looks again at state and tag; not armed, or changed, it leaves the status EMPTY; an invalid body is refused by its reason word
and then REFUSED, with ORDER_REFUSED after the last; a valid one is HELD, or SETTLED if the confirm point was reached at any
time of the read, also where the end has moved on since (R30, R31), or taken at once in READY as a late start, which asks for a
cut now except for a HALT (R38, R39). A confirm read unchanged settles the copy, or takes it; changed, it flushes the copy and a
full read starts. That the status is EMPTY from the first refusal write on, and that ORDER_REFUSED is posted only after REFUSED,
is the model's reading (log entry 9). That a read started with the confirm point reached is past it from its start is the
model's choice (log entry 41). The words of the body read are log entry 7; the station and serial of ORDER_REFUSED are free (log
entry 4). -/
def Obligations.ReadsEndByTheirWords : Prop :=
  ∀ (s u : State) (h g : InHand) (i : Slot) (host : Option Word), s.xi.inHand = some h → h.discarded = false →
    h.rest = [] → lineOpen s = true → g = gather (accessMemory s.mem h host) h → h.access.mark = .plain →
    u = { s with mem := accessMemory s.mem h host, xi.inHand := none, xi.timer := .stopped } →
    (h.transaction = .slotRead i →
      (h.stage = .stateWord →
        (slotWord g i 0 ≠ 1#32 ∨ (∃ x ∈ s.os.table, x.slot = i) →
          exec (.memoryAccessDone host) s = .next { u with os.status := .empty, os.copy := none }) ∧
        (slotWord g i 0 = 1#32 → (∀ x ∈ s.os.table, x.slot ≠ i) →
          exec (.memoryAccessDone host) s = .next (inAccess u { g with stage := .kindWord } (readAt (0x1004 + 256 * i.val)) []))) ∧
      (h.stage = .kindWord → ∃ offsets, bodyOffsets (slotWord g i 4) = 0x08 :: offsets ∧
        exec (.memoryAccessDone host) s = .next (inAccess u { g with stage := .body } (readAt (0x1008 + 256 * i.val))
          (offsets.map fun k => readAt (0x1000 + 256 * i.val + k)))) ∧
      (h.stage = .body →
        exec (.memoryAccessDone host) s = .next (inAccess u { g with stage := .recheck } (readAt (0x1000 + 256 * i.val))
          [readAt (0x1008 + 256 * i.val)])) ∧
      (h.stage = .recheck →
        (slotWordAgain g i 0 ≠ 1#32 ∨ slotWordAgain g i 8 ≠ slotWord g i 8 →
          exec (.memoryAccessDone host) s = .next { u with os.status := .empty, os.copy := none }) ∧
        (slotWordAgain g i 0 = 1#32 → slotWordAgain g i 8 = slotWord g i 8 →
          (∀ reason, Sys2Proof.Machine.orderOf (slotWord g i) = none ∧ reason = .kindUnknown ∨
              (∃ o, Sys2Proof.Machine.orderOf (slotWord g i) = some o ∧ refusalOf s o = some reason) →
            exec (.memoryAccessDone host) s = .next
              (inAccess { u with os.status := .empty, os.copy := none }
                { g with stage := .refusing, got := (0x10BC + 256 * i.val, wordOfNat reason.code) :: g.got }
                (writeAt (0x10BC + 256 * i.val) (wordOfNat reason.code)) [writeAt (0x1000 + 256 * i.val) 4#32])) ∧
          (∀ o, Sys2Proof.Machine.orderOf (slotWord g i) = some o → refusalOf s o = none →
            (s.lc.line = .printing → ∀ r, entryRecord s = some r →
              exec (.memoryAccessDone host) s = .next { u with
                os.copy := some o
                os.status := if s.os.pastConfirm = true ∨ r.finish ≤ s.wt.p + 50000 then .settled else .held }) ∧
            (s.lc.line = .ready → o.kind ≠ .halt →
              exec (.memoryAccessDone host) s = .next (takeOrder (closeStretch u) o true)) ∧
            (s.lc.line = .ready → o.kind = .halt →
              exec (.memoryAccessDone host) s = .next (takeOrder u o true))))) ∧
      (h.stage = .refusing → ∃ station serial, station.toNat ≤ 16 ∧
        exec (.memoryAccessDone host) s = .next (afterReport u
          { kind := .orderRefused, tag := slotWord g i 8, station := station, serial := serial, clock := s.clock,
            first := wordOfNat i.val, second := slotWordAgain g i 0xBC }))) ∧
    (h.transaction = .confirmRead i → ∀ o, s.os.copy = some o →
      (slotWord g i 0 = 1#32 → slotWord g i 8 = o.tag →
        (s.lc.line = .printing → exec (.memoryAccessDone host) s = .next { u with os.status := .settled }) ∧
        (s.lc.line = .ready → o.kind ≠ .halt →
          exec (.memoryAccessDone host) s = .next (takeOrder (closeStretch u) o true)) ∧
        (s.lc.line = .ready → o.kind = .halt → exec (.memoryAccessDone host) s = .next (takeOrder u o true))) ∧
      (slotWord g i 0 ≠ 1#32 ∨ slotWord g i 8 ≠ o.tag → s.xi.suspended = false →
        exec (.memoryAccessDone host) s = .next { u with
          os := { s.os with
            status := .reading
            copy := none
            pastConfirm := match entryRecord s with
              | some r => decide (r.finish ≤ s.wt.p + 50000)
              | none => false }
          xi.queue := s.xi.queue ++ [.slotRead s.os.next] }))

/-- The end of the entry order (R40 to R42): the least of the planned end, the seam end and the proof end. A seam end is of the
first seam queued whose zone ends after the origin and before the planned end: the first repeat boundary at or after the zone's
end, or that end itself for a BLANK; the seam that sets it keeps setting it while its zone ends before the planned end. A proof
end is the first boundary greater than P. The seam rule is applied while P has not reached the end, and a moved end replaces the
ORDER_END; once P has reached the end, also before the cut there, the rule changes nothing. The confirm point, 50 mm before the
end, is met by a print advance that reaches it, or by the move that puts it at or behind P: a HELD copy is confirmed, an EMPTY
status reads the slot, a read that is READING is past the confirm point from then on, whatever becomes of the end, and nothing
starts during a suspension (R31, R34; ReadsEndByTheirWords). That the read that EMPTY starts there is past it too is the model's
choice (log entry 41). -/
def Obligations.SeamEndFollowsTheRule : Prop :=
  ∀ (r : InFlight) (q : List SeamEntry),
    (plannedEnd r.order r.origin = (match r.order.kind, r.order.endCondition with
      | .print, .count | .proof, .count => r.origin + r.order.count * r.order.length
      | .print, .seam | .proof, .seam => r.origin + (r.order.count + r.order.overrun) * r.order.length
      | .blank, .count => r.origin + r.order.length * 1000
      | .blank, .seam => r.origin + (r.order.length + r.order.overrun) * 1000
      | .halt, _ => r.origin)) ∧
    (leastEnd r ≤ plannedEnd r.order r.origin ∧ (∀ n e, r.seamEnd = some (n, e) → leastEnd r ≤ e) ∧
      (∀ e, r.proofEnd = some e → leastEnd r ≤ e) ∧
      (leastEnd r = plannedEnd r.order r.origin ∨ (∃ n, r.seamEnd = some (n, leastEnd r)) ∨ r.proofEnd = some (leastEnd r))) ∧
    (∀ p, r.origin ≤ p → 0 < r.order.length →
      (∃ j, boundaryAfter r.origin r.order.length p = r.origin + j * r.order.length) ∧
      p < boundaryAfter r.origin r.order.length p ∧
      ∀ j, p < r.origin + j * r.order.length → boundaryAfter r.origin r.order.length p ≤ r.origin + j * r.order.length) ∧
    (∀ z, r.order.kind = .print ∨ r.order.kind = .proof → r.origin ≤ z → 0 < r.order.length →
      (∃ j, seamEndAt r z = r.origin + j * r.order.length) ∧ z ≤ seamEndAt r z ∧
      ∀ j, z ≤ r.origin + j * r.order.length → seamEndAt r z ≤ r.origin + j * r.order.length) ∧
    (∀ z, r.order.kind = .blank → seamEndAt r z = z) ∧
    (r.order.endCondition = .count ∨ r.order.kind = .halt → seamEndNow r q = none) ∧
    (r.order.endCondition = .seam → r.order.kind ≠ .halt → r.seamEnd = none →
      ((∀ e ∈ q, e.zoneEnd ≤ r.origin ∨ plannedEnd r.order r.origin ≤ e.zoneEnd) → seamEndNow r q = none) ∧
      (∀ before e after, q = before ++ e :: after → r.origin < e.zoneEnd → e.zoneEnd < plannedEnd r.order r.origin →
        (∀ x ∈ before, x.zoneEnd ≤ r.origin ∨ plannedEnd r.order r.origin ≤ x.zoneEnd) →
        seamEndNow r q = some (e.position, seamEndAt r e.zoneEnd))) ∧
    (∀ n finish, r.order.endCondition = .seam → r.order.kind ≠ .halt → r.seamEnd = some (n, finish) →
      (q.find? (fun e => e.position == n) = none → seamEndNow r q = some (n, finish)) ∧
      (∀ e, q.find? (fun e => e.position == n) = some e → r.origin < e.zoneEnd →
        (e.zoneEnd < plannedEnd r.order r.origin → seamEndNow r q = some (n, seamEndAt r e.zoneEnd)) ∧
        (plannedEnd r.order r.origin ≤ e.zoneEnd → seamEndNow r q = seamEndNow { r with seamEnd := none } q))) ∧
    (∀ s, entryRecord s = some r → s.wt.p < r.finish → r.ended = false →
      ∃ t u r', applySeamRule s = t ∧ entryRecord t = some r' ∧
        r' = { r with seamEnd := seamEndNow r s.cp.seams, finish := leastEnd r' } ∧
        t.cp = (if r'.finish = r.finish then s.cp else planEnd s.cp s.wt.p r'.finish) ∧
        u = { s with os := { s.os with table := t.os.table }, cp := t.cp } ∧
        t = (if r'.finish = r.finish ∨ s.wt.p + 50000 < r'.finish then u else atConfirmPoint u)) ∧
    (∀ s, entryRecord s = some r → r.finish ≤ s.wt.p ∨ r.ended = true → applySeamRule s = s) ∧
    ∀ s,
      (confirmHere s = true ↔ ∃ x, entryRecord s = some x ∧ x.ended = false ∧ x.finish = s.wt.p + 50000) ∧
      (confirmHere s = true → meetConfirm s = atConfirmPoint s) ∧
      (confirmHere s = false → meetConfirm s = s) ∧
      (s.xi.suspended = false → s.os.status = .held → atConfirmPoint s = { s with
        os.status := .confirming, xi.queue := s.xi.queue ++ [.confirmRead s.os.next] }) ∧
      (s.xi.suspended = false → s.os.status = .empty → atConfirmPoint s = { s with
        os := { s.os with
          status := .reading
          pastConfirm := match entryRecord s with
            | some x => decide (x.finish ≤ s.wt.p + 50000)
            | none => false }
        xi.queue := s.xi.queue ++ [.slotRead s.os.next] }) ∧
      (s.os.status = .reading → atConfirmPoint s = { s with os.pastConfirm := true }) ∧
      (s.xi.suspended = true → s.os.status = .held ∨ s.os.status = .empty →
        atConfirmPoint s = { s with os.status := .empty, os.copy := none }) ∧
      (s.os.status ≠ .held → s.os.status ≠ .empty → s.os.status ≠ .reading → atConfirmPoint s = s)

/-- Closing (R44, R47 to R49): the residual and the outcome, the sixteen result words of R180, and when the oldest order closes.
Before it, when the print position reaches its end + D_M, each order has its one ORDER_PRINTED (R45), those of one position in
take order, as of the records there when the position is met; its station field is free (log entry 4), and words of mm are log
entry 35. The proof words shown for ABANDONED are the model's reading (log entry 19), and that DEFECT_RUN joins the request
queue before the close writes its choice (log entry 8). -/
def Obligations.OrdersCloseWithTheirResults : Prop :=
  (∀ r : InFlight,
    (r.order.kind = .print ∨ r.order.kind = .proof →
      residualOf r = (r.order.count : Int) - ((r.finish - r.origin) / r.order.length : Nat)) ∧
    (r.order.kind = .blank → residualOf r = (r.order.length : Int) - ((r.finish - r.origin) / 1000 : Nat)) ∧
    (r.order.kind = .halt → residualOf r = 0) ∧
    (outcomeOf r = .aborted ↔ r.aborted = true) ∧
    (outcomeOf r = .proofFailed ↔ r.aborted = false ∧ r.proofFailure.isSome = true) ∧
    (outcomeOf r = .short ↔ r.aborted = false ∧ r.proofFailure = none ∧ 0 < residualOf r) ∧
    (outcomeOf r = .complete ↔ r.aborted = false ∧ r.proofFailure = none ∧ residualOf r = 0) ∧
    (outcomeOf r = .long ↔ r.aborted = false ∧ r.proofFailure = none ∧ residualOf r < 0) ∧
    (r.order.endCondition = .seam → r.order.kind = .print ∨ r.order.kind = .proof → 0 < r.order.length →
      r.finish = plannedEnd r.order r.origin → residualOf r = -(r.order.overrun : Int))) ∧
  (∀ (r : InFlight) (o : OrderOutcome) (first failing : Word), r.worstStation ≤ 16 →
    (first.extractLsb' 0 8).toNat = (match o with
      | .complete => 1
      | .short => 2
      | .long => 3
      | .proofFailed => 4
      | .aborted => 5
      | .abandoned => 6) →
    (first.extractLsb' 8 8).toNat = r.worstStation →
    (first.extractLsb' 16 8).toNat = (match o, r.proofFailure with
      | .proofFailed, some (_, st) | .abandoned, some (_, st) => st.val + 1
      | _, _ => 0) →
    (first.extractLsb' 24 8).toNat = (if r.late then 1 else 0) →
    failing = (match o, r.proofFailure with
      | .proofFailed, some (j, _) | .abandoned, some (j, _) => wordOfNat j
      | _, _ => 0xFFFFFFFF#32) →
    resultWords r o =
      [first,
       wordOfNat (match r.order.kind with
         | .print | .proof => (r.finish - r.origin) / r.order.length
         | .blank => (r.finish - r.origin) / 1000
         | .halt => 0),
       wordOfInt (residualOf r), wordOfNat r.firstSerial, wordOfNat r.lastSerial, wordOfNat r.segments,
       wordOfNat r.accepted, wordOfNat r.classes.missingColour, wordOfNat r.classes.stopMark, wordOfNat r.classes.register,
       wordOfNat r.classes.seam, wordOfNat r.classes.undercured, wordOfNat r.classes.overcured,
       wordOfNat r.classes.unverified, wordOfNat r.worst, failing]) ∧
  ∀ s : State,
    (∀ r rest x u, s.os.table = r :: rest → s.wt.horizon = some x → r.ended = true → r.closing = false → r.finish ≤ x →
      s.xi.suspended = false →
      (u = match s.co.run with
        | some run =>
          if run.slot = some r.slot ∧ run.tag = r.order.tag then
            { afterReport s
              { kind := .defectRun, tag := run.tag, station := 0#32, serial := wordOfNat run.firstSerial, clock := s.clock,
                first := wordOfNat run.count, second := wordOfNat run.defects.mask } with co.run := none }
          else s
        | none => s) →
      testClose s = { u with
        os.table := { r with closing := true } :: rest
        xi.queue := u.xi.queue ++ [.closeWrite r.slot (resultWords r (outcomeOf r))
          { tag := r.order.tag, lastSerial := r.lastSerial, outcome := outcomeOf r }] }) ∧
    (s.os.table = [] ∨ s.wt.horizon = none ∨ s.xi.suspended = true ∨
      (∃ r rest, s.os.table = r :: rest ∧ (r.ended = false ∨ r.closing = true ∨ ∀ x, s.wt.horizon = some x → x < r.finish)) →
      testClose s = s) ∧
    meetPrinted s = (s.os.table.filter (printedNow s)).foldl reportPrinted s ∧
    ∀ r,
      (printedNow s r = true ↔ r.printed = false ∧ r.ended = true ∧ r.finish + s.prof.readerDistance ≤ s.wt.p) ∧
      ∃ station : Word, station.toNat ≤ 16 ∧ reportPrinted s r = afterReport
        { s with os.table := modifyFirst (fun x => x.slot == r.slot) (fun x => { x with printed := true }) s.os.table }
        { kind := .orderPrinted, tag := r.order.tag, station := station, serial := wordOfNat r.lastSerial,
          clock := s.clock, first := wordOfNat r.slot.val, second := wordOfNat (r.finish / 1000) }

/-- Validation (R27): a body is refused for the first row of the table that applies to it, and accepted if none applies. -/
def Obligations.ValidationFollowsTheTable : Prop :=
  ∀ (s : State) (o : Order),
    (∀ before r after, refusalOrder = before ++ r :: after →
      (refusalOf s o = some r ↔ RefusalDue s o r ∧ ∀ x ∈ before, ¬RefusalDue s o x)) ∧
    (refusalOf s o = none ↔ ∀ r, ¬RefusalDue s o r)

/-- An order body is read by its layout, with the codes of R181; an undefined kind, tail or, but for a HALT, end condition is no
order (R26, R27, R180). -/
def Obligations.OrderBodiesAreRead : Prop :=
  ∀ w : Nat → Word,
    let kind := ((w 0x04).extractLsb' 0 8).toNat
    let cond := ((w 0x04).extractLsb' 8 8).toNat
    let tail := ((w 0x04).extractLsb' 16 8).toNat
    let count := ((w 0x04).extractLsb' 24 8).toNat
    (Sys2Proof.Machine.orderOf w = none ↔ kind = 0 ∨ 4 < kind ∨ 1 < tail ∨ kind ≠ 4 ∧ 1 < cond) ∧
    ∀ o, Sys2Proof.Machine.orderOf w = some o →
      o.tag = w 0x08 ∧ o.tail = (if tail = 0 then .runOut else .hold) ∧
      (kind ≠ 4 → o.endCondition = if cond = 0 then .count else .seam) ∧
      (kind = 4 → o.kind = .halt) ∧
      (kind = 3 → o.kind = .blank ∧ o.set = 0#16 ∧ o.marks = []) ∧
      (kind = 1 ∨ kind = 2 →
        o.kind = (if kind = 1 then .print else .proof) ∧ o.count = ((w 0x10).extractLsb' 0 16).toNat ∧
        o.set = (w 0x10).extractLsb' 16 16 ∧ o.lift = (w 0x18).extractLsb' 0 16 ∧
        o.pressure = (w 0x18).extractLsb' 16 3 ∧ o.tolerance = ((w 0x24).extractLsb' 0 16).toNat ∧ o.markCount = count ∧
        o.marks.length = min count 16 ∧
        ∀ k m, o.marks[k]? = some m → m.position = (w (0x28 + 8 * k)).toNat ∧
          m.lift = (w (0x2C + 8 * k)).extractLsb' 0 16 ∧ m.pressure = (w (0x2C + 8 * k)).extractLsb' 16 3) ∧
      (kind ≠ 4 →
        o.length = (w 0x0C).toNat ∧ o.overrun = (w 0x14).toNat ∧ o.page.val = ((w 0x18).extractLsb' 24 3).toNat ∧
        o.dMin = (w 0x1C).toNat ∧ o.dMax = (w 0x20).toNat)

/-! ### Loads, unloads and resets (Chapter 11) -/

/-- An accepted LOAD_PROFILE: LOADING, command busy, the exchange interface at its values for a load with the profile read as
its one transaction (R166, R172). That a write access in hand at the acceptance leaves memory as it was is the model's choice
(log entry 40). The words of the copy spell the profile by the layout of R179, lengths in mm converted to µm. -/
def Obligations.LoadReadsTheProfile : Prop :=
  (∀ s : State, s.pins.resetAsserted = false → s.busy = false → s.lc.line = .unloaded →
    exec .loadProfile s = .next { s with
      busy := true
      lc := { s.lc with line := .loading, permit := false }
      xi := { queue := [.profileRead], inHand := none, timer := .stopped, written := 0#16, retired := 0#16, lost := 0,
              firstLoss := 0#32, suspended := false, held := none } }) ∧
  ∀ (w : Nat → Word) (f : Profile), f = profileOf w →
    f = { printResolution := (w 0x00).toNat, ovenResolution := (w 0x01).toNat, segmentLength := (w 0x02).toNat * 1000,
          tableExit := (w 0x03).toNat * 1000, festoonCapacity := (w 0x04).toNat * 1000,
          festoonFill := (w 0x05).toNat * 1000, ovenLength := (w 0x06).toNat * 1000, seamDistance := (w 0x07).toNat * 1000,
          guardBefore := (w 0x08).toNat * 1000, guardAfter := (w 0x09).toNat * 1000, seamSpacing := (w 0x0A).toNat * 1000,
          actuationTimeout := (w 0x0B).toNat, correctionRange := (w 0x0C).toNat, captureLimit := (w 0x0D).toNat,
          deadband := (w 0x0E).toNat, gain := (w 0x10).toNat, maxStep := (w 0x11).toNat,
          readerDistance := (w 0x12).toNat * 1000, window := (w 0x13).toNat * 1000, tolerance := (w 0x14).toNat,
          missLimit := (w 0x15).toNat, evaluationTime := (w 0x16).toNat, zones := f.zones, doseExponent := (w 0x18).toNat,
          staleLimit := (w 0x19).toNat, setbackDelay := (w 0x1A).toNat, dMin := (w 0x1B).toNat, dMax := (w 0x1C).toNat,
          standstillTime := (w 0x1D).toNat, highMark := (w 0x1E).toNat * 1000, resumeMark := (w 0x1F).toNat * 1000,
          stations := f.stations, pages := f.pages } ∧
    f.zones.length = min (w 0x17).toNat 12 ∧
    (∀ z a b, f.zones[z]? = some (a, b) → a = (w (0xC0 + 2 * z)).toNat * 1000 ∧ b = (w (0xC1 + 2 * z)).toNat * 1000) ∧
    (∀ i : Station,
      (w (0x40 + 8 * i.val) = 1#32 → f.stations.get i =
        { inService := true, distance := (w (0x41 + 8 * i.val)).toNat * 1000, lead := (w (0x42 + 8 * i.val)).toNat * 1000,
          circumference := (w (0x43 + 8 * i.val)).toNat, base := (w (0x44 + 8 * i.val)).toInt,
          markOffset := (w (0x45 + 8 * i.val)).toNat }) ∧
      (w (0x40 + 8 * i.val) ≠ 1#32 → (f.stations.get i).inService = false)) ∧
    ∀ p : Page, (f.pages.get p).length = min (w (0x100 + 32 * p.val)).toNat 16 ∧
      ∀ k a, (f.pages.get p)[k]? = some a →
        a.1 = ((w (0x101 + 32 * p.val + k)).extractLsb' 0 16).toNat ∧
        a.2 = ((w (0x101 + 32 * p.val + k)).extractLsb' 16 16).toNat

/-- The profile check gives the first item of the table of R173 that fails, with its item number, and passes if none fails; the
ranges of item 1 are those of the chapters' field tables, F0 against 0..200,000 mm. -/
def Obligations.ProfileChecksFollowTheItems : Prop :=
  ∀ (general : List (Nat × Nat × Nat)) (w : Nat → Word),
    general =
      [(0x00, 1, 500), (0x01, 1, 500), (0x02, 50, 1000), (0x03, 2000, 60000), (0x04, 1000, 200000), (0x05, 0, 200000),
       (0x06, 5000, 150000), (0x07, 200, 30000), (0x08, 0, 5000), (0x09, 0, 5000), (0x0A, 0, 20000), (0x0B, 100, 5000),
       (0x0C, 0, 20000), (0x0D, 0, 100000), (0x0E, 0, 5000), (0x10, 1, 16), (0x11, 1, 5000), (0x12, 100, 58000),
       (0x13, 1, 50), (0x14, 1, 65535), (0x15, 1, 15), (0x16, 200, 20000), (0x17, 1, 12), (0x18, 5, 10),
       (0x19, 100, 10000), (0x1A, 1, 600), (0x1B, 0, 4294967), (0x1C, 0, 4294967), (0x1D, 200, 10000), (0x1E, 1, 200000),
       (0x1F, 0, 199999)] →
    (∀ k n, profileFault w = some (k, n) ↔ ItemFails general w k n ∧ ∀ j m, j < k → ¬ItemFails general w j m) ∧
    (profileFault w = none ↔ ∀ k n, ¬ItemFails general w k n)

/-- The last word of a profile read ends the load: a failing item rejects it with PROFILE_REJECTED and leaves every block as
it was (R174); otherwise every block takes its values for a completed load, the festoon content is delivered and the permit
judged (R175). The values no rule gives are the model's (log entry 1). -/
def Obligations.LastProfileWordEndsTheLoad : Prop :=
  ∀ (s : State) (h : InHand) (o : Nat) (host : Option Word) (w : Nat → Word), s.lc.line = .loading →
    s.xi.inHand = some h → h.transaction = .profileRead → h.access = readAt o → h.rest = [] → h.discarded = false →
    s.xi.queue = [] → s.xi.suspended = false →
    (∀ i, w i = wordAt ((o, readWord (accessMemory s.mem h host) h.address.toNat) :: h.got) (4 * i)) →
    (∀ reason item, profileFault w = some (reason, item) →
      exec (.memoryAccessDone host) s = .next { s with
        mem := accessMemory s.mem h host
        busy := false
        lc := { s.lc with line := .unloaded, permit := false }
        xi := { s.xi with
          inHand := none
          timer := .stopped
          queue := [.report
            { kind := .profileRejected, tag := 0#32, station := 0#32, serial := 0#32, clock := s.clock,
              first := wordOfNat reason, second := wordOfNat item }] }
        events := { s.events with cmdDone := true }
        draws := s.draws + 1 }) ∧
    (profileFault w = none →
      ∃ t, exec (.memoryAccessDone host) s = .next t ∧
        t.prof = profileOf w ∧ t.mem = accessMemory s.mem h host ∧ t.exbase = s.exbase ∧ t.pins = s.pins ∧
        t.clock = s.clock ∧ t.pending = s.pending ∧
        t.wt = { resetTracker with k := t.prof.festoonFill + t.prof.tableExit } ∧
        t.cp = { resetPlanner with detector := if s.pins.seamLevel then .latched else .idle } ∧
        t.os = resetSequencer ∧ t.mr = resetReader ∧ t.co = resetCloseOut ∧
        (∀ i, t.chan i = if (t.stationCfg i).inService then { resetChannel with state := .lifted } else resetChannel) ∧
        (∀ i, t.phase i =
          if (t.stationCfg i).inService then
            { resetPhaseStation with
              base := (t.stationCfg i).base
              target := targetOf (-((t.stationCfg i).distance : Int) - (t.stationCfg i).base)
                (t.stationCfg i).circumference }
          else resetPhaseStation) ∧
        t.pu.orders = [] ∧ t.pu.lastSet = 0#16 ∧ t.pu.switches = [] ∧
        t.ci = { resetCure with doseTimer := .running s.clock, setbackStart := s.clock } ∧
        t.lc.line = .ready ∧ t.lc.firstFault = none ∧ t.lc.engaged = false ∧ t.lc.standstill = .stopped ∧
        t.lc.holds = { festoon := decide (t.prof.highMark ≤ t.prof.festoonFill) } ∧
        t.lc.permit = decide (t.prof.festoonFill < t.prof.highMark) ∧
        t.busy = false ∧ t.events.cmdDone = true ∧
        t.xi.queue.head? = some (.report
          { kind := .profileLoaded, tag := 0#32, station := 0#32, serial := 0#32, clock := s.clock,
            first := (inServiceSet t.prof).setWidth 32, second := wordOfNat t.prof.zones.length }) ∧
        (t.prof.festoonFill < t.prof.highMark → t.xi.queue.length = 1) ∧ t.xi.inHand = none ∧
        t.xi.written = s.xi.written)

/-- An accepted UNLOAD: UNLOADED, no permit, an empty hold set, every block at its reset values, no profile. A waiting close-out
makes its steps 4 and 5 at once (R142; ExitIsJudgedAndCounted); then the abandonment writes in take order and HOLD_OFF are
queued, the reads of the next order leave the queue, and one in hand is discarded. The command stays busy exactly while a
transaction is queued or in hand, and otherwise ends now; during a suspension no write is made, and it ends now (R51, R155,
R162, R166, R176). `SuspensionLaw` is an invariant (RingAndMemoryLawsKept). The profile's and the planner's zeros where no rule
gives a value are the model's (log entry 1), as are the proof words of an abandoned order (log entry 19), the tag and serial of
that HOLD_OFF and the line state from stage 4 on (log entries 25 and 27). Read from the rules by inference: the waiting
close-out gives no exit horizon, so no order closes after it (log entry 26); HOLD_OFF during a suspension is a lost posting,
which sets GAP (log entry 21); the writes of a refusal in hand go on (log entry 9); the setback start returns to 0, from R130
and R176 (log entry 38). -/
def Obligations.UnloadEndsTheProfile : Prop :=
  ∀ s : State, Commandable s → s.lc.line = .ready →
    ∃ t w v, exec .unload s = .next t ∧
      t.lc = { resetLine with holdStart := s.lc.holdStart } ∧ t.wt = resetTracker ∧ t.cp = resetPlanner ∧
      t.os = resetSequencer ∧ (∀ i, t.chan i = resetChannel) ∧ t.pu = resetPhaseUnit ∧ t.mr = resetReader ∧
      t.ci = resetCure ∧ t.co = resetCloseOut ∧ t.prof = noProfile ∧
      t.exbase = s.exbase ∧ t.pins = s.pins ∧ t.clock = s.clock ∧ t.pending = s.pending ∧ t.mem = s.mem ∧
      (t.busy = true ∨ (t.xi = resetExchange ∧ t.events.cmdDone = true)) ∧
      (s.xi.suspended = false → s.co.waiting = none → waitingReports s.xi.queue < 48 → t.busy = true →
        t.xi.queue = s.xi.queue.filter (fun x => !isOrderRead x) ++
          (s.os.table.filter fun r => !r.closing).map (fun r => .abandonWrite r.slot (resultWords r .abandoned)) ++
          (if s.lc.holds.any then
            [.report
              { kind := .holdOff, tag := 0#32, station := 0#32, serial := 1#32, clock := s.clock,
                first := wordOfNat s.lc.holds.mask, second := s.clock - s.lc.holdStart }]
          else [])) ∧
      (∀ n r rest d, s.co.waiting = some n → s.wt.map = r :: rest → r.serial = n → d = r.verdict.getD (defectsOf r) →
        w = followRun (tallySegment s r d) r d) ∧
      (s.co.waiting = none ∨ s.wt.map = [] ∨ (∃ r, s.wt.map.head? = some r ∧ s.co.waiting ≠ some r.serial) → w = s) ∧
      v = { w with xi := { w.xi with
        queue := w.xi.queue.filter (fun x => !isOrderRead x) ++
          (if s.xi.suspended then []
          else (w.os.table.filter fun r => !r.closing).map fun r => .abandonWrite r.slot (resultWords r .abandoned))
        inHand := w.xi.inHand.map discardInHand } } ∧
      (∀ h, isOrderRead h.transaction = true → h.stage ≠ .refusing → (discardInHand h).discarded = true) ∧
      (∀ y, y = (if s.lc.holds.any then
            afterReport v
              { kind := .holdOff, tag := 0#32, station := 0#32, serial := 1#32, clock := s.clock,
                first := wordOfNat s.lc.holds.mask, second := s.clock - s.lc.holdStart }
          else v) →
        (y.xi.queue ≠ [] ∨ y.xi.inHand.isSome = true → t.busy = true ∧ t.xi = y.xi ∧ t.events = y.events) ∧
        (y.xi.queue = [] → y.xi.inHand = none →
          t.busy = false ∧ t.xi = resetExchange ∧ t.events = { y.events with cmdDone := true })) ∧
      (s.xi.suspended = true → SuspensionLaw s →
        t.busy = false ∧ t.xi = resetExchange ∧ t.events.cmdDone = true)

/-- Power-on and the RESET pin bring every block and register to its reset value, from any state, and leave the exchange area
(R19, R50, R64, R83, R99, R113, R130, R143, R155, R166, R177); counts, frames and sensor changes then change none of them, and
RESET_RELEASE starts the line clock from 0. Board memory, the pin levels and the values no rule gives, the seam rise position
and its travel among them, are the model's choice (log entries 1 and 22). -/
def Obligations.ResetBringsTheResetValues : Prop :=
  ∀ (s : State) (c : ResetCause), ∃ t, exec (.reset c) s = .next t ∧
    t.wt = { p := 0, q := 0, k := 0, lastCut := 0, printDebt := 0, ovenDebt := 0, printReverse := .none,
             ovenReverse := .none, map := [], nextSerial := 1, lost := false, underrun := none, overfillArmed := true,
             limitPosted := false, horizon := none } ∧
    (∀ a, readByte t.mem a = readByte s.mem a) ∧
    (∀ i,
      t.chan i =
        { state := .out, reason := none, pendingLower := false, lastRequired := false, timer := .stopped, manual := false,
          pressure := 0#3, leads := [], points := [] } ∧
      liftDown (t.chan i) = false ∧ pasteOn (t.chan i) = false ∧ (t.stationCfg i).inService = false) ∧
    (∀ i, t.phase i =
      { base := 0, trim := 0, correction := 0, origin := 0, captured := false, settle := none, limitFlag := false,
        target := 0 }) ∧
    t.pu.orders = [] ∧ t.pu.lastSet = 0#16 ∧ t.pu.switches = [] ∧
    (∀ z, t.zone z = { temperature := 0, fresh := false, timer := .stopped }) ∧
    (t.prof.zones = [] ∧ ∀ p, pageInUse t.prof p = []) ∧ t.ci.doseTimer = .stopped ∧ t.ci.setbackTimer = .stopped ∧
    t.ci.setback = true ∧ t.ci.setbackStart = 0#32 ∧ t.ci.alerts = 0#64 ∧
    t.cp = { pending := [], marks := [], detector := .idle, risePosition := 0, travel := 0, seams := [], lift := 0#16,
             pressure := 0#3, inside := false } ∧
    t.os = { next := 0, entry := none, status := .empty, pastConfirm := false, copy := none, table := [] } ∧
    (t.mr.cursors = [] ∧ t.mr.schedules = [] ∧ t.mr.reader = .idle ∧ t.mr.current = none ∧ t.mr.timer = .stopped ∧
      ∀ i, t.mr.misses.get i = 0) ∧
    t.co = { run := none, waiting := none } ∧
    t.lc = { line := .unloaded, holds := {}, holdStart := 0#32, firstFault := none, engaged := false, standstill := .stopped,
             permit := false } ∧
    t.xi = { queue := [], inHand := none, timer := .stopped, written := 0#16, retired := 0#16, lost := 0, firstLoss := 0#32,
             suspended := false, held := none } ∧
    t.exbase = 0#32 ∧ t.busy = false ∧ t.events = {} ∧ interrupt t = false ∧ t.clock = 0#32 ∧ festoonUnits t = 0 ∧
    (∀ x, x = .printForwardCount ∨ x = .ovenForwardCount ∨ (∃ e, x = .reverseCount e) ∨ (∃ n l, x = .zoneFrame n l) →
      exec x t = .next t) ∧
    (∀ i k b, ∃ u, exec (.stationSensorChange i k b) t = .next u ∧ u = { t with pins := u.pins }) ∧
    t.pins = { s.pins with resetAsserted := decide (c = .pin) || s.pins.resetAsserted } ∧
    (t.pins.resetAsserted = true →
      exec .resetRelease t = .next { t with pins.resetAsserted := false, clock := 0#32 }) ∧
    (∀ u : State, u.pins.resetAsserted = false → exec .resetRelease u = .next u)

/-! ### The register window (Chapters 11 and 12) -/

/-- EXBASE takes a multiple of 4096 up to 0xFFFE9000 in UNLOADED with command busy clear (R167); RETIRE takes a count within
what has been written, in READY and PRINTING (R165); any other write of theirs only sets WRITE_IGNORED; a read of EVENTS
returns the causes and clears them (R169). The word on the bus
is held in a field of the model's own (log entry 10). -/
def Obligations.RegisterAccessesAreJudged : Prop :=
  ∀ (s : State) (v : Word),
    (s.pins.resetAsserted = false →
      (s.lc.line = .unloaded → s.busy = false → v.toNat % 4096 = 0 → v.toNat ≤ 0xFFFE9000 →
        exec (.exbaseWrite v) s = .next { s with exbase := v }) ∧
      (s.lc.line ≠ .unloaded ∨ s.busy = true ∨ v.toNat % 4096 ≠ 0 ∨ 0xFFFE9000 < v.toNat →
        exec (.exbaseWrite v) s = .next { s with events.writeIgnored := true }) ∧
      (lineOpen s = true → (v.extractLsb' 0 16 - s.xi.retired).toNat ≤ (s.xi.written - s.xi.retired).toNat →
        exec (.retireWrite v) s = .next { s with xi.retired := v.extractLsb' 0 16 }) ∧
      (lineOpen s = false ∨ (s.xi.written - s.xi.retired).toNat < (v.extractLsb' 0 16 - s.xi.retired).toNat →
        exec (.retireWrite v) s = .next { s with events.writeIgnored := true })) ∧
    (∃ t, exec .eventsRead s = .next t ∧ t = { s with events := {}, busRead := t.busRead } ∧ interrupt t = false ∧
      t.busRead.getLsbD 0 = s.events.report ∧ t.busRead.getLsbD 1 = s.events.gap ∧ t.busRead.getLsbD 2 = s.events.hold ∧
      t.busRead.getLsbD 3 = s.events.fault ∧ t.busRead.getLsbD 4 = s.events.cmdDone ∧
      t.busRead.getLsbD 5 = s.events.cmdRefused ∧ t.busRead.getLsbD 6 = s.events.writeIgnored ∧
      t.busRead.toNat < 128)

/-- Writes to STATUS and EVENTS, reads of COMMAND and RETIRE, and the registers while the RESET pin is asserted (R170).
`ResetLaw` is an invariant (ResetAndEntryLawsKept). -/
def Obligations.RegisterReadsAndIgnoredWrites : Prop :=
  ∀ (s : State) (r : ReadOnlyReg) (v : Word),
    (s.pins.resetAsserted = false →
      exec (.registerWriteIgnored r v) s = .next { s with events.writeIgnored := true }) ∧
    commandWord s = 0#32 ∧ retireWord s = s.xi.retired.setWidth 32 ∧
    (s.pins.resetAsserted = false → s.lc.line = .unloaded ∨ s.lc.line = .loading →
      exec (.retireWrite v) s = .next { s with events.writeIgnored := true }) ∧
    (s.pins.resetAsserted = true → ResetLaw s →
      exbaseWord s = 0#32 ∧ commandWord s = 0#32 ∧ retireWord s = 0#32 ∧ statusWord s = 0x4040#32 ∧
        s.events.word = 0#32 ∧ exec .eventsRead s = .next s ∧
        (∀ x, x = .registerWriteIgnored r v ∨ x = .exbaseWrite v ∨ x = .retireWrite v ∨ writesCommand x = true →
          WellFormed x = true → exec x s = .next s))

/-- A refused command sets CMD_REFUSED and does nothing else: with command busy set, outside the line states that accept it,
for an undefined code, and for a TRIM of no station in service (R171). -/
def Obligations.RefusedCommandsHaveNoEffect : Prop :=
  ∀ s : State, s.pins.resetAsserted = false →
    (s.busy = true → ∀ c, writesCommand c = true → WellFormed c = true →
      exec c s = .next { s with events.cmdRefused := true }) ∧
    (s.lc.line ≠ .unloaded → exec .loadProfile s = .next { s with events.cmdRefused := true }) ∧
    (s.lc.line ≠ .ready → exec .unload s = .next { s with events.cmdRefused := true }) ∧
    (s.lc.line ≠ .printing → exec .abortOrder s = .next { s with events.cmdRefused := true }) ∧
    (lineOpen s = false → ∀ c, writesCommand c = true → WellFormed c = true → c ≠ .loadProfile →
      exec c s = .next { s with events.cmdRefused := true }) ∧
    (∀ n : BitVec 8, n = 0#8 ∨ 11 ≤ n.toNat →
      exec (.commandCodeUndefined n) s = .next { s with events.cmdRefused := true }) ∧
    (∀ (st : BitVec 5) (d : BitVec 16), st = 0#5 ∨ 16 < st.toNat ∨
      (∃ i : Station, st.toNat = i.val + 1 ∧ (s.stationCfg i).inService = false) →
      exec (.trim st d) s = .next { s with events.cmdRefused := true })

/-- A word written to COMMAND: the code in bits 0..7, the station number in bits 8..12, the operand in bits 16..31; bits 13..15
are not looked at; code 0 and codes 11..255 name no command (R184). Such a word put in front of the queue is the command that
the next step runs (log entry 31). -/
def Obligations.CommandWordsAreRead : Prop :=
  ∀ (w : Word) (code : BitVec 8) (station : BitVec 5) (unused : BitVec 3) (operand : BitVec 16),
    w.toNat = code.toNat + 2 ^ 8 * station.toNat + 2 ^ 13 * unused.toNat + 2 ^ 16 * operand.toNat →
    WellFormed (commandOfWord w) = true ∧ writesCommand (commandOfWord w) = true ∧
    (code = 1#8 → commandOfWord w = .loadProfile) ∧ (code = 2#8 → commandOfWord w = .unload) ∧
    (code = 3#8 → commandOfWord w = .signal) ∧ (code = 4#8 → commandOfWord w = .hold) ∧
    (code = 5#8 → commandOfWord w = .resume) ∧ (code = 6#8 → commandOfWord w = .abortOrder) ∧
    (code = 7#8 → commandOfWord w = .clearFault) ∧ (code = 8#8 → commandOfWord w = .liftSet operand) ∧
    (code = 9#8 → commandOfWord w = .liftClear operand) ∧ (code = 10#8 → commandOfWord w = .trim station operand) ∧
    (code = 0#8 ∨ 10 < code.toNat → commandOfWord w = .commandCodeUndefined code) ∧
    decodeTableWord 32 w.toNat = some (commandOfWord w) ∧
    ∀ s : State, step (s.withFetchWord 32 w.toNat) = exec (commandOfWord w) s

/-- STATUS field by field: the line and slot code, the hold causes, the first fault reason, SETBACK, the lost flag and the
festoon content (R184, R185). PRINTING without an entry order, which ResetAndEntryLawsKept rules out of every run, shows 67:
the model's choice (log entry 12). -/
def Obligations.StatusShowsTheLine : Prop :=
  ∀ s : State,
    ((statusWord s).extractLsb' 0 7).toNat =
      (match s.lc.line, s.os.entry with
      | .printing, some i => i.val
      | .unloaded, _ => if s.busy then 65 else 64
      | .loading, _ => 66
      | _, _ => 67) ∧
    (statusWord s).getLsbD 7 = s.lc.holds.host ∧ (statusWord s).getLsbD 8 = s.lc.holds.order ∧
    (statusWord s).getLsbD 9 = s.lc.holds.festoon ∧ (statusWord s).getLsbD 10 = s.lc.holds.standstill ∧
    ((statusWord s).extractLsb' 11 3).toNat = faultCode s.lc.firstFault ∧
    (statusWord s).getLsbD 14 = s.ci.setback ∧ (statusWord s).getLsbD 15 = decide (0 < s.xi.lost) ∧
    ((statusWord s).extractLsb' 16 16).toNat = if lineOpen s then min (festoon s / 10000).toNat 65535 else 0

/-! ### The exchange area (Chapter 10) -/

/-- TRANSACTION_START takes the oldest transaction when none is in hand and XI is not suspended, and begins its first access at
EXBASE plus the offset with the timer started; otherwise it does nothing (R157, R159, R160). The service of a report: its record
into slot W mod 256, behind a GAP record if reports were lost; a full ring loses it, and with one free slot the GAP record alone
is written (R163, R164); a report lost so as the last transaction of an UNLOAD ends the command (R166, R176). That the GAP
record's words are fixed when the service begins is the model's choice (log entry 20). -/
def Obligations.ServiceBeginsTheOldest : Prop :=
  ∀ (s : State) (rest : List Transaction),
    (s.xi.inHand.isSome = true ∨ s.xi.suspended = true ∨ s.xi.queue = [] → exec .transactionStart s = .next s) ∧
    (s.xi.inHand = none → s.xi.suspended = false →
      (s.xi.queue = .profileRead :: rest →
        BeginsService s .profileRead rest false (readAt 0) ((List.range 1023).map fun i => readAt (4 * (i + 1)))) ∧
      (∀ i : Slot,
        (s.xi.queue = .slotRead i :: rest →
          BeginsService s (.slotRead i) rest false (readAt (0x1000 + 256 * i.val)) []) ∧
        (s.xi.queue = .confirmRead i :: rest →
          BeginsService s (.confirmRead i) rest false (readAt (0x1000 + 256 * i.val))
            [readAt (0x1000 + 256 * i.val + 8)]) ∧
        (s.xi.queue = .takeWrite i :: rest →
          BeginsService s (.takeWrite i) rest false (writeAt (0x1000 + 256 * i.val) 2#32) []) ∧
        (∀ w ws c, s.xi.queue = .closeWrite i (w :: ws) c :: rest →
          BeginsService s (.closeWrite i (w :: ws) c) rest false (writeAt (0x1000 + 256 * i.val + 0xC0) w)
            (writesFrom (0x1000 + 256 * i.val + 0xC4) ws ++ [writeAt (0x1000 + 256 * i.val) 3#32])) ∧
        (∀ w ws, s.xi.queue = .abandonWrite i (w :: ws) :: rest →
          BeginsService s (.abandonWrite i (w :: ws)) rest false (writeAt (0x1000 + 256 * i.val + 0xC0) w)
            (writesFrom (0x1000 + 256 * i.val + 0xC4) ws ++ [writeAt (0x1000 + 256 * i.val) 3#32]))) ∧
      (∀ n a b c d e, s.xi.queue = .mapWrite n [a, b, c, d, e] :: rest →
        BeginsService s (.mapWrite n [a, b, c, d, e]) rest false (writeAt (0x7000 + 16 * (n % 4096)) a)
          [writeAt (0x7000 + 16 * (n % 4096) + 4) b, writeAt (0x7000 + 16 * (n % 4096) + 8) c,
           writeAt (0x7000 + 16 * (n % 4096) + 12) d, writeAt (0x7000 + 16 * (n % 4096)) e])) ∧
    ∀ p : Posting, s.xi.inHand = none → s.xi.suspended = false → s.xi.queue = .report p :: rest →
      (ringUsed s.xi < 256 → s.xi.lost = 0 →
        BeginsService s (.report p) rest false (recordStart p s.xi.written) (recordRest p s.xi.written .recordDone)) ∧
      (ringUsed s.xi ≤ 254 → 0 < s.xi.lost →
        BeginsService s (.report p) rest false (recordStart (lossPosting s) s.xi.written)
          (recordRest (lossPosting s) s.xi.written .gapDone ++
            recordStart p (s.xi.written + 1) :: recordRest p (s.xi.written + 1) .recordDone)) ∧
      (ringUsed s.xi = 255 → 0 < s.xi.lost →
        BeginsService s (.report p) rest true (recordStart (lossPosting s) s.xi.written)
          (recordRest (lossPosting s) s.xi.written .gapDone)) ∧
      (∀ u, 256 ≤ ringUsed s.xi →
        u = { s with
          xi := { s.xi with
            queue := rest
            lost := min (s.xi.lost + 1) 65535
            firstLoss := if s.xi.lost = 0 then s.clock else s.xi.firstLoss }
          events := { s.events with gap := true } } →
        (s.lc.line ≠ .unloaded ∨ s.busy = false ∨ rest ≠ [] → exec .transactionStart s = .next u) ∧
        (s.lc.line = .unloaded → exec .transactionStart s = .next (unloadServed u)))

/-- MEMORY_ACCESS_DONE, of whatever access is in hand, in every line state: a write reaches the four bytes of its address and no
other, a read takes the word there, and without an access nothing happens (R159). Between two accesses the next one begins; a
discarded read ends (R29). The last word of a record counts into W with REPORT, and a GAP record clears the lost count (R163,
R164); after the last write of a report, a take or an abandonment the port is free; after that of a close ORDER_CLOSED is posted
and the order's records go before the next is tested (R47, R48, R98); after that of a quality map entry its segment leaves the
map (R17; CloseOutSettlesTheOldestExit). The completion that leaves an UNLOAD nothing to serve ends it: XI at its reset values,
command busy clear, CMD_DONE (R166, R176). Host writes appear at the read (log entry 2); the station of ORDER_CLOSED is free
(log entry 4). `MemoryLaw` is an invariant (RingAndMemoryLawsKept). -/
def Obligations.AccessesMoveTheirWord : Prop :=
  ∀ (s : State) (host : Option Word),
    (s.xi.inHand = none → exec (.memoryAccessDone host) s = .next s) ∧
    ∀ h : InHand, s.xi.inHand = some h → MemoryLaw s →
      (∃ t, exec (.memoryAccessDone host) s = .next t ∧ MovesWord s t h host ∧ t.pins = s.pins ∧ t.exbase = s.exbase ∧
        t.clock = s.clock) ∧
      (h.discarded = true →
        ∃ t, AccessEnds s host t ∧ AccessMoves s t h ∧ t.xi.inHand = none ∧ t.xi.timer = .stopped ∧
          t.xi.queue = s.xi.queue ∧ t.os = s.os) ∧
      (∀ a more, h.discarded = false → h.rest = a :: more →
        ∃ t, exec (.memoryAccessDone host) s = .next t ∧ AccessMoves s t h ∧
          t.xi.timer = .running s.clock ∧
          t.xi.inHand = some { h with
            access := a
            address := s.exbase + wordOfNat a.offset
            rest := more
            got := if h.access.write = none then (h.access.offset, readWord t.mem h.address.toNat) :: h.got else h.got } ∧
          t.xi.queue = s.xi.queue ∧ t.os = s.os) ∧
      (h.discarded = false → h.rest = [] →
        (∃ p, h.transaction = .report p ∧ h.loseAfterGap = false) ∨ (∃ i, h.transaction = .takeWrite i) ∨
          (∃ i ws, h.transaction = .abandonWrite i ws) →
        ∃ t, AccessEnds s host t ∧ AccessMoves s t h ∧ t.xi.timer = .stopped ∧
          t.xi.inHand = none ∧ t.xi.queue = s.xi.queue ∧ t.os = s.os) ∧
      (∀ p, h.discarded = false → h.rest = [] → h.transaction = .report p → h.loseAfterGap = true →
        h.access.mark = .gapDone →
        ∃ t, AccessEnds s host t ∧ t.xi.inHand = none ∧ t.xi.written = s.xi.written + 1 ∧
          t.xi.lost = 1 ∧ t.xi.firstLoss = s.clock ∧ t.events = { s.events with report := true, gap := true } ∧
          t.xi.queue = s.xi.queue) ∧
      (∀ n ws u, h.discarded = false → h.rest = [] → h.transaction = .mapWrite n ws → h.access.mark = .plain →
        u = { s with mem := accessMemory s.mem h host, xi.inHand := none, xi.timer := .stopped } →
        AccessEnds s host (finishExit u n)) ∧
      (∀ i ws c u, h.discarded = false → h.rest = [] → h.transaction = .closeWrite i ws c →
        h.access.mark = .plain →
        u = { s with mem := accessMemory s.mem h host, xi.inHand := none, xi.timer := .stopped } →
        ∃ v station, station.toNat ≤ 16 ∧
          v = afterReport u
            { kind := .orderClosed, tag := c.tag, station := station, serial := wordOfNat c.lastSerial, clock := s.clock,
              first := wordOfNat i.val, second := wordOfNat c.outcome.code } ∧
          AccessEnds s host (testClose { v with
            os.table := s.os.table.filter fun r => !(r.slot == i && r.order.tag == c.tag)
            pu.orders := s.pu.orders.filter fun o => o.tag != c.tag }))

/-- MEMORY_ACCESS_TIMEOUT, once the access is 1 ms old: in READY and PRINTING XI is suspended with the held fault, every
transaction ends, the one in hand first and the waiting ones in queue order, each by the outcome table of R161, and FAULT is
raised with BUS_FAULT (R161); in LOADING the load is rejected with BUS_FAULT (R172, R174); in UNLOADED the transaction in hand
ends by the same table, and UNLOAD's next may begin or the command end (R51, R162, R176). The table: a read of the next order
leaves it EMPTY or BARRED; a close write clears the order's closing, so that the close is made again (R48); a quality map write
lets its close-out go on (R136; CloseOutSettlesTheOldestExit); a report is lost, counted and shown by GAP (R164); a discarded
read and a refusal have no more effect (log entry 9). The sequence word of a report record and the last serial of a quality map
entry do not reach memory (R136, R158, R174, R175); whether another write did is free (log entry 5). BARRED stays BARRED, any
other status becomes EMPTY, a HELD or SETTLED copy among them as log entry 11 reads R34. That a report whose writing times out
in UNLOADED is lost and sets GAP is the model's reading (log entry 21). Without an access in hand, or within its first ms,
nothing happens (log entry 3). -/
def Obligations.TimeoutsEndTheAccess : Prop :=
  ∀ s : State,
    (s.xi.inHand = none ∨ ¬Due s.xi.timer 1 s.clock → exec .memoryAccessTimeout s = .next s) ∧
    (∀ h : InHand, s.xi.inHand = some h → Due s.xi.timer 1 s.clock →
      (∃ t, exec .memoryAccessTimeout s = .next t ∧
        (∀ a, a < h.address.toNat ∨ h.address.toNat + 4 ≤ a ∨ h.access.write = none →
          readByte t.mem a = readByte s.mem a) ∧
        ((∃ p, h.transaction = .report p) → h.access.mark ≠ .plain → t.mem = s.mem) ∧
        ((∃ n ws, h.transaction = .mapWrite n ws) → h.rest = [] → t.mem = s.mem) ∧
        t.xi.inHand = none ∧ t.xi.timer = .stopped ∧ t.pins = s.pins ∧ t.exbase = s.exbase ∧ t.pending = s.pending) ∧
      (lineOpen s = true →
        ∃ t, exec .memoryAccessTimeout s = .next t ∧
          t.xi.suspended = true ∧
          t.xi.held = some { offset := h.access.offset, write := h.access.write.isSome, clock := s.clock } ∧
          t.xi.queue = [] ∧ t.xi.written = s.xi.written ∧ t.xi.retired = s.xi.retired ∧
          t.os.copy = none ∧ t.os.status = (if s.os.status = .barred then .barred else .empty) ∧ t.lc.line = s.lc.line ∧
          t.lc.holds = { s.lc.holds with fault := true } ∧ t.lc.firstFault = some (s.lc.firstFault.getD .busFault) ∧
          t.events.fault = true ∧ (s.lc.holds.any = false → t.lc.permit = false) ∧ t.prof = s.prof ∧ t.busy = s.busy ∧
          ∀ u, u = { s with
              mem := t.mem
              draws := if h.access.write.isSome then s.draws + 1 else s.draws
              os := { s.os with copy := none, status := if s.os.status = .barred then .barred else .empty }
              xi := { s.xi with
                inHand := none
                timer := .stopped
                queue := []
                suspended := true
                held := some { offset := h.access.offset, write := h.access.write.isSome, clock := s.clock } } } →
            RaisesFault
              (s.xi.queue.foldl endedByFault
                (if h.discarded = true ∨ h.stage = .refusing then u else endedByFault u h.transaction))
              t .busFault) ∧
      (s.lc.line = .loading → h.access.write = none →
        exec .memoryAccessTimeout s = .next { s with
          busy := false
          lc := { s.lc with line := .unloaded, permit := false }
          xi := xiAfterReport { s with xi.inHand := none, xi.timer := .stopped }
            { kind := .profileRejected, tag := 0#32, station := 0#32, serial := 0#32, clock := s.clock,
              first := 14#32, second := wordOfNat h.access.offset }
          events := { eventsAfterReport s with cmdDone := true }
          draws := s.draws + 1 }) ∧
      (s.lc.line = .unloaded → h.access.write.isSome = true →
        (∃ i ws, h.transaction = .abandonWrite i ws) ∨ (∃ i, h.transaction = .takeWrite i) →
        ∃ mem, (s.xi.queue ≠ [] ∨ s.busy = false →
            exec .memoryAccessTimeout s = .next
              { s with mem := mem, draws := s.draws + 1, xi := { s.xi with inHand := none, timer := .stopped } }) ∧
          (s.xi.queue = [] → s.busy = true →
            exec .memoryAccessTimeout s = .next { s with
              mem := mem
              draws := s.draws + 1
              xi := { queue := [], inHand := none, timer := .stopped, written := 0#16, retired := 0#16, lost := 0,
                      firstLoss := 0#32, suspended := false, held := none }
              busy := false
              events := { s.events with cmdDone := true } })) ∧
      (s.lc.line = .unloaded → (∃ p, h.transaction = .report p) → h.discarded = false → h.stage ≠ .refusing →
        ∃ t, exec .memoryAccessTimeout s = .next t ∧ t.xi.suspended = (s.xi.suspended && (!s.busy || !s.xi.queue.isEmpty)) ∧
          t.lc = s.lc ∧ t.events.gap = true) ∧
      (s.lc.line = .unloaded → ∃ t, exec .memoryAccessTimeout s = .next t ∧
        ∀ u, u = { s with
            mem := t.mem
            draws := if h.access.write.isSome then s.draws + 1 else s.draws
            xi := { s.xi with inHand := none, timer := .stopped } } →
          t = unloadServed (if h.discarded = true ∨ h.stage = .refusing then u else endedByFault u h.transaction))) ∧
    endedByFault s .profileRead = s ∧
    (∀ (i : Slot) (ws : List Word) (c : CloseReport),
      endedByFault s (.takeWrite i) = s ∧ endedByFault s (.abandonWrite i ws) = s ∧
      (∀ t, t = .slotRead i ∨ t = .confirmRead i → endedByFault s t =
        { s with os := { s.os with copy := none, status := if s.os.status = .barred then .barred else .empty } }) ∧
      endedByFault s (.closeWrite i ws c) =
        { s with os.table := modifyFirst (fun r => r.slot == i) (fun r => { r with closing := false }) s.os.table }) ∧
    (∀ n ws, endedByFault s (.mapWrite n ws) = finishExit s n) ∧
    ∀ p, endedByFault s (.report p) = { s with
      xi := { s.xi with
        lost := min (s.xi.lost + 1) 65535
        firstLoss := if s.xi.lost = 0 then s.clock else s.xi.firstLoss }
      events := { s.events with gap := true } }

/-! ### Laws that every command keeps -/

/-- The permit rule, the law of holds and the FAULT law are kept by every command (R77, R148, R185), and so is the law of the
engaged indication: yes exactly while a channel is ENGAGED, the standstill timer stopped while it is no (R68, R150). -/
def Obligations.LineLawsKept : Prop :=
  ∀ (c : Instr) (s t : State), exec c s = .next t → (LineLaws s → LineLaws t) ∧ (EngagedLaw s → EngagedLaw t)

/-- PRINT PERMIT is judged at every event: after any command the permit is asserted exactly in READY and PRINTING with an
empty hold cause set, and a load whose initial fill lies at or above the high mark never asserts it (R148). -/
def Obligations.PermitIsJudgedAtEveryEvent : Prop :=
  ∀ (c : Instr) (s t : State), exec c s = .next t → LineLaws s →
    (t.lc.permit = true ↔ (t.lc.line = .ready ∨ t.lc.line = .printing) ∧
      t.lc.holds.host = false ∧ t.lc.holds.order = false ∧ t.lc.holds.festoon = false ∧ t.lc.holds.standstill = false ∧
        t.lc.holds.fault = false) ∧
    (s.lc.line = .loading → t.lc.line = .ready → t.prof.highMark ≤ t.prof.festoonFill →
      t.lc.holds.festoon = true ∧ t.lc.permit = false)

/-- Every command keeps the law of the festoon, since an oven advance past the festoon content re-anchors (R6), the ranges of
the offsets and the phase targets (R89), and those of the positions and debts (R2, R3). -/
def Obligations.FestoonOffsetAndPositionLawsKept : Prop :=
  ∀ (c : Instr) (s t : State), exec c s = .next t →
    (FestoonLaw s → FestoonLaw t) ∧ (OffsetLaw s → OffsetLaw t) ∧ (PositionLaw s → PositionLaw t)

/-- The report ring never holds more than 256 records that are not retired, counting those begun (R163, R165). Board memory
keeps its canonical form, and only the end of a memory access changes a byte of it; EXBASE is changed only by a write to it and
by a reset. A suspended exchange interface keeps no transaction, queued or in hand (R161, R162). That host writes are no events
of the part and that neither a reset nor an accepted LOAD_PROFILE writes anything of an access in hand is the model's choice
(log entries 2, 22 and 40). -/
def Obligations.RingAndMemoryLawsKept : Prop :=
  ∀ (c : Instr) (s t : State), exec c s = .next t →
    (RingRoom s → RingRoom t ∧ RingLaw t) ∧ (MemoryLaw s → MemoryLaw t) ∧ (SuspensionLaw s → SuspensionLaw t) ∧
    ((∀ host, c ≠ .memoryAccessDone host) → c ≠ .memoryAccessTimeout → ∀ a, readByte t.mem a = readByte s.mem a) ∧
    ((∀ v, c ≠ .exbaseWrite v) → (∀ r, c ≠ .reset r) → t.exbase = s.exbase)

/-- The law of the web map: at most 2048 records, their serials increasing by exactly one up to the next serial and positive
(R11), each 1..L_seg µm long, with its printed set within its required set and its dose in range (R8, R10, R121); in READY and
PRINTING the length cause lies ahead of P (R8). -/
def Obligations.MapLawKept : Prop :=
  ∀ (c : Instr) (s t : State), exec c s = .next t → MapLaw s → CutsAscend s.cp → CutAhead s → MapLaw t ∧ CutAhead t

/-- Under the RESET pin the part holds its reset values (R177); an entry order exists exactly in PRINTING, and command busy is
set in LOADING and otherwise only in UNLOADED (R185). -/
def Obligations.ResetAndEntryLawsKept : Prop :=
  ∀ (c : Instr) (s t : State), exec c s = .next t → (ResetLaw s → ResetLaw t) ∧ (EntryLaw s → EntryLaw t)

/-- The state after power-on meets every law. -/
def Obligations.ResetMeetsTheLaws : Prop :=
  LineLaws State.reset ∧ FestoonLaw State.reset ∧ OffsetLaw State.reset ∧ PositionLaw State.reset ∧
    RingRoom State.reset ∧ RingLaw State.reset ∧ MemoryLaw State.reset ∧ MapLaw State.reset ∧ CutsAscend State.reset.cp ∧
    CutAhead State.reset ∧ ResetLaw State.reset ∧ EntryLaw State.reset ∧ EngagedLaw State.reset ∧ SuspensionLaw State.reset
end

