-- ==== Sys2Proof/Laws/State.lean ====
section
/-! SUPPORT. What each named update of the state leaves unchanged, one lemma per field, and what is read back after it. -/

namespace Sys2Proof.Machine

/-! ### State.setChan -/

@[simp] theorem State.setChan_clock (s : State) (i : Station) (c : Channel) : (s.setChan i c).clock = s.clock := rfl
@[simp] theorem State.setChan_lc (s : State) (i : Station) (c : Channel) : (s.setChan i c).lc = s.lc := rfl
@[simp] theorem State.setChan_wt (s : State) (i : Station) (c : Channel) : (s.setChan i c).wt = s.wt := rfl
@[simp] theorem State.setChan_cp (s : State) (i : Station) (c : Channel) : (s.setChan i c).cp = s.cp := rfl
@[simp] theorem State.setChan_os (s : State) (i : Station) (c : Channel) : (s.setChan i c).os = s.os := rfl
@[simp] theorem State.setChan_pu (s : State) (i : Station) (c : Channel) : (s.setChan i c).pu = s.pu := rfl
@[simp] theorem State.setChan_mr (s : State) (i : Station) (c : Channel) : (s.setChan i c).mr = s.mr := rfl
@[simp] theorem State.setChan_ci (s : State) (i : Station) (c : Channel) : (s.setChan i c).ci = s.ci := rfl
@[simp] theorem State.setChan_co (s : State) (i : Station) (c : Channel) : (s.setChan i c).co = s.co := rfl
@[simp] theorem State.setChan_xi (s : State) (i : Station) (c : Channel) : (s.setChan i c).xi = s.xi := rfl
@[simp] theorem State.setChan_prof (s : State) (i : Station) (c : Channel) : (s.setChan i c).prof = s.prof := rfl
@[simp] theorem State.setChan_exbase (s : State) (i : Station) (c : Channel) : (s.setChan i c).exbase = s.exbase := rfl
@[simp] theorem State.setChan_events (s : State) (i : Station) (c : Channel) : (s.setChan i c).events = s.events := rfl
@[simp] theorem State.setChan_busy (s : State) (i : Station) (c : Channel) : (s.setChan i c).busy = s.busy := rfl
@[simp] theorem State.setChan_busRead (s : State) (i : Station) (c : Channel) : (s.setChan i c).busRead = s.busRead := rfl
@[simp] theorem State.setChan_pins (s : State) (i : Station) (c : Channel) : (s.setChan i c).pins = s.pins := rfl
@[simp] theorem State.setChan_mem (s : State) (i : Station) (c : Channel) : (s.setChan i c).mem = s.mem := rfl
@[simp] theorem State.setChan_draws (s : State) (i : Station) (c : Channel) : (s.setChan i c).draws = s.draws := rfl
@[simp] theorem State.setChan_pending (s : State) (i : Station) (c : Channel) : (s.setChan i c).pending = s.pending := rfl

/-! ### State.setPhase -/

@[simp] theorem State.setPhase_clock (s : State) (i : Station) (p : PhaseStation) : (s.setPhase i p).clock = s.clock := rfl
@[simp] theorem State.setPhase_lc (s : State) (i : Station) (p : PhaseStation) : (s.setPhase i p).lc = s.lc := rfl
@[simp] theorem State.setPhase_wt (s : State) (i : Station) (p : PhaseStation) : (s.setPhase i p).wt = s.wt := rfl
@[simp] theorem State.setPhase_cp (s : State) (i : Station) (p : PhaseStation) : (s.setPhase i p).cp = s.cp := rfl
@[simp] theorem State.setPhase_os (s : State) (i : Station) (p : PhaseStation) : (s.setPhase i p).os = s.os := rfl
@[simp] theorem State.setPhase_sc (s : State) (i : Station) (p : PhaseStation) : (s.setPhase i p).sc = s.sc := rfl
@[simp] theorem State.setPhase_mr (s : State) (i : Station) (p : PhaseStation) : (s.setPhase i p).mr = s.mr := rfl
@[simp] theorem State.setPhase_ci (s : State) (i : Station) (p : PhaseStation) : (s.setPhase i p).ci = s.ci := rfl
@[simp] theorem State.setPhase_co (s : State) (i : Station) (p : PhaseStation) : (s.setPhase i p).co = s.co := rfl
@[simp] theorem State.setPhase_xi (s : State) (i : Station) (p : PhaseStation) : (s.setPhase i p).xi = s.xi := rfl
@[simp] theorem State.setPhase_prof (s : State) (i : Station) (p : PhaseStation) : (s.setPhase i p).prof = s.prof := rfl
@[simp] theorem State.setPhase_exbase (s : State) (i : Station) (p : PhaseStation) : (s.setPhase i p).exbase = s.exbase := rfl
@[simp] theorem State.setPhase_events (s : State) (i : Station) (p : PhaseStation) : (s.setPhase i p).events = s.events := rfl
@[simp] theorem State.setPhase_busy (s : State) (i : Station) (p : PhaseStation) : (s.setPhase i p).busy = s.busy := rfl
@[simp] theorem State.setPhase_busRead (s : State) (i : Station) (p : PhaseStation) : (s.setPhase i p).busRead = s.busRead := rfl
@[simp] theorem State.setPhase_pins (s : State) (i : Station) (p : PhaseStation) : (s.setPhase i p).pins = s.pins := rfl
@[simp] theorem State.setPhase_mem (s : State) (i : Station) (p : PhaseStation) : (s.setPhase i p).mem = s.mem := rfl
@[simp] theorem State.setPhase_draws (s : State) (i : Station) (p : PhaseStation) : (s.setPhase i p).draws = s.draws := rfl
@[simp] theorem State.setPhase_pending (s : State) (i : Station) (p : PhaseStation) : (s.setPhase i p).pending = s.pending := rfl

/-! ### State.setZone -/

@[simp] theorem State.setZone_clock (s : State) (z : Zone) (x : ZoneState) : (s.setZone z x).clock = s.clock := rfl
@[simp] theorem State.setZone_lc (s : State) (z : Zone) (x : ZoneState) : (s.setZone z x).lc = s.lc := rfl
@[simp] theorem State.setZone_wt (s : State) (z : Zone) (x : ZoneState) : (s.setZone z x).wt = s.wt := rfl
@[simp] theorem State.setZone_cp (s : State) (z : Zone) (x : ZoneState) : (s.setZone z x).cp = s.cp := rfl
@[simp] theorem State.setZone_os (s : State) (z : Zone) (x : ZoneState) : (s.setZone z x).os = s.os := rfl
@[simp] theorem State.setZone_sc (s : State) (z : Zone) (x : ZoneState) : (s.setZone z x).sc = s.sc := rfl
@[simp] theorem State.setZone_pu (s : State) (z : Zone) (x : ZoneState) : (s.setZone z x).pu = s.pu := rfl
@[simp] theorem State.setZone_mr (s : State) (z : Zone) (x : ZoneState) : (s.setZone z x).mr = s.mr := rfl
@[simp] theorem State.setZone_co (s : State) (z : Zone) (x : ZoneState) : (s.setZone z x).co = s.co := rfl
@[simp] theorem State.setZone_xi (s : State) (z : Zone) (x : ZoneState) : (s.setZone z x).xi = s.xi := rfl
@[simp] theorem State.setZone_prof (s : State) (z : Zone) (x : ZoneState) : (s.setZone z x).prof = s.prof := rfl
@[simp] theorem State.setZone_exbase (s : State) (z : Zone) (x : ZoneState) : (s.setZone z x).exbase = s.exbase := rfl
@[simp] theorem State.setZone_events (s : State) (z : Zone) (x : ZoneState) : (s.setZone z x).events = s.events := rfl
@[simp] theorem State.setZone_busy (s : State) (z : Zone) (x : ZoneState) : (s.setZone z x).busy = s.busy := rfl
@[simp] theorem State.setZone_busRead (s : State) (z : Zone) (x : ZoneState) : (s.setZone z x).busRead = s.busRead := rfl
@[simp] theorem State.setZone_pins (s : State) (z : Zone) (x : ZoneState) : (s.setZone z x).pins = s.pins := rfl
@[simp] theorem State.setZone_mem (s : State) (z : Zone) (x : ZoneState) : (s.setZone z x).mem = s.mem := rfl
@[simp] theorem State.setZone_draws (s : State) (z : Zone) (x : ZoneState) : (s.setZone z x).draws = s.draws := rfl
@[simp] theorem State.setZone_pending (s : State) (z : Zone) (x : ZoneState) : (s.setZone z x).pending = s.pending := rfl

/-! ### enqueue -/

@[simp] theorem enqueue_clock (s : State) (t : Transaction) : (enqueue s t).clock = s.clock := rfl
@[simp] theorem enqueue_lc (s : State) (t : Transaction) : (enqueue s t).lc = s.lc := rfl
@[simp] theorem enqueue_wt (s : State) (t : Transaction) : (enqueue s t).wt = s.wt := rfl
@[simp] theorem enqueue_cp (s : State) (t : Transaction) : (enqueue s t).cp = s.cp := rfl
@[simp] theorem enqueue_os (s : State) (t : Transaction) : (enqueue s t).os = s.os := rfl
@[simp] theorem enqueue_sc (s : State) (t : Transaction) : (enqueue s t).sc = s.sc := rfl
@[simp] theorem enqueue_pu (s : State) (t : Transaction) : (enqueue s t).pu = s.pu := rfl
@[simp] theorem enqueue_mr (s : State) (t : Transaction) : (enqueue s t).mr = s.mr := rfl
@[simp] theorem enqueue_ci (s : State) (t : Transaction) : (enqueue s t).ci = s.ci := rfl
@[simp] theorem enqueue_co (s : State) (t : Transaction) : (enqueue s t).co = s.co := rfl
@[simp] theorem enqueue_prof (s : State) (t : Transaction) : (enqueue s t).prof = s.prof := rfl
@[simp] theorem enqueue_exbase (s : State) (t : Transaction) : (enqueue s t).exbase = s.exbase := rfl
@[simp] theorem enqueue_events (s : State) (t : Transaction) : (enqueue s t).events = s.events := rfl
@[simp] theorem enqueue_busy (s : State) (t : Transaction) : (enqueue s t).busy = s.busy := rfl
@[simp] theorem enqueue_busRead (s : State) (t : Transaction) : (enqueue s t).busRead = s.busRead := rfl
@[simp] theorem enqueue_pins (s : State) (t : Transaction) : (enqueue s t).pins = s.pins := rfl
@[simp] theorem enqueue_mem (s : State) (t : Transaction) : (enqueue s t).mem = s.mem := rfl
@[simp] theorem enqueue_draws (s : State) (t : Transaction) : (enqueue s t).draws = s.draws := rfl
@[simp] theorem enqueue_pending (s : State) (t : Transaction) : (enqueue s t).pending = s.pending := rfl

/-! ### loseReport -/

@[simp] theorem loseReport_clock (s : State) : (loseReport s).clock = s.clock := rfl
@[simp] theorem loseReport_lc (s : State) : (loseReport s).lc = s.lc := rfl
@[simp] theorem loseReport_wt (s : State) : (loseReport s).wt = s.wt := rfl
@[simp] theorem loseReport_cp (s : State) : (loseReport s).cp = s.cp := rfl
@[simp] theorem loseReport_os (s : State) : (loseReport s).os = s.os := rfl
@[simp] theorem loseReport_sc (s : State) : (loseReport s).sc = s.sc := rfl
@[simp] theorem loseReport_pu (s : State) : (loseReport s).pu = s.pu := rfl
@[simp] theorem loseReport_mr (s : State) : (loseReport s).mr = s.mr := rfl
@[simp] theorem loseReport_ci (s : State) : (loseReport s).ci = s.ci := rfl
@[simp] theorem loseReport_co (s : State) : (loseReport s).co = s.co := rfl
@[simp] theorem loseReport_prof (s : State) : (loseReport s).prof = s.prof := rfl
@[simp] theorem loseReport_exbase (s : State) : (loseReport s).exbase = s.exbase := rfl
@[simp] theorem loseReport_busy (s : State) : (loseReport s).busy = s.busy := rfl
@[simp] theorem loseReport_busRead (s : State) : (loseReport s).busRead = s.busRead := rfl
@[simp] theorem loseReport_pins (s : State) : (loseReport s).pins = s.pins := rfl
@[simp] theorem loseReport_mem (s : State) : (loseReport s).mem = s.mem := rfl
@[simp] theorem loseReport_draws (s : State) : (loseReport s).draws = s.draws := rfl
@[simp] theorem loseReport_pending (s : State) : (loseReport s).pending = s.pending := rfl

/-! ### freePort -/

@[simp] theorem freePort_clock (s : State) : (freePort s).clock = s.clock := rfl
@[simp] theorem freePort_lc (s : State) : (freePort s).lc = s.lc := rfl
@[simp] theorem freePort_wt (s : State) : (freePort s).wt = s.wt := rfl
@[simp] theorem freePort_cp (s : State) : (freePort s).cp = s.cp := rfl
@[simp] theorem freePort_os (s : State) : (freePort s).os = s.os := rfl
@[simp] theorem freePort_sc (s : State) : (freePort s).sc = s.sc := rfl
@[simp] theorem freePort_pu (s : State) : (freePort s).pu = s.pu := rfl
@[simp] theorem freePort_mr (s : State) : (freePort s).mr = s.mr := rfl
@[simp] theorem freePort_ci (s : State) : (freePort s).ci = s.ci := rfl
@[simp] theorem freePort_co (s : State) : (freePort s).co = s.co := rfl
@[simp] theorem freePort_prof (s : State) : (freePort s).prof = s.prof := rfl
@[simp] theorem freePort_exbase (s : State) : (freePort s).exbase = s.exbase := rfl
@[simp] theorem freePort_events (s : State) : (freePort s).events = s.events := rfl
@[simp] theorem freePort_busy (s : State) : (freePort s).busy = s.busy := rfl
@[simp] theorem freePort_busRead (s : State) : (freePort s).busRead = s.busRead := rfl
@[simp] theorem freePort_pins (s : State) : (freePort s).pins = s.pins := rfl
@[simp] theorem freePort_mem (s : State) : (freePort s).mem = s.mem := rfl
@[simp] theorem freePort_draws (s : State) : (freePort s).draws = s.draws := rfl
@[simp] theorem freePort_pending (s : State) : (freePort s).pending = s.pending := rfl

/-! ### beginAccess -/

@[simp] theorem beginAccess_clock (s : State) (h : InHand) (a : Access) (rest : List Access) : (beginAccess s h a rest).clock = s.clock := rfl
@[simp] theorem beginAccess_lc (s : State) (h : InHand) (a : Access) (rest : List Access) : (beginAccess s h a rest).lc = s.lc := rfl
@[simp] theorem beginAccess_wt (s : State) (h : InHand) (a : Access) (rest : List Access) : (beginAccess s h a rest).wt = s.wt := rfl
@[simp] theorem beginAccess_cp (s : State) (h : InHand) (a : Access) (rest : List Access) : (beginAccess s h a rest).cp = s.cp := rfl
@[simp] theorem beginAccess_os (s : State) (h : InHand) (a : Access) (rest : List Access) : (beginAccess s h a rest).os = s.os := rfl
@[simp] theorem beginAccess_sc (s : State) (h : InHand) (a : Access) (rest : List Access) : (beginAccess s h a rest).sc = s.sc := rfl
@[simp] theorem beginAccess_pu (s : State) (h : InHand) (a : Access) (rest : List Access) : (beginAccess s h a rest).pu = s.pu := rfl
@[simp] theorem beginAccess_mr (s : State) (h : InHand) (a : Access) (rest : List Access) : (beginAccess s h a rest).mr = s.mr := rfl
@[simp] theorem beginAccess_ci (s : State) (h : InHand) (a : Access) (rest : List Access) : (beginAccess s h a rest).ci = s.ci := rfl
@[simp] theorem beginAccess_co (s : State) (h : InHand) (a : Access) (rest : List Access) : (beginAccess s h a rest).co = s.co := rfl
@[simp] theorem beginAccess_prof (s : State) (h : InHand) (a : Access) (rest : List Access) : (beginAccess s h a rest).prof = s.prof := rfl
@[simp] theorem beginAccess_exbase (s : State) (h : InHand) (a : Access) (rest : List Access) : (beginAccess s h a rest).exbase = s.exbase := rfl
@[simp] theorem beginAccess_events (s : State) (h : InHand) (a : Access) (rest : List Access) : (beginAccess s h a rest).events = s.events := rfl
@[simp] theorem beginAccess_busy (s : State) (h : InHand) (a : Access) (rest : List Access) : (beginAccess s h a rest).busy = s.busy := rfl
@[simp] theorem beginAccess_busRead (s : State) (h : InHand) (a : Access) (rest : List Access) : (beginAccess s h a rest).busRead = s.busRead := rfl
@[simp] theorem beginAccess_pins (s : State) (h : InHand) (a : Access) (rest : List Access) : (beginAccess s h a rest).pins = s.pins := rfl
@[simp] theorem beginAccess_mem (s : State) (h : InHand) (a : Access) (rest : List Access) : (beginAccess s h a rest).mem = s.mem := rfl
@[simp] theorem beginAccess_draws (s : State) (h : InHand) (a : Access) (rest : List Access) : (beginAccess s h a rest).draws = s.draws := rfl
@[simp] theorem beginAccess_pending (s : State) (h : InHand) (a : Access) (rest : List Access) : (beginAccess s h a rest).pending = s.pending := rfl

/-! ### countRecord -/

@[simp] theorem countRecord_clock (s : State) : (countRecord s).clock = s.clock := rfl
@[simp] theorem countRecord_lc (s : State) : (countRecord s).lc = s.lc := rfl
@[simp] theorem countRecord_wt (s : State) : (countRecord s).wt = s.wt := rfl
@[simp] theorem countRecord_cp (s : State) : (countRecord s).cp = s.cp := rfl
@[simp] theorem countRecord_os (s : State) : (countRecord s).os = s.os := rfl
@[simp] theorem countRecord_sc (s : State) : (countRecord s).sc = s.sc := rfl
@[simp] theorem countRecord_pu (s : State) : (countRecord s).pu = s.pu := rfl
@[simp] theorem countRecord_mr (s : State) : (countRecord s).mr = s.mr := rfl
@[simp] theorem countRecord_ci (s : State) : (countRecord s).ci = s.ci := rfl
@[simp] theorem countRecord_co (s : State) : (countRecord s).co = s.co := rfl
@[simp] theorem countRecord_prof (s : State) : (countRecord s).prof = s.prof := rfl
@[simp] theorem countRecord_exbase (s : State) : (countRecord s).exbase = s.exbase := rfl
@[simp] theorem countRecord_busy (s : State) : (countRecord s).busy = s.busy := rfl
@[simp] theorem countRecord_busRead (s : State) : (countRecord s).busRead = s.busRead := rfl
@[simp] theorem countRecord_pins (s : State) : (countRecord s).pins = s.pins := rfl
@[simp] theorem countRecord_mem (s : State) : (countRecord s).mem = s.mem := rfl
@[simp] theorem countRecord_draws (s : State) : (countRecord s).draws = s.draws := rfl
@[simp] theorem countRecord_pending (s : State) : (countRecord s).pending = s.pending := rfl

/-! ### doneCommand -/

@[simp] theorem doneCommand_clock (s : State) : (doneCommand s).clock = s.clock := rfl
@[simp] theorem doneCommand_lc (s : State) : (doneCommand s).lc = s.lc := rfl
@[simp] theorem doneCommand_wt (s : State) : (doneCommand s).wt = s.wt := rfl
@[simp] theorem doneCommand_cp (s : State) : (doneCommand s).cp = s.cp := rfl
@[simp] theorem doneCommand_os (s : State) : (doneCommand s).os = s.os := rfl
@[simp] theorem doneCommand_sc (s : State) : (doneCommand s).sc = s.sc := rfl
@[simp] theorem doneCommand_pu (s : State) : (doneCommand s).pu = s.pu := rfl
@[simp] theorem doneCommand_mr (s : State) : (doneCommand s).mr = s.mr := rfl
@[simp] theorem doneCommand_ci (s : State) : (doneCommand s).ci = s.ci := rfl
@[simp] theorem doneCommand_co (s : State) : (doneCommand s).co = s.co := rfl
@[simp] theorem doneCommand_xi (s : State) : (doneCommand s).xi = s.xi := rfl
@[simp] theorem doneCommand_prof (s : State) : (doneCommand s).prof = s.prof := rfl
@[simp] theorem doneCommand_exbase (s : State) : (doneCommand s).exbase = s.exbase := rfl
@[simp] theorem doneCommand_busy (s : State) : (doneCommand s).busy = s.busy := rfl
@[simp] theorem doneCommand_busRead (s : State) : (doneCommand s).busRead = s.busRead := rfl
@[simp] theorem doneCommand_pins (s : State) : (doneCommand s).pins = s.pins := rfl
@[simp] theorem doneCommand_mem (s : State) : (doneCommand s).mem = s.mem := rfl
@[simp] theorem doneCommand_draws (s : State) : (doneCommand s).draws = s.draws := rfl
@[simp] theorem doneCommand_pending (s : State) : (doneCommand s).pending = s.pending := rfl

/-! ### refuseCommand -/

@[simp] theorem refuseCommand_clock (s : State) : (refuseCommand s).clock = s.clock := rfl
@[simp] theorem refuseCommand_lc (s : State) : (refuseCommand s).lc = s.lc := rfl
@[simp] theorem refuseCommand_wt (s : State) : (refuseCommand s).wt = s.wt := rfl
@[simp] theorem refuseCommand_cp (s : State) : (refuseCommand s).cp = s.cp := rfl
@[simp] theorem refuseCommand_os (s : State) : (refuseCommand s).os = s.os := rfl
@[simp] theorem refuseCommand_sc (s : State) : (refuseCommand s).sc = s.sc := rfl
@[simp] theorem refuseCommand_pu (s : State) : (refuseCommand s).pu = s.pu := rfl
@[simp] theorem refuseCommand_mr (s : State) : (refuseCommand s).mr = s.mr := rfl
@[simp] theorem refuseCommand_ci (s : State) : (refuseCommand s).ci = s.ci := rfl
@[simp] theorem refuseCommand_co (s : State) : (refuseCommand s).co = s.co := rfl
@[simp] theorem refuseCommand_xi (s : State) : (refuseCommand s).xi = s.xi := rfl
@[simp] theorem refuseCommand_prof (s : State) : (refuseCommand s).prof = s.prof := rfl
@[simp] theorem refuseCommand_exbase (s : State) : (refuseCommand s).exbase = s.exbase := rfl
@[simp] theorem refuseCommand_busy (s : State) : (refuseCommand s).busy = s.busy := rfl
@[simp] theorem refuseCommand_busRead (s : State) : (refuseCommand s).busRead = s.busRead := rfl
@[simp] theorem refuseCommand_pins (s : State) : (refuseCommand s).pins = s.pins := rfl
@[simp] theorem refuseCommand_mem (s : State) : (refuseCommand s).mem = s.mem := rfl
@[simp] theorem refuseCommand_draws (s : State) : (refuseCommand s).draws = s.draws := rfl
@[simp] theorem refuseCommand_pending (s : State) : (refuseCommand s).pending = s.pending := rfl

/-! ### ignoreWrite -/

@[simp] theorem ignoreWrite_clock (s : State) : (ignoreWrite s).clock = s.clock := rfl
@[simp] theorem ignoreWrite_lc (s : State) : (ignoreWrite s).lc = s.lc := rfl
@[simp] theorem ignoreWrite_wt (s : State) : (ignoreWrite s).wt = s.wt := rfl
@[simp] theorem ignoreWrite_cp (s : State) : (ignoreWrite s).cp = s.cp := rfl
@[simp] theorem ignoreWrite_os (s : State) : (ignoreWrite s).os = s.os := rfl
@[simp] theorem ignoreWrite_sc (s : State) : (ignoreWrite s).sc = s.sc := rfl
@[simp] theorem ignoreWrite_pu (s : State) : (ignoreWrite s).pu = s.pu := rfl
@[simp] theorem ignoreWrite_mr (s : State) : (ignoreWrite s).mr = s.mr := rfl
@[simp] theorem ignoreWrite_ci (s : State) : (ignoreWrite s).ci = s.ci := rfl
@[simp] theorem ignoreWrite_co (s : State) : (ignoreWrite s).co = s.co := rfl
@[simp] theorem ignoreWrite_xi (s : State) : (ignoreWrite s).xi = s.xi := rfl
@[simp] theorem ignoreWrite_prof (s : State) : (ignoreWrite s).prof = s.prof := rfl
@[simp] theorem ignoreWrite_exbase (s : State) : (ignoreWrite s).exbase = s.exbase := rfl
@[simp] theorem ignoreWrite_busy (s : State) : (ignoreWrite s).busy = s.busy := rfl
@[simp] theorem ignoreWrite_busRead (s : State) : (ignoreWrite s).busRead = s.busRead := rfl
@[simp] theorem ignoreWrite_pins (s : State) : (ignoreWrite s).pins = s.pins := rfl
@[simp] theorem ignoreWrite_mem (s : State) : (ignoreWrite s).mem = s.mem := rfl
@[simp] theorem ignoreWrite_draws (s : State) : (ignoreWrite s).draws = s.draws := rfl
@[simp] theorem ignoreWrite_pending (s : State) : (ignoreWrite s).pending = s.pending := rfl

/-! ### endCommand -/

@[simp] theorem endCommand_clock (s : State) : (endCommand s).clock = s.clock := rfl
@[simp] theorem endCommand_lc (s : State) : (endCommand s).lc = s.lc := rfl
@[simp] theorem endCommand_wt (s : State) : (endCommand s).wt = s.wt := rfl
@[simp] theorem endCommand_cp (s : State) : (endCommand s).cp = s.cp := rfl
@[simp] theorem endCommand_os (s : State) : (endCommand s).os = s.os := rfl
@[simp] theorem endCommand_sc (s : State) : (endCommand s).sc = s.sc := rfl
@[simp] theorem endCommand_pu (s : State) : (endCommand s).pu = s.pu := rfl
@[simp] theorem endCommand_mr (s : State) : (endCommand s).mr = s.mr := rfl
@[simp] theorem endCommand_ci (s : State) : (endCommand s).ci = s.ci := rfl
@[simp] theorem endCommand_co (s : State) : (endCommand s).co = s.co := rfl
@[simp] theorem endCommand_xi (s : State) : (endCommand s).xi = s.xi := rfl
@[simp] theorem endCommand_prof (s : State) : (endCommand s).prof = s.prof := rfl
@[simp] theorem endCommand_exbase (s : State) : (endCommand s).exbase = s.exbase := rfl
@[simp] theorem endCommand_busRead (s : State) : (endCommand s).busRead = s.busRead := rfl
@[simp] theorem endCommand_pins (s : State) : (endCommand s).pins = s.pins := rfl
@[simp] theorem endCommand_mem (s : State) : (endCommand s).mem = s.mem := rfl
@[simp] theorem endCommand_draws (s : State) : (endCommand s).draws = s.draws := rfl
@[simp] theorem endCommand_pending (s : State) : (endCommand s).pending = s.pending := rfl

/-! ### judgePermit -/

@[simp] theorem judgePermit_clock (s : State) : (judgePermit s).clock = s.clock := rfl
@[simp] theorem judgePermit_wt (s : State) : (judgePermit s).wt = s.wt := rfl
@[simp] theorem judgePermit_cp (s : State) : (judgePermit s).cp = s.cp := rfl
@[simp] theorem judgePermit_os (s : State) : (judgePermit s).os = s.os := rfl
@[simp] theorem judgePermit_sc (s : State) : (judgePermit s).sc = s.sc := rfl
@[simp] theorem judgePermit_pu (s : State) : (judgePermit s).pu = s.pu := rfl
@[simp] theorem judgePermit_mr (s : State) : (judgePermit s).mr = s.mr := rfl
@[simp] theorem judgePermit_ci (s : State) : (judgePermit s).ci = s.ci := rfl
@[simp] theorem judgePermit_co (s : State) : (judgePermit s).co = s.co := rfl
@[simp] theorem judgePermit_xi (s : State) : (judgePermit s).xi = s.xi := rfl
@[simp] theorem judgePermit_prof (s : State) : (judgePermit s).prof = s.prof := rfl
@[simp] theorem judgePermit_exbase (s : State) : (judgePermit s).exbase = s.exbase := rfl
@[simp] theorem judgePermit_events (s : State) : (judgePermit s).events = s.events := rfl
@[simp] theorem judgePermit_busy (s : State) : (judgePermit s).busy = s.busy := rfl
@[simp] theorem judgePermit_busRead (s : State) : (judgePermit s).busRead = s.busRead := rfl
@[simp] theorem judgePermit_pins (s : State) : (judgePermit s).pins = s.pins := rfl
@[simp] theorem judgePermit_mem (s : State) : (judgePermit s).mem = s.mem := rfl
@[simp] theorem judgePermit_draws (s : State) : (judgePermit s).draws = s.draws := rfl
@[simp] theorem judgePermit_pending (s : State) : (judgePermit s).pending = s.pending := rfl

/-! ### setLine -/

@[simp] theorem setLine_clock (s : State) (l : LineState) : (setLine s l).clock = s.clock := rfl
@[simp] theorem setLine_wt (s : State) (l : LineState) : (setLine s l).wt = s.wt := rfl
@[simp] theorem setLine_cp (s : State) (l : LineState) : (setLine s l).cp = s.cp := rfl
@[simp] theorem setLine_os (s : State) (l : LineState) : (setLine s l).os = s.os := rfl
@[simp] theorem setLine_sc (s : State) (l : LineState) : (setLine s l).sc = s.sc := rfl
@[simp] theorem setLine_pu (s : State) (l : LineState) : (setLine s l).pu = s.pu := rfl
@[simp] theorem setLine_mr (s : State) (l : LineState) : (setLine s l).mr = s.mr := rfl
@[simp] theorem setLine_ci (s : State) (l : LineState) : (setLine s l).ci = s.ci := rfl
@[simp] theorem setLine_co (s : State) (l : LineState) : (setLine s l).co = s.co := rfl
@[simp] theorem setLine_xi (s : State) (l : LineState) : (setLine s l).xi = s.xi := rfl
@[simp] theorem setLine_prof (s : State) (l : LineState) : (setLine s l).prof = s.prof := rfl
@[simp] theorem setLine_exbase (s : State) (l : LineState) : (setLine s l).exbase = s.exbase := rfl
@[simp] theorem setLine_events (s : State) (l : LineState) : (setLine s l).events = s.events := rfl
@[simp] theorem setLine_busy (s : State) (l : LineState) : (setLine s l).busy = s.busy := rfl
@[simp] theorem setLine_busRead (s : State) (l : LineState) : (setLine s l).busRead = s.busRead := rfl
@[simp] theorem setLine_pins (s : State) (l : LineState) : (setLine s l).pins = s.pins := rfl
@[simp] theorem setLine_mem (s : State) (l : LineState) : (setLine s l).mem = s.mem := rfl
@[simp] theorem setLine_draws (s : State) (l : LineState) : (setLine s l).draws = s.draws := rfl
@[simp] theorem setLine_pending (s : State) (l : LineState) : (setLine s l).pending = s.pending := rfl

/-! ### Reading back -/

@[simp] theorem State.setChan_chan_self (s : State) (i : Station) (c : Channel) : (s.setChan i c).chan i = c := by
  show (s.sc.set i.val c i.isLt)[i.val] = c
  simp

theorem State.setChan_chan_of_ne (s : State) (i j : Station) (c : Channel) (h : i ≠ j) :
    (s.setChan i c).chan j = s.chan j := by
  have hv : i.val ≠ j.val := fun e => h (Fin.ext e)
  show (s.sc.set i.val c i.isLt)[j.val] = s.sc[j.val]
  simp [hv]

@[simp] theorem State.setPhase_phase_self (s : State) (i : Station) (p : PhaseStation) : (s.setPhase i p).phase i = p := by
  show (s.pu.stations.set i.val p i.isLt)[i.val] = p
  simp

theorem State.setPhase_phase_of_ne (s : State) (i j : Station) (p : PhaseStation) (h : i ≠ j) :
    (s.setPhase i p).phase j = s.phase j := by
  have hv : i.val ≠ j.val := fun e => h (Fin.ext e)
  show (s.pu.stations.set i.val p i.isLt)[j.val] = s.pu.stations[j.val]
  simp [hv]

@[simp] theorem State.setZone_zone_self (s : State) (z : Zone) (x : ZoneState) : (s.setZone z x).zone z = x := by
  show (s.ci.zones.set z.val x z.isLt)[z.val] = x
  simp

theorem State.setZone_zone_of_ne (s : State) (z y : Zone) (x : ZoneState) (h : z ≠ y) :
    (s.setZone z x).zone y = s.zone y := by
  have hv : z.val ≠ y.val := fun e => h (Fin.ext e)
  show (s.ci.zones.set z.val x z.isLt)[y.val] = s.ci.zones[y.val]
  simp [hv]

end Sys2Proof.Machine
end

