-- ==== Sys2Proof/Laws/Closure.lean ====
section
/-! SUPPORT. What the blocks can do to the machine, once and for every law: a relation that holds over a short list of
primitive changes holds over every operation of the blocks. `Quiet` says which parts a quiet change leaves alone, `Calm` and `Closed`
list the primitives, and the theorems `<operation>_closed` follow the operations one by one. -/

namespace Sys2Proof.Machine

/-- `t` differs from `s` only in queues, maps, lists, reports, events and a running standstill timer. -/
structure Quiet (s t : State) : Prop where
  clock : t.clock = s.clock
  line : t.lc.line = s.lc.line
  holds : t.lc.holds = s.lc.holds
  holdStart : t.lc.holdStart = s.lc.holdStart
  firstFault : t.lc.firstFault = s.lc.firstFault
  permit : t.lc.permit = s.lc.permit
  engaged : t.lc.engaged = s.lc.engaged
  standstill : s.lc.standstill = .stopped → t.lc.standstill = .stopped
  p : t.wt.p = s.wt.p
  q : t.wt.q = s.wt.q
  k : t.wt.k = s.wt.k
  printDebt : t.wt.printDebt = s.wt.printDebt
  ovenDebt : t.wt.ovenDebt = s.wt.ovenDebt
  printReverse : t.wt.printReverse = s.wt.printReverse
  ovenReverse : t.wt.ovenReverse = s.wt.ovenReverse
  underrun : s.wt.underrun = none → t.wt.underrun = none
  limitPosted : t.wt.limitPosted = s.wt.limitPosted
  cut : s.wt.lastCut ≤ t.wt.lastCut
  cuts : CutsAscend s.cp → CutsAscend t.cp
  map : MapLaw s → MapLaw t
  entry : t.os.entry = s.os.entry
  sc : t.sc = s.sc
  stations : t.pu.stations = s.pu.stations
  zones : t.ci.zones = s.ci.zones
  written : t.xi.written = s.xi.written
  retired : t.xi.retired = s.xi.retired
  suspended : t.xi.suspended = s.xi.suspended
  suspension : SuspensionLaw s → SuspensionLaw t
  ahead : endsAhead t.xi = endsAhead s.xi
  prof : t.prof = s.prof
  exbase : t.exbase = s.exbase
  busy : t.busy = s.busy
  busRead : t.busRead = s.busRead
  pins : t.pins = s.pins
  mem : t.mem = s.mem
  pending : t.pending = s.pending

/-- A relation that holds over every primitive change of the blocks but those of the line state and the entry order. -/
structure Calm (R : State → State → Prop) : Prop where
  refl : ∀ s, R s s
  trans : ∀ {s t u}, R s t → R t u → R s u
  quiet : ∀ {s t}, Quiet s t → R s t
  /-- A channel changed without entering LOWERING and without entering or leaving ENGAGED. -/
  chan : ∀ s i c, (c.state = (s.chan i).state ∨
    (c.state ≠ .lowering ∧ c.state ≠ .engaged ∧ (s.chan i).state ≠ .engaged)) → R s (s.setChan i c)
  /-- A channel put into a state other than LOWERING and ENGAGED, the engaged indication after it. -/
  lift : ∀ s i c, c.state ≠ .lowering → c.state ≠ .engaged → R s (syncEngaged (s.setChan i c))
  /-- Any change of a channel with no hold standing, the engaged indication after it. -/
  lower : ∀ s i c, s.lc.holds.any = false → R s (syncEngaged (s.setChan i c))
  /-- A lowering that ends, the engaged indication after it. -/
  engage : ∀ s i c, (s.chan i).state = .lowering → R s (syncEngaged (s.setChan i c))
  sync : ∀ s, R s (syncEngaged s)
  target : ∀ s i x c, R s (s.setPhase i { s.phase i with target := targetOf x c })
  trim : ∀ s i v, -Config.trimLimit ≤ v → v ≤ Config.trimLimit → R s (s.setPhase i { s.phase i with trim := v })
  correction : ∀ s i v, -(s.prof.correctionRange : Int) ≤ v → v ≤ (s.prof.correctionRange : Int) →
    R s (s.setPhase i { s.phase i with correction := v })
  /-- A phase station changed in its reference, capture, settle position or limit flag. -/
  phase : ∀ s i p, p.target = (s.phase i).target → p.trim = (s.phase i).trim → p.correction = (s.phase i).correction →
    p.base = (s.phase i).base → R s (s.setPhase i p)
  raise : ∀ s c, c ≠ .fault → R s (raiseCause s c none)
  fault : ∀ s f, R s (raiseFault s f)
  clear : ∀ s cs, cs.fault = false → R s (clearCauses s cs)

/-- A relation that holds over every primitive change of the blocks. -/
structure Closed (R : State → State → Prop) : Prop extends Calm R where
  line : ∀ s l, (l = .ready ∨ l = .printing) → R s (setLine s l)
  enter : ∀ s i, R s { s with os.entry := some i }
  leave : ∀ s, R s { s with os.entry := none }

variable {R : State → State → Prop}

/-! ### Folds and choices -/

theorem Calm.ite (_C : Calm R) {s a b : State} {c : Prop} [Decidable c] (ha : c → R s a) (hb : ¬c → R s b) :
    R s (if c then a else b) := by
  split
  · exact ha ‹_›
  · exact hb ‹_›

theorem Calm.foldl (C : Calm R) {α : Type} {f : State → α → State} (h : ∀ s a, R s (f s a)) (xs : List α) :
    ∀ s, R s (xs.foldl f s) := by
  induction xs with
  | nil => exact C.refl
  | cons a rest ih => exact fun s => C.trans (h s a) (ih _)

theorem Calm.overList (C : Calm R) {α : Type} {f : State → α → State} (h : ∀ s a, R s (f s a)) (xs : List α) (s : State) :
    R s (overList xs f s) := C.foldl h xs s

theorem Calm.same (C : Calm R) {s t : State} (h : t = s) : R s t := h ▸ C.refl s

/-! ### Reports -/

theorem loseReport_quiet (s : State) : Quiet s (loseReport s) := by constructor <;> first | rfl | exact id

/-- With no suspension the law of a suspended exchange interface asks nothing. -/
theorem suspensionLaw_of_not {s : State} (h : ¬s.xi.suspended = true) : SuspensionLaw s := fun x => absurd x h

theorem enqueue_quiet (s : State) (t : Transaction) (h : ¬s.xi.suspended = true) : Quiet s (enqueue s t) := by
  constructor
  case suspension => exact fun _ => suspensionLaw_of_not h
  all_goals first | rfl | exact id

theorem postAt_quiet (s : State) (b : ReportBody) (clk : Word) : Quiet s (postAt s b clk) := by
  unfold postAt
  dsimp only
  split
  · constructor <;> first | rfl | exact id
  · rename_i h
    simp only [Bool.or_eq_true, not_or] at h
    constructor
    case suspension => exact fun _ => suspensionLaw_of_not h.1
    all_goals first | rfl | exact id

theorem post_quiet (s : State) (b : ReportBody) : Quiet s (post s b) := postAt_quiet s b s.clock

theorem post_closed (C : Calm R) (s : State) (b : ReportBody) : R s (post s b) := C.quiet (post_quiet s b)

/-! ### Channels and the engaged indication -/

/-- What bringing the engaged indication up to the channels does (R68, R150). -/
theorem syncEngaged_eq (s : State) :
    syncEngaged s = { s with lc := { s.lc with
      engaged := anyEngaged s
      standstill := if anyEngaged s = s.lc.engaged then s.lc.standstill
        else if anyEngaged s then .running s.clock else .stopped } } := by
  unfold syncEngaged
  by_cases h : anyEngaged s = s.lc.engaged
  · rw [if_pos h, if_pos h, h]
  · rw [if_neg h, if_neg h]
    by_cases a : anyEngaged s = true
    · simp only [a, if_true, runTimer]
    · simp only [a, if_false, Bool.false_eq_true]

@[simp] theorem syncEngaged_sc (s : State) : (syncEngaged s).sc = s.sc := by rw [syncEngaged_eq]

/-- A report and the engaged indication do not touch each other. -/
theorem syncEngaged_post (s : State) (b : ReportBody) : syncEngaged (post s b) = post (syncEngaged s) b := by
  rw [syncEngaged_eq, syncEngaged_eq]
  unfold post postAt
  dsimp only
  split <;> rfl

theorem beginLifting_synced (C : Calm R) (s : State) (i : Station) : R s (syncEngaged (beginLifting s i)) :=
  C.lift s i _ (by simp) (by simp)

theorem beginLowering_synced (C : Calm R) (s : State) (i : Station) (h : s.lc.holds.any = false) :
    R s (syncEngaged (beginLowering s i)) := by
  unfold beginLowering
  split <;> exact C.lower s i _ h

theorem faultChannel_closed (C : Calm R) (s : State) (i : Station) (r : StationFault) : R s (faultChannel s i r) := by
  unfold faultChannel
  rw [syncEngaged_post]
  exact C.trans (C.lift s i _ (by simp) (by simp)) (post_closed C _ _)

/-! ### Changes of the web map -/

theorem modifyFirst_length {α : Type} (test : α → Bool) (f : α → α) (xs : List α) :
    (modifyFirst test f xs).length = xs.length := by
  induction xs with
  | nil => rfl
  | cons a rest ih =>
    unfold modifyFirst
    split
    · rfl
    · simp [ih]

theorem mem_modifyFirst {α : Type} (test : α → Bool) (f : α → α) (xs : List α) (x : α) (h : x ∈ modifyFirst test f xs) :
    x ∈ xs ∨ ∃ a, xs.find? test = some a ∧ x = f a := by
  induction xs with
  | nil => exact .inl h
  | cons a rest ih =>
    unfold modifyFirst at h
    split at h
    · rename_i ha
      rcases List.mem_cons.1 h with e | e
      · exact .inr ⟨a, List.find?_cons_of_pos ha, e⟩
      · exact .inl (List.mem_cons_of_mem _ e)
    · rename_i ha
      rcases List.mem_cons.1 h with e | e
      · exact .inl (e ▸ List.mem_cons_self)
      · rcases ih e with m | ⟨b, hb, e'⟩
        · exact .inl (List.mem_cons_of_mem _ m)
        · exact .inr ⟨b, (List.find?_cons_of_neg ha).trans hb, e'⟩

theorem modifyFirst_map {α β : Type} (test : α → Bool) (f : α → α) (g : α → β) (h : ∀ a, g (f a) = g a) (xs : List α) :
    (modifyFirst test f xs).map g = xs.map g := by
  induction xs with
  | nil => rfl
  | cons a rest ih =>
    unfold modifyFirst
    split
    · simp [h]
    · simp [ih]

/-- The running of the serials depends on the serials alone. -/
theorem SerialsRun.congr {next : Nat} {m n : List Segment} (e : n.map (·.serial) = m.map (·.serial))
    (h : SerialsRun next m) : SerialsRun next n := by
  have hl : n.length = m.length := by simpa using congrArg List.length e
  refine ⟨fun k r hr => ?_, hl ▸ h.2.1, h.2.2⟩
  have h1 : (m.map (·.serial))[k]? = some r.serial := by rw [← e, List.getElem?_map, hr]; rfl
  rw [List.getElem?_map] at h1
  obtain ⟨a, ha, hs⟩ := Option.map_eq_some_iff.1 h1
  rw [← hs, hl]
  exact h.1 k a ha

/-- The oldest record dropped. -/
theorem SerialsRun.tail {next : Nat} {m : List Segment} (h : SerialsRun next m) : SerialsRun next m.tail := by
  cases m with
  | nil => exact h
  | cons a rest =>
    obtain ⟨h1, h2, h3⟩ := h
    refine ⟨fun k r hr => ?_, ?_, h3⟩
    · have := h1 (k + 1) r (by simpa using hr)
      simp only [List.length_cons, List.tail_cons] at *
      omega
    · simp only [List.length_cons, List.tail_cons] at *
      omega

/-- A record with the next serial joined. -/
theorem SerialsRun.snoc {next : Nat} {m : List Segment} (h : SerialsRun next m) (r : Segment) (hr : r.serial = next)
    (hn : next < 4294967296) : SerialsRun (next + 1) (m ++ [r]) := by
  obtain ⟨h1, h2, h3⟩ := h
  refine ⟨fun k x hx => ?_, ?_, hn⟩
  · rw [List.getElem?_append] at hx
    simp only [List.length_append, List.length_singleton]
    split at hx
    · have := h1 k x hx
      omega
    · have hk : k - m.length = 0 := by
        by_contra hne
        rw [List.getElem?_eq_none (by simp; omega)] at hx
        cases hx
      rw [hk] at hx
      simp only [List.getElem?_cons_zero, Option.some.injEq] at hx
      rw [← hx, hr]
      omega
  · simp only [List.length_append, List.length_singleton]
    omega

/-- The first record that passes a test changed, its serial and length kept, to another that keeps the laws of a record. -/
theorem modifyRecord_keeps (s : State) (test : Segment → Bool) (f : Segment → Segment)
    (same : ∀ r, (f r).serial = r.serial ∧ (f r).length = r.length)
    (h : ∀ r, s.wt.map.find? test = some r → SegmentLaw r → SegmentLaw (f r)) (m : MapLaw s) :
    MapLaw { s with wt.map := modifyFirst test f s.wt.map } := by
  refine ⟨by rw [modifyFirst_length]; exact m.1, m.2.1.congr (modifyFirst_map test f _ (fun r => (same r).1) _), fun r hr => ?_,
    m.2.2.2⟩
  rcases mem_modifyFirst test f s.wt.map r hr with e | ⟨a, ha, e⟩
  · exact m.2.2.1 r e
  · have l := m.2.2.1 a (List.mem_of_find?_eq_some ha)
    rw [e, (same a).2]
    exact ⟨h a ha l.1, l.2⟩

/-- Every record changed, its serial and length kept, to another that keeps the laws of a record. -/
theorem mapRecords_keeps (s : State) (f : Segment → Segment) (same : ∀ r, (f r).serial = r.serial ∧ (f r).length = r.length)
    (h : ∀ r, SegmentLaw r → SegmentLaw (f r)) (m : MapLaw s) : MapLaw { s with wt.map := s.wt.map.map f } := by
  refine ⟨by rw [List.length_map]; exact m.1, m.2.1.congr ?_, fun r hr => ?_, m.2.2.2⟩
  · rw [List.map_map]
    exact List.map_congr_left fun r _ => (same r).1
  · obtain ⟨a, ha, e⟩ := List.mem_map.1 hr
    have l := m.2.2.1 a ha
    rw [← e, (same a).2]
    exact ⟨h a l.1, l.2⟩

/-- The oldest record dropped. -/
theorem dropOldest_keeps (s : State) (m : MapLaw s) : MapLaw { s with wt.map := s.wt.map.tail } :=
  ⟨by rw [List.length_tail]; exact (Nat.sub_le _ _).trans m.1, m.2.1.tail,
    fun r hr => m.2.2.1 r (List.mem_of_mem_tail hr), m.2.2.2⟩

/-! ### Changes of the pending cut list -/

theorem mem_insertCut (e x : CutEntry) (l : List CutEntry) : x ∈ insertCut e l ↔ x = e ∨ x ∈ l := by
  induction l with
  | nil => simp [insertCut]
  | cons c rest ih =>
    unfold insertCut
    split
    · simp only [List.mem_cons, ih]
      tauto
    · simp only [List.mem_cons]

/-- An entry joined at its place keeps the order (R52). -/
theorem insertCut_ascends (e : CutEntry) (l : List CutEntry) (h : l.Pairwise fun a b => a.position ≤ b.position) :
    (insertCut e l).Pairwise fun a b => a.position ≤ b.position := by
  induction l with
  | nil => simp [insertCut]
  | cons c rest ih =>
    have h' := List.pairwise_cons.1 h
    unfold insertCut
    split
    · rename_i hc
      refine List.pairwise_cons.2 ⟨fun x hx => ?_, ih h'.2⟩
      rcases (mem_insertCut e x rest).1 hx with rfl | m
      · exact hc
      · exact h'.1 x m
    · rename_i hc
      refine List.pairwise_cons.2 ⟨fun x hx => ?_, h⟩
      rcases List.mem_cons.1 hx with rfl | m
      · omega
      · have := h'.1 x m
        omega

theorem enterMarks_ascends (p finish : Nat) (ms : List MarkRecord) :
    ∀ (i : Nat) (l : List CutEntry), (l.Pairwise fun a b => a.position ≤ b.position) →
      (enterMarks p finish i ms l).Pairwise fun a b => a.position ≤ b.position := by
  induction ms with
  | nil => exact fun _ _ h => h
  | cons m rest ih =>
    intro i l h
    refine ih _ _ ?_
    split
    · exact insertCut_ascends _ _ h
    · exact h

theorem planEnd_ascends (c : CutPlanner) (p finish : Nat) (h : CutsAscend c) : CutsAscend (planEnd c p finish) := by
  unfold CutsAscend planEnd
  dsimp only
  have h1 := enterMarks_ascends p finish c.marks 0 _ (h.filter (keptBefore finish))
  split
  · exact insertCut_ascends _ _ h1
  · exact h1

theorem withdrawOrder_ascends (c : CutPlanner) (h : CutsAscend c) : CutsAscend (withdrawOrder c) := h.filter _

theorem planTake_ascends (c : CutPlanner) (o : Order) (origin finish p : Nat) (h : CutsAscend c) :
    CutsAscend (planTake c o origin finish p) := by
  unfold planTake
  refine planEnd_ascends _ _ _ ?_
  split <;> exact withdrawOrder_ascends c h

theorem queueSeam_ascends (c : CutPlanner) (position zoneStart zoneEnd : Nat) (h : CutsAscend c) :
    CutsAscend (queueSeam c position zoneStart zoneEnd) := insertCut_ascends _ _ (insertCut_ascends _ _ h)

theorem extendSeam_ascends (c : CutPlanner) (seam zoneEnd : Nat) (h : CutsAscend c) : CutsAscend (extendSeam c seam zoneEnd) :=
  insertCut_ascends _ _ (h.filter _)

theorem applyMark_ascends (c : CutPlanner) (i : Nat) (h : CutsAscend c) : CutsAscend (applyMark c i) := by
  unfold applyMark
  split <;> exact h

/-- A record that gains a station of its required set in its printed set keeps the laws of a record (R76). -/
theorem addPrinted_law (r : Segment) (i : Station) (h : inSet r.required i = true) (l : SegmentLaw r) :
    SegmentLaw { r with printed := addTo r.printed i } := by
  refine ⟨?_, l.2⟩
  have h1 := l.1
  simp only [minusSet, addTo, oneSet, inSet] at *
  ext j hj
  have h2 := congrArg (fun b : BitVec 16 => b.getLsbD j) h1
  simp only [BitVec.getLsbD_and, BitVec.getLsbD_not, hj, decide_true, Bool.true_and, BitVec.getLsbD_zero] at h2
  simp only [← BitVec.getLsbD_eq_getElem]
  by_cases e : j = i.val
  · subst e; simp [h]
  · have : (1#16).getLsbD (j - i.val) = false ∨ j < i.val := by
      by_cases l : j < i.val
      · exact .inr l
      · refine .inl ?_
        have : j - i.val ≠ 0 := by omega
        simp [this]
    rcases this with k | k <;> simp_all

theorem addStopMark_quiet (s : State) (i : Station) : Quiet s (addStopMark s i) := by
  unfold addStopMark
  split
  · constructor <;> first | rfl | exact id
  · constructor
    case map => exact modifyRecord_keeps s _ _ (fun _ => ⟨rfl, rfl⟩) fun r _ l => l
    all_goals first | rfl | exact id

theorem compareMarks_closed (C : Calm R) (s : State) : R s (compareMarks s) := by
  unfold compareMarks
  exact C.ite (fun _ => C.ite (fun _ => C.clear s _ rfl) fun _ => C.refl s)
    fun _ => C.ite (fun _ => C.raise s _ (by simp)) fun _ => C.refl s

theorem checkOverfill_closed (C : Calm R) (s : State) : R s (checkOverfill s) := by
  unfold checkOverfill
  refine C.ite (fun _ => C.ite (fun _ => C.trans (C.quiet ?_) (C.fault _ _)) fun _ => C.refl s) fun _ => C.quiet ?_
  all_goals constructor <;> first | rfl | exact id

theorem deliverFestoon_closed (C : Calm R) (s : State) : R s (deliverFestoon s) :=
  C.trans (compareMarks_closed C s) (checkOverfill_closed C _)

/-! ### Phase Unit -/

theorem driveTarget_closed (C : Calm R) (s : State) (i : Station) : R s (driveTarget s i) := by
  unfold driveTarget
  exact C.ite (fun _ => C.target s i _ _) fun _ => C.refl s

theorem driveTargets_closed (C : Calm R) (s : State) : R s (driveTargets s) :=
  C.overList (driveTarget_closed C) _ s

theorem beginTransit_closed (C : Calm R) (s : State) (i : Station) : R s (beginTransit s i) := by
  unfold beginTransit
  exact C.phase s i _ rfl rfl rfl rfl

theorem storeTrim_closed (C : Calm R) (s : State) (i : Station) (v : Int) (h1 : -Config.trimLimit ≤ v)
    (h2 : v ≤ Config.trimLimit) : R s (storeTrim s i v) := by
  unfold storeTrim
  exact C.ite (fun _ => C.refl s) fun _ =>
    C.trans (C.trim s i v h1 h2) (C.trans (driveTarget_closed C _ i) (beginTransit_closed C _ i))

theorem storeCorrection_closed (C : Calm R) (s : State) (i : Station) (v : Int)
    (h1 : -(s.prof.correctionRange : Int) ≤ v) (h2 : v ≤ (s.prof.correctionRange : Int)) :
    R s (storeCorrection s i v) := by
  unfold storeCorrection
  exact C.ite (fun _ => C.refl s) fun _ =>
    C.trans (C.correction s i v h1 h2) (C.trans (driveTarget_closed C _ i) (beginTransit_closed C _ i))

theorem clampTo_bounds (limit v : Int) (h : 0 ≤ limit) : -limit ≤ clampTo limit v ∧ clampTo limit v ≤ limit := by
  unfold clampTo
  omega

theorem applyCorrection_closed (C : Calm R) (s : State) (i : Station) (tag : Word) (raw e : Int) :
    R s (applyCorrection s i tag raw e) := by
  have hb := clampTo_bounds s.prof.correctionRange raw (by omega)
  have h1 := storeCorrection_closed C s i _ hb.1 hb.2
  unfold applyCorrection
  dsimp only
  refine C.trans h1 (C.ite (fun _ => C.ite (fun _ => C.refl _) fun _ => ?_) fun _ => C.phase _ i _ rfl rfl rfl rfl)
  refine C.trans ?_ (post_closed C _ _)
  exact C.phase _ i _ rfl rfl rfl rfl

theorem changePhaseOrder_quiet (s : State) (tag : Word) (f : PhaseOrder → PhaseOrder) :
    Quiet s (changePhaseOrder s tag f) := by constructor <;> first | rfl | exact id

theorem uncapture_closed (C : Calm R) (s : State) (i : Station) : R s (uncapture s i) := C.phase s i _ rfl rfl rfl rfl

theorem refuseCapture_closed (C : Calm R) (s : State) (i : Station) (o : PhaseOrder) (index : Nat) (e : Int) :
    R s (refuseCapture s i o index e) := by
  unfold refuseCapture
  exact C.ite (fun _ => C.refl s) fun _ => C.trans (C.quiet (changePhaseOrder_quiet _ _ _)) (post_closed C _ _)

theorem capture_closed (C : Calm R) (s : State) (i : Station) (o : PhaseOrder) (index : Nat) (e : Int) :
    R s (capture s i o index e) := by
  unfold capture
  refine C.ite (fun _ => C.trans ?_ (applyCorrection_closed C _ _ _ _ _)) fun _ => refuseCapture_closed C s i o index e
  exact C.phase s i _ rfl rfl rfl rfl

theorem track_closed (C : Calm R) (s : State) (i : Station) (tag : Word) (e : Int) : R s (track s i tag e) := by
  unfold track
  exact C.ite (fun _ => C.refl s) fun _ => applyCorrection_closed C s i _ _ _

theorem joinOrder_closed (C : Calm R) (s : State) (i : Station) (o : PhaseOrder) : R s (joinOrder s i o) := by
  unfold joinOrder
  exact C.ite (fun _ => C.trans (C.quiet (changePhaseOrder_quiet _ _ _)) (uncapture_closed C _ _)) fun _ => C.refl s

theorem correctStation_closed (C : Calm R) (tag : Word) (index : Nat) (s : State) (named : Station × Int) :
    R s (correctStation tag index s named) := by
  unfold correctStation
  split
  · exact C.refl s
  · exact C.ite (fun _ => C.refl s) fun _ => C.trans (joinOrder_closed C _ _ _)
      (C.ite (fun _ => track_closed C _ _ _ _) fun _ => capture_closed C _ _ _ _ _)

theorem phaseTake_quiet (s : State) (o : Order) (origin : Nat) (late : Bool) : Quiet s (phaseTake s o origin late) := by
  unfold phaseTake
  split <;> constructor <;> first | rfl | exact id

theorem phaseForget_quiet (s : State) (tag : Word) : Quiet s (phaseForget s tag) := by constructor <;> first | rfl | exact id

theorem meetSwitch_closed (C : Calm R) (s : State) (i : Station) : R s (meetSwitch s i) := by
  unfold meetSwitch
  split
  · refine C.trans ?_ (driveTarget_closed C _ _)
    exact C.phase s i _ rfl rfl rfl rfl
  · exact C.refl s

theorem dropSwitches_quiet (s : State) (l : List Nat) : Quiet s { s with pu.switches := l } := by constructor <;> first | rfl | exact id

theorem meetSwitches_closed (C : Calm R) (s : State) : R s (meetSwitches s) :=
  C.trans (C.overList (meetSwitch_closed C) stationList s) (C.quiet (dropSwitches_quiet _ _))

theorem meetSettle_closed (C : Calm R) (s : State) (i : Station) : R s (meetSettle s i) := by
  unfold meetSettle
  exact C.ite (fun _ => C.phase s i _ rfl rfl rfl rfl) fun _ => C.refl s

theorem meetSettles_closed (C : Calm R) (s : State) : R s (meetSettles s) := C.overList (meetSettle_closed C) _ s

/-! ### Station Controller -/

theorem addStretch_closed (C : Calm R) (s : State) (x : Stretch) : R s (addStretch s x) :=
  C.overList (fun s i => by
    unfold addStretchAt
    exact C.ite (fun _ => C.chan s i _ (.inl rfl)) fun _ => C.refl s) _ s

theorem actOnNeed_synced (C : Calm R) (s : State) (i : Station) (need : Bool)
    (h : need = true → s.lc.holds.any = false) : R s (syncEngaged (actOnNeed s i need)) := by
  unfold actOnNeed
  split
  · split
    · exact beginLowering_synced C s i (h ‹_›)
    · exact C.sync s
  · split
    · exact C.sync s
    · exact beginLifting_synced C s i
  · split
    · exact C.sync s
    · exact beginLifting_synced C s i
  · exact C.trans (C.chan s i { s.chan i with pendingLower := need } (.inl rfl)) (C.sync _)
  · exact C.sync s
  · exact C.sync s

theorem evaluateLead_closed (C : Calm R) (s : State) (i : Station) (x : Stretch) : R s (evaluateLead s i x) := by
  unfold evaluateLead
  refine C.ite (fun _ => C.refl s) fun _ => C.trans ?_ (actOnNeed_synced C _ i _ fun hn => ?_)
  · exact C.chan s i _ (.inl rfl)
  simp only [stretchNeeds, Bool.and_eq_true, Bool.not_eq_true'] at hn
  exact hn.1.1.2

theorem addPrinted_quiet (s : State) (n : Nat) (i : Station)
    (h : ∀ r, recordOfSerial s n = some r → inSet r.required i = true) : Quiet s (addPrinted s n i) := by
  constructor
  case map => exact modifyRecord_keeps s _ _ (fun _ => ⟨rfl, rfl⟩) fun r hr l => addPrinted_law r i (h r hr) l
  all_goals first | rfl | exact id

/-- The record of a stretch that requires a station requires it. -/
theorem stretchRequires_record (s t : State) (x : Stretch) (i : Station) (n : Nat) (hx : x.serial = some n)
    (h : stretchRequires s x i = true) (hm : t.wt.map = s.wt.map) (r : Segment) (hr : recordOfSerial t n = some r) :
    inSet r.required i = true := by
  unfold stretchRequires stretchRecord recordOfSerial at *
  rw [hx] at h
  rw [hm] at hr
  simp only [hr] at h
  exact h

theorem meetStationPoint_closed (C : Calm R) (s : State) (i : Station) (x : Stretch) : R s (meetStationPoint s i x) := by
  have h1 : R s (if (s.chan i).state == .out then s
      else s.setChan i { s.chan i with pressure := stretchPressure s x }) :=
    C.ite (fun _ => C.refl s) fun _ => C.chan s i _ (.inl rfl)
  have h2 : (if (s.chan i).state == .out then s
      else s.setChan i { s.chan i with pressure := stretchPressure s x }).wt.map = s.wt.map := by split <;> rfl
  unfold meetStationPoint
  dsimp only
  split
  · rename_i n hx
    refine C.ite (fun hc => C.trans h1 (C.quiet (addPrinted_quiet _ _ _ ?_))) fun _ => h1
    simp only [Bool.and_eq_true] at hc
    exact stretchRequires_record s _ x i n hx hc.2 h2
  · exact h1

theorem meetStation_closed (C : Calm R) (s : State) (i : Station) : R s (meetStation s i) := by
  have h1 : R s (match pointHere s i with
      | some x => meetStationPoint (s.setChan i { s.chan i with points := (s.chan i).points.tail }) i x
      | none => s) := by
    split
    · refine C.trans ?_ (meetStationPoint_closed C _ _ _)
      exact C.chan s i _ (.inl rfl)
    · exact C.refl s
  unfold meetStation
  refine C.ite (fun _ => ?_) fun _ => C.refl s
  dsimp only
  split
  · refine C.trans h1 (C.trans ?_ (evaluateLead_closed C _ _ _))
    exact C.chan _ i _ (.inl rfl)
  · exact h1

theorem meetStations_closed (C : Calm R) (s : State) : R s (meetStations s) := C.overList (meetStation_closed C) _ s

theorem endOfLift_closed (C : Calm R) (s : State) (i : Station) (hl : (s.chan i).state = .lifting) :
    R s (endOfLift s i) := by
  unfold endOfLift
  dsimp only
  refine C.ite (fun h => ?_) fun _ => C.chan s i _ (.inr ⟨by simp, by simp, by simp [hl]⟩)
  have hh : s.lc.holds.any = false := by
    simp only [Bool.and_eq_true, Bool.not_eq_true'] at h
    exact h.2
  exact C.trans (C.chan s i _ (.inr ⟨by simp, by simp, by simp [hl]⟩)) (beginLowering_synced C _ i hh)

theorem judgeSensor_closed (C : Calm R) (s : State) (i : Station) (k : Sensor) (b : Bool) : R s (judgeSensor s i k b) := by
  unfold judgeSensor
  split
  · exact C.refl s
  · exact C.refl s
  all_goals
    refine C.ite (fun _ => faultChannel_closed C s i _) fun _ => ?_
    split
    · exact faultChannel_closed C s i _
    · rename_i h
      exact C.engage s i _ h
    · exact faultChannel_closed C s i _
    · rename_i h
      exact endOfLift_closed C s i h
    · exact C.refl s

theorem actuationExpiry_closed (C : Calm R) (s : State) (i : Station) : R s (actuationExpiry s i) := by
  unfold actuationExpiry
  refine C.ite (fun _ => ?_) fun _ => C.refl s
  split
  · exact faultChannel_closed C s i _
  · exact C.trans (faultChannel_closed C s i _) (C.fault _ _)
  all_goals exact C.refl s

theorem setManual_closed (C : Calm R) (s : State) (m : StationSet) (b : Bool) : R s (setManual s m b) :=
  C.overList (fun s i => by
    unfold setManualAt
    exact C.ite (fun _ => C.chan s i _ (.inl rfl)) fun _ => C.refl s) _ s

theorem clearChannels_closed (C : Calm R) (s : State) : R s (clearChannels s) :=
  C.overList (fun s i => by
    unfold clearChannel
    refine C.ite (fun h => ?_) fun _ => C.refl s
    dsimp only
    refine C.trans (C.trans ?_ (uncapture_closed C _ i)) (C.ite (fun _ => faultChannel_closed C _ i _) fun _ => C.refl _)
    simp only [Bool.and_eq_true, beq_iff_eq] at h
    exact C.chan s i _ (.inr ⟨by simp, by simp, by simp [h.1]⟩)) _ s

/-! ### Order ends and reads -/

theorem handOver_quiet (s : State) (t : Transaction) : Quiet s (handOver s t) := by
  unfold handOver
  split
  · constructor <;> first | rfl | exact id
  · exact enqueue_quiet s t ‹_›

theorem startRead_quiet (s : State) (t : Transaction) (st : NextStatus) : Quiet s (startRead s t st) := by
  unfold startRead
  split
  · constructor <;> first | rfl | exact id
  · constructor
    case suspension => exact fun _ => suspensionLaw_of_not ‹_›
    all_goals first | rfl | exact id

/-- A slot read due in a suspension is not started (R34). -/
theorem startSlotRead_suspended {s : State} (h : s.xi.suspended = true) :
    startSlotRead s = { s with os.status := .empty, os.copy := none } := by
  simp [startSlotRead, noteConfirm, startRead, h]

/-- A slot read started, with what it notes of the confirm point (R29, R31). -/
theorem startSlotRead_open {s : State} (h : ¬s.xi.suspended = true) :
    startSlotRead s =
      enqueue { s with os.status := .reading, os.pastConfirm := confirmPassed s } (.slotRead s.os.next) := by
  simp [startSlotRead, noteConfirm, startRead, h]

theorem startSlotRead_quiet (s : State) : Quiet s (startSlotRead s) := by
  by_cases h : s.xi.suspended = true
  · rw [startSlotRead_suspended h]
    constructor <;> first | rfl | exact id
  · rw [startSlotRead_open h]
    constructor
    case suspension => exact fun _ => suspensionLaw_of_not h
    all_goals first | rfl | exact id

theorem startConfirmRead_quiet (s : State) : Quiet s (startConfirmRead s) := startRead_quiet s _ _

theorem discardInHand_ends (h : InHand) :
    recordEnds ((discardInHand h).access :: (discardInHand h).rest) = recordEnds (h.access :: h.rest) := by
  unfold discardInHand
  split <;> rfl

theorem discardReads_quiet (s : State) : Quiet s (discardReads s) := by
  constructor
  case ahead =>
    show endsAhead { s.xi with queue := _, inHand := s.xi.inHand.map discardInHand } = endsAhead s.xi
    unfold endsAhead
    cases s.xi.inHand with
    | none => rfl
    | some h => exact discardInHand_ends h
  case suspension =>
    intro l h
    obtain ⟨q, i, f⟩ := l h
    exact ⟨by simp [discardReads, q], by simp [discardReads, i], f⟩
  all_goals first | rfl | exact id

theorem changeOrder_quiet (s : State) (i : Slot) (f : InFlight → InFlight) : Quiet s (changeOrder s i f) := by
  constructor <;> first | rfl | exact id

theorem atConfirmPoint_closed (C : Calm R) (s : State) : R s (atConfirmPoint s) := by
  unfold atConfirmPoint
  split
  · exact C.quiet (startConfirmRead_quiet s)
  · exact C.quiet (startSlotRead_quiet s)
  · refine C.quiet ?_
    constructor <;> first | rfl | exact id
  all_goals exact C.refl s

theorem moveEnd_quiet (s : State) (r : InFlight) : Quiet s (moveEnd s r) := by
  constructor
  case cuts => exact planEnd_ascends _ _ _
  all_goals first | rfl | exact id

theorem reckonEnd_closed (C : Calm R) (s : State) (r : InFlight) : R s (reckonEnd s r) := by
  unfold reckonEnd
  dsimp only
  refine C.ite (fun _ => C.quiet (changeOrder_quiet _ _ _)) fun _ => ?_
  exact C.trans (C.quiet (moveEnd_quiet s _)) (C.ite (fun _ => atConfirmPoint_closed C _) fun _ => C.refl _)

theorem applySeamRule_closed (C : Calm R) (s : State) : R s (applySeamRule s) := by
  unfold applySeamRule
  split
  · exact C.ite (fun _ => C.refl s) fun _ => reckonEnd_closed C s _
  · exact C.refl s

theorem barNext_quiet (s : State) : Quiet s (barNext s) := by
  have h := discardReads_quiet s
  constructor
  case ahead => exact h.ahead
  case suspension => exact h.suspension
  all_goals first | rfl | exact id

theorem failProof_closed (C : Calm R) (s : State) (r : InFlight) (index : Nat) (station : Station) :
    R s (failProof s r index station) := by
  unfold failProof
  dsimp only
  refine C.trans (C.quiet (changeOrder_quiet s r.slot fun _ => withFailure r index station))
    (C.trans (C.raise _ .order (by simp)) ?_)
  exact C.ite (fun _ => C.trans (C.quiet (barNext_quiet _)) (reckonEnd_closed C _ _)) fun _ => C.refl _

/-! ### Mark Reader -/

theorem changeEntry_quiet (s : State) (tag : Word) (index : Nat) (i : Station) (f : ScheduleEntry → ScheduleEntry) :
    Quiet s (changeEntry s tag index i f) := by constructor <;> first | rfl | exact id

theorem setRegisterDefect_quiet (s : State) (sch : Schedule) : Quiet s (setRegisterDefect s sch) := by
  constructor
  case map =>
    refine mapRecords_keeps s _ (fun r => ?_) fun r l => ?_
    · split <;> exact ⟨rfl, rfl⟩
    · split <;> exact l
  all_goals first | rfl | exact id

theorem checkTolerance_quiet (s : State) (sch : Schedule) (errors : List (Station × Int)) :
    Quiet s (checkTolerance s sch errors) := by
  unfold checkTolerance
  split
  · exact setRegisterDefect_quiet s sch
  · constructor <;> first | rfl | exact id

theorem raiseWorst_quiet (s : State) (tag : Word) (w : Option (Station × Nat)) : Quiet s (raiseWorst s tag w) := by
  unfold raiseWorst
  split
  · split <;> constructor <;> first | rfl | exact id
  · constructor <;> first | rfl | exact id

theorem compareProof_closed (C : Calm R) (s : State) (tag : Word) (index : Nat) (w : Option (Station × Nat)) :
    R s (compareProof s tag index w) := by
  unfold compareProof
  split
  · exact C.ite (fun _ => failProof_closed C s _ _ _) fun _ => C.refl s
  · exact C.refl s

theorem evaluateReferenced_closed (C : Calm R) (s : State) (sch : Schedule) (d : Int) :
    R s (evaluateReferenced s sch d) := by
  unfold evaluateReferenced
  dsimp only
  refine C.trans ?_ (compareProof_closed C _ _ _ _)
  refine C.trans ?_ (C.quiet (raiseWorst_quiet _ _ _))
  exact C.trans (C.quiet (checkTolerance_quiet _ _ _)) (C.foldl (correctStation_closed C _ _) _ _)

theorem evaluateRepeat_closed (C : Calm R) (s : State) (sch : Schedule) : R s (evaluateRepeat s sch) := by
  have h1 : R s (match keyDeviation sch with
      | some d => evaluateReferenced s sch d
      | none => s) := by
    split
    · exact evaluateReferenced_closed C s sch _
    · exact C.refl s
  exact C.trans h1 (C.quiet (by constructor <;> first | rfl | exact id))

theorem evaluateIfComplete_closed (C : Calm R) (s : State) (tag : Word) (index : Nat) :
    R s (evaluateIfComplete s tag index) := by
  unfold evaluateIfComplete
  split
  · exact C.ite (fun _ => evaluateRepeat_closed C s _) fun _ => C.refl s
  · exact C.refl s

theorem setMisses_quiet (s : State) (i : Station) (n : Nat) : Quiet s (setMisses s i n) := by constructor <;> first | rfl | exact id

theorem missEntry_closed (C : Calm R) (s : State) (sch : Schedule) (e : ScheduleEntry) : R s (missEntry s sch e) := by
  unfold missEntry
  dsimp only
  refine C.trans (C.quiet (setRegisterDefect_quiet s sch)) (C.ite (fun _ => ?_) fun _ => C.quiet (setMisses_quiet _ _ _))
  exact C.trans (C.quiet (setMisses_quiet _ _ _)) (C.trans (post_closed C _ _) (uncapture_closed C _ _))

theorem settleEntry_closed (C : Calm R) (s : State) (c : CurrentEntry) : R s (settleEntry s c) := by
  unfold settleEntry
  split
  · exact C.refl s
  · split
    · exact C.refl s
    · exact C.ite (fun _ => C.trans (C.quiet (changeEntry_quiet _ _ _ _ _)) (C.quiet (setMisses_quiet _ _ _)))
        fun _ => C.trans (C.quiet (changeEntry_quiet _ _ _ _ _)) (missEntry_closed C _ _ _)

theorem idleReader_quiet (s : State) : Quiet s (idleReader s) := by constructor <;> first | rfl | exact id

theorem evaluationExpiry_closed (C : Calm R) (s : State) : R s (evaluationExpiry s) := by
  unfold evaluationExpiry
  refine C.ite (fun _ => ?_) fun _ => C.refl s
  split
  · exact C.trans (settleEntry_closed C _ _) (C.trans (C.quiet (idleReader_quiet _)) (evaluateIfComplete_closed C _ _ _))
  · exact C.quiet (idleReader_quiet s)

theorem beginEvaluating_quiet (s : State) (c : CurrentEntry) (m : Option Int) : Quiet s (beginEvaluating s c m) := by
  constructor <;> first | rfl | exact id

theorem readEdge_closed (C : Calm R) (s : State) : R s (readEdge s) := by
  unfold readEdge
  split
  · split
    · exact C.quiet (beginEvaluating_quiet _ _ _)
    · exact C.refl s
  · exact C.refl s

theorem meetClosing_closed (C : Calm R) (s : State) : R s (meetClosing s) := by
  unfold meetClosing
  refine C.ite (fun _ => ?_) fun _ => C.refl s
  split
  · exact C.quiet (beginEvaluating_quiet _ _ _)
  · exact C.refl s

theorem testOpening_closed (C : Calm R) (s : State) (sch : Schedule) (e : ScheduleEntry) : R s (testOpening s sch e) := by
  unfold testOpening
  dsimp only
  refine C.ite (fun _ => C.trans (C.quiet (changeEntry_quiet _ _ _ _ _)) (evaluateIfComplete_closed C _ _ _)) fun _ => ?_
  refine C.ite (fun _ => C.quiet ?_) fun _ =>
    C.trans (C.quiet (changeEntry_quiet _ _ _ _ _)) (evaluateIfComplete_closed C _ _ _)
  constructor <;> first | rfl | exact id

theorem meetOpenings_closed (C : Calm R) (s : State) : R s (meetOpenings s) := by
  unfold meetOpenings
  refine C.overList ?_ _ s
  exact fun t x => testOpening_closed C t x.1 x.2

theorem meetBuild_closed (C : Calm R) (s : State) (c : Cursor) : R s (meetBuild s c) := by
  unfold meetBuild
  refine C.ite (fun _ => C.refl s) fun _ => C.ite (fun _ => C.quiet ?_) fun _ => ?_
  · constructor <;> first | rfl | exact id
  · dsimp only
    refine C.ite (fun _ => C.quiet ?_) fun _ => C.trans (C.quiet ?_) (evaluateIfComplete_closed C _ _ _)
    all_goals constructor <;> first | rfl | exact id

theorem meetBuilds_closed (C : Calm R) (s : State) : R s (meetBuilds s) := C.overList (meetBuild_closed C) _ s

theorem readerTake_closed (C : Calm R) (s : State) (o : Order) (origin : Nat) : R s (readerTake s o origin) := by
  unfold readerTake
  refine C.ite (fun _ => C.trans (C.quiet ?_) (meetBuild_closed C _ _)) fun _ => C.refl s
  constructor <;> first | rfl | exact id

/-! ### Cuts and seams -/

theorem refuseRecord_closed (C : Calm R) (s : State) : R s (refuseRecord s) := by
  unfold refuseRecord
  refine C.ite (fun _ => C.refl s) fun _ => C.trans (C.trans (C.quiet ?_) (C.fault _ _)) (post_closed C _ _)
  constructor <;> first | rfl | exact id

/-- A new record keeps the laws of a record (R10). -/
theorem newSegment_law (s : State) : SegmentLaw (newSegment s) := by
  refine ⟨by simp [newSegment, minusSet], by simp [newSegment], ?_⟩
  unfold newSegment requiredNow
  dsimp only
  cases entryRecord s with
  | none => intro _; rfl
  | some r =>
    dsimp only
    unfold fabricOf printsDesign
    cases r.order.kind <;> simp

/-- What making a record does to the web tracker, once (R9, R11). -/
theorem makeRecord_wt (s : State) : (makeRecord s).wt = { s.wt with
    map := s.wt.map ++ [newSegment s], nextSerial := s.wt.nextSerial + 1, lastCut := s.wt.p, lost := false } := by
  unfold makeRecord noteSerial
  dsimp only
  split <;> rfl

theorem makeRecord_prof (s : State) : (makeRecord s).prof = s.prof := by
  unfold makeRecord noteSerial
  dsimp only
  split <;> rfl

theorem makeRecord_keeps (s : State) (full : mapFull s = false) (gone : serialsGone s = false) (ahead : s.wt.lastCut < s.wt.p)
    (m : MapLaw s) : MapLaw (makeRecord s) := by
  have full : s.wt.map.length < Config.mapCapacity := Nat.lt_of_not_le (of_decide_eq_false full)
  have gone : s.wt.nextSerial ≤ 4294967295 := Nat.le_of_not_lt (of_decide_eq_false gone)
  unfold MapLaw
  rw [makeRecord_wt, makeRecord_prof]
  refine ⟨?_, m.2.1.snoc _ rfl (by omega), fun r hr => ?_, Nat.le_add_right _ _⟩
  · rw [List.length_append]
    exact full
  · rcases List.mem_append.1 hr with a | a
    · exact m.2.2.1 r a
    · rw [List.mem_singleton.1 a]
      have := m.2.2.2
      refine ⟨newSegment_law s, ?_, ?_⟩
      all_goals
        show _ ≤ _
        simp only [newSegment]
        omega

theorem makeRecord_quiet (s : State) (full : mapFull s = false) (gone : serialsGone s = false)
    (ahead : s.wt.lastCut < s.wt.p) : Quiet s (makeRecord s) := by
  constructor
  case map => exact makeRecord_keeps s full gone ahead
  case cut =>
    rw [makeRecord_wt]
    exact ahead.le
  all_goals
    unfold makeRecord noteSerial
    dsimp only
    split <;> first | rfl | exact id

theorem moveCut_quiet (s : State) (ahead : s.wt.lastCut < s.wt.p) : Quiet s { s with wt.lastCut := s.wt.p } := by
  constructor
  case map => exact fun m => ⟨m.1, m.2.1, m.2.2.1, Nat.le_add_right _ _⟩
  case cut => exact ahead.le
  all_goals first | rfl | exact id

theorem recordStretch_closed (C : Calm R) (s : State) (ahead : s.wt.lastCut < s.wt.p) : R s (recordStretch s) := by
  unfold recordStretch
  refine C.ite (fun _ => C.trans (C.quiet (moveCut_quiet s ahead)) (refuseRecord_closed C _)) fun h => ?_
  simp only [Bool.or_eq_true, not_or, Bool.not_eq_true] at h
  exact C.quiet (makeRecord_quiet s h.1 h.2 ahead)

theorem closeStretch_closed (C : Calm R) (s : State) : R s (closeStretch s) := by
  unfold closeStretch
  refine C.ite (fun _ => C.refl s) fun h => ?_
  exact C.trans (C.trans (recordStretch_closed C s (by omega)) (addStretch_closed C _ _)) (meetStations_closed C _)

theorem setPlanner_quiet (s : State) (c : CutPlanner) (h : CutsAscend s.cp → CutsAscend c) : Quiet s { s with cp := c } := by
  constructor
  case cuts => exact h
  all_goals first | rfl | exact id

theorem mergeSeam_closed (C : Calm R) (s : State) (e : SeamEntry) (z : Nat) : R s (mergeSeam s e z) := by
  unfold mergeSeam
  exact C.trans (C.trans (C.quiet (setPlanner_quiet s _ (extendSeam_ascends _ _ _))) (post_closed C _ _))
    (applySeamRule_closed C _)

theorem acceptSeam_closed (C : Calm R) (s : State) (p a b : Nat) : R s (acceptSeam s p a b) := by
  unfold acceptSeam
  exact C.trans (C.trans (C.quiet (setPlanner_quiet s _ (queueSeam_ascends _ _ _ _))) (post_closed C _ _))
    (applySeamRule_closed C _)

theorem loseSeam_closed (C : Calm R) (s : State) (a b : Nat) : R s (loseSeam s a b) :=
  C.trans (C.fault s _) (post_closed C _ _)

theorem announceSeam_closed (C : Calm R) (s : State) (rise : Nat) : R s (announceSeam s rise) := by
  unfold announceSeam
  dsimp only
  split
  · exact mergeSeam_closed C s _ _
  · exact C.ite (fun _ => acceptSeam_closed C s _ _ _) fun _ => loseSeam_closed C s _ _

theorem meetDetector_closed (C : Calm R) (s : State) : R s (meetDetector s) := by
  unfold meetDetector
  refine C.ite (fun _ => C.refl s) fun _ => ?_
  split
  · refine C.trans (C.quiet ?_) (announceSeam_closed C _ _)
    constructor <;> first | rfl | exact id
  · refine C.quiet ?_
    constructor <;> first | rfl | exact id
  all_goals exact C.refl s

theorem judgeSeamLevel_quiet (s : State) (level : Bool) : Quiet s (judgeSeamLevel s level) := by
  unfold judgeSeamLevel
  split <;> constructor <;> first | rfl | exact id

end Sys2Proof.Machine
end

