-- ==== Sys2Proof/Laws/Orders.lean ====
section
/-! SUPPORT. The closure theorems of the Order Sequencer, close-out, the Cure Integrator and the print advance. -/

namespace Sys2Proof.Machine

variable {R : State → State → Prop}

/-! ### Order Sequencer -/

theorem readEmpty_quiet (s : State) : Quiet s (readEmpty s) := by constructor <;> first | rfl | exact id

theorem statusAfterStarvation_quiet (s : State) : Quiet s (statusAfterStarvation s) := by
  unfold statusAfterStarvation
  split
  · exact startConfirmRead_quiet s
  all_goals constructor <;> first | rfl | exact id

theorem applyTail_closed (C : Calm R) (s : State) (r : InFlight) : R s (applyTail s r) := by
  unfold applyTail
  exact C.ite (fun _ => C.raise s _ (by simp)) fun _ => C.refl s

theorem starve_closed (C : Closed R) (s : State) (r : InFlight) : R s (starve s r) := by
  unfold starve
  refine C.trans ?_ (applyTail_closed C.toCalm _ _)
  refine C.trans ?_ (C.quiet (statusAfterStarvation_quiet _))
  exact C.trans (C.trans (C.leave s) (C.quiet (setPlanner_quiet _ (plainAttributes s.cp) id))) (C.line _ _ (.inl rfl))

theorem enterOrder_closed (C : Closed R) (s : State) (r : InFlight) : R s (enterOrder s r) := by
  unfold enterOrder
  have h : R s { s with os.table := s.os.table ++ [r], os.entry := some r.slot, os.copy := none, os.status := .empty } := by
    refine C.trans (C.enter s r.slot) (C.quiet ?_)
    constructor <;> first | rfl | exact id
  exact C.ite (fun _ => h) fun _ => C.trans h (C.line _ _ (.inr rfl))

theorem handNeighbours_closed (C : Calm R) (s : State) (r : InFlight) : R s (handNeighbours s r) := by
  unfold handNeighbours
  refine C.trans ?_ (readerTake_closed C _ _ _)
  refine C.trans ?_ (C.quiet (phaseTake_quiet _ _ _ _))
  refine C.quiet ?_
  constructor
  case cuts => exact planTake_ascends _ _ _ _ _
  all_goals first | rfl | exact id

theorem moveSlot_quiet (s : State) (i : Slot) : Quiet s { s with os.next := i } := by constructor <;> first | rfl | exact id

theorem reportTake_closed (C : Calm R) (s : State) (r : InFlight) : R s (reportTake s r) := by
  unfold reportTake
  refine C.trans ?_ (post_closed C _ _)
  exact C.trans (C.quiet (handOver_quiet _ _)) (C.quiet (moveSlot_quiet _ _))

theorem endHalt_closed (C : Closed R) (s : State) (r : InFlight) : R s (endHalt s r) := by
  unfold endHalt
  refine C.trans ?_ (starve_closed C _ _)
  exact C.trans (C.quiet (changeOrder_quiet _ _ _)) (C.raise _ _ (by simp))

theorem takeOrder_closed (C : Closed R) (s : State) (o : Order) (late : Bool) : R s (takeOrder s o late) := by
  have h : R s (reportTake (handNeighbours (enterOrder s (takenRecord s o late)) (takenRecord s o late))
      (takenRecord s o late)) :=
    C.trans (C.trans (enterOrder_closed C s _) (handNeighbours_closed C.toCalm _ _)) (reportTake_closed C.toCalm _ _)
  unfold takeOrder
  exact C.trans h (C.ite (fun _ => endHalt_closed C _ _) fun _ => C.quiet (startSlotRead_quiet _))

theorem lateStart_closed (C : Closed R) (s : State) (o : Order) : R s (lateStart s o) := by
  unfold lateStart
  exact C.ite (fun _ => takeOrder_closed C s o true) fun _ =>
    C.trans (closeStretch_closed C.toCalm s) (takeOrder_closed C _ o true)

theorem reachEnd_closed (C : Closed R) (s : State) : R s (reachEnd s) := by
  unfold reachEnd
  split
  · exact C.refl s
  · dsimp only
    split
    · refine C.trans ?_ (takeOrder_closed C _ _ _)
      exact C.trans (C.quiet (changeOrder_quiet s _ _)) (C.quiet (setPlanner_quiet _ _ (withdrawOrder_ascends _)))
    · refine C.trans ?_ (starve_closed C _ _)
      exact C.trans (C.quiet (changeOrder_quiet s _ _)) (C.quiet (setPlanner_quiet _ _ (withdrawOrder_ascends _)))

theorem readValid_closed (C : Closed R) (s : State) (o : Order) : R s (readValid s o) := by
  unfold readValid
  split
  · refine C.quiet ?_
    constructor <;> first | rfl | exact id
  · exact lateStart_closed C s o
  all_goals exact C.refl s

theorem confirmUnchanged_closed (C : Closed R) (s : State) : R s (confirmUnchanged s) := by
  unfold confirmUnchanged
  split
  · refine C.quiet ?_
    constructor <;> first | rfl | exact id
  · exact lateStart_closed C s _
  · exact C.refl s

theorem confirmChanged_quiet (s : State) : Quiet s (confirmChanged s) := by
  by_cases h : s.xi.suspended = true
  · rw [show confirmChanged s = _ from startSlotRead_suspended (s := { s with os.copy := none }) h]
    constructor <;> first | rfl | exact id
  · rw [show confirmChanged s = _ from startSlotRead_open (s := { s with os.copy := none }) h]
    constructor
    case suspension => exact fun _ => suspensionLaw_of_not h
    all_goals first | rfl | exact id

theorem cutEffect_closed (C : Closed R) (s : State) (e : CutEntry) : R s (cutEffect s e) := by
  unfold cutEffect
  split
  · exact reachEnd_closed C s
  · exact C.quiet (setPlanner_quiet _ _ (applyMark_ascends _ _))
  · exact C.quiet (setPlanner_quiet _ (openSeam s.cp _) id)
  · exact C.quiet (setPlanner_quiet _ (closeSeam s.cp _) id)

theorem meetCut_closed (C : Closed R) (s : State) : R s (meetCut s) := by
  unfold meetCut
  refine C.ite (fun _ => C.refl s) fun _ => ?_
  refine C.trans ?_ (C.foldl (cutEffect_closed C) _ _)
  exact C.trans (closeStretch_closed C.toCalm s) (C.quiet (setPlanner_quiet _ _ fun h => h.filter _))

theorem leaveEntry_closed (C : Closed R) (s : State) : R s (leaveEntry s) :=
  C.trans (C.quiet (setPlanner_quiet s (plainAttributes (withdrawOrder s.cp)) (withdrawOrder_ascends s.cp))) (C.leave _)

theorem emptyStatus_quiet (s : State) : Quiet s { s with os.status := .empty } := by constructor <;> first | rfl | exact id

theorem abortEntry_closed (C : Closed R) (s : State) : R s (abortEntry s) := by
  unfold abortEntry
  split
  · exact C.refl s
  · refine C.trans ?_ (C.line _ _ (.inl rfl))
    refine C.trans ?_ (C.quiet (emptyStatus_quiet _))
    refine C.trans ?_ (C.quiet (discardReads_quiet _))
    refine C.trans ?_ (leaveEntry_closed C _)
    exact C.trans (closeStretch_closed C.toCalm s) (C.quiet (changeOrder_quiet _ _ _))

theorem reportPrinted_closed (C : Calm R) (s : State) (r : InFlight) : R s (reportPrinted s r) :=
  C.trans (C.quiet (changeOrder_quiet s r.slot _)) (post_closed C _ _)

theorem meetPrinted_closed (C : Calm R) (s : State) : R s (meetPrinted s) := C.foldl (reportPrinted_closed C) _ s

theorem meetConfirm_closed (C : Calm R) (s : State) : R s (meetConfirm s) := by
  unfold meetConfirm
  exact C.ite (fun _ => atConfirmPoint_closed C s) fun _ => C.refl s

theorem reportRun_closed (C : Calm R) (s : State) (run : DefectRun) : R s (reportRun s run) := by
  unfold reportRun
  refine C.trans (C.quiet ?_) (post_closed C _ _)
  constructor <;> first | rfl | exact id

theorem reportRunOf_closed (C : Calm R) (s : State) (slot : Slot) (tag : Word) : R s (reportRunOf s slot tag) := by
  unfold reportRunOf
  split
  · exact C.ite (fun _ => reportRun_closed C s _) fun _ => C.refl s
  · exact C.refl s

theorem testClose_closed (C : Calm R) (s : State) : R s (testClose s) := by
  unfold testClose
  split
  · unfold beginClose
    refine C.trans ?_ (C.quiet (handOver_quiet _ _))
    exact C.trans (reportRunOf_closed C s _ _) (C.quiet (changeOrder_quiet _ _ _))
  · exact C.refl s

theorem giveHorizon_closed (C : Calm R) (s : State) : R s (giveHorizon s) := by
  unfold giveHorizon
  refine C.ite (fun _ => C.refl s) fun _ => C.trans (C.quiet ?_) (testClose_closed C _)
  constructor <;> first | rfl | exact id

theorem setTable_quiet (s : State) (l : List InFlight) : Quiet s { s with os.table := l } := by constructor <;> first | rfl | exact id

theorem endClose_closed (C : Calm R) (s : State) (slot : Slot) (c : CloseReport) : R s (endClose s slot c) := by
  unfold endClose
  refine C.trans ?_ (testClose_closed C _)
  refine C.trans ?_ (C.quiet (phaseForget_quiet _ _))
  exact C.trans (post_closed C s _) (C.quiet (setTable_quiet _ _))

/-! ### Close-out -/

theorem tallySegment_quiet (s : State) (r : Segment) (d : DefectSet) : Quiet s (tallySegment s r d) := by
  unfold tallySegment
  split <;> constructor <;> first | rfl | exact id

theorem setRun_quiet (s : State) (r : Option DefectRun) : Quiet s { s with co.run := r } := by constructor <;> first | rfl | exact id

theorem followRun_closed (C : Calm R) (s : State) (r : Segment) (d : DefectSet) : R s (followRun s r d) := by
  unfold followRun
  split
  · exact C.ite (fun _ => C.quiet (setRun_quiet _ _)) fun _ => C.refl s
  · rename_i run _
    refine C.ite (fun _ => C.quiet (setRun_quiet _ _)) fun _ => C.trans (reportRun_closed C s run) ?_
    exact C.ite (fun _ => C.quiet (setRun_quiet _ _)) fun _ => C.refl _

theorem leaveMap_quiet (s : State) : Quiet s { s with wt.map := s.wt.map.tail, co.waiting := none } := by
  constructor
  case map => exact dropOldest_keeps s
  all_goals first | rfl | exact id

theorem settleExit_closed (C : Calm R) (s : State) (r : Segment) : R s (settleExit s r) := by
  unfold settleExit
  exact C.trans (C.trans (C.quiet (tallySegment_quiet s r _)) (followRun_closed C _ _ _)) (C.quiet (leaveMap_quiet _))

theorem finishExit_closed (C : Calm R) (s : State) (serial : Nat) : R s (finishExit s serial) := by
  unfold finishExit
  split
  · refine C.quiet ?_
    constructor <;> first | rfl | exact id
  · exact C.trans (settleExit_closed C s _) (C.ite (fun _ => C.refl _) fun _ => giveHorizon_closed C _)

theorem setVerdict_quiet (s : State) (test : Segment → Bool) (d : DefectSet) :
    Quiet s { s with wt.map := modifyFirst test (fun x => { x with verdict := some d }) s.wt.map } := by
  constructor
  case map => exact modifyRecord_keeps s _ _ (fun _ => ⟨rfl, rfl⟩) fun r _ l => l
  all_goals first | rfl | exact id

theorem beginExit_closed (C : Calm R) (s : State) (r : Segment) : R s (beginExit s r) := by
  unfold beginExit
  refine C.trans (C.quiet (setVerdict_quiet s _ _)) (C.ite (fun _ => finishExit_closed C _ _) fun h => C.quiet ?_)
  constructor
  case suspension => exact fun _ => suspensionLaw_of_not h
  all_goals first | rfl | exact id

theorem startExit_closed (C : Calm R) (s : State) : R s (startExit s) := by
  unfold startExit
  split
  · exact C.ite (fun _ => beginExit_closed C s _) fun _ => C.refl s
  · exact C.refl s

/-! ### Print advance -/

theorem act_closed (C : Closed R) (s : State) (a : Actor) : R s (act s a) := by
  cases a
  · exact meetDetector_closed C.toCalm s
  · exact meetCut_closed C s
  · exact meetStations_closed C.toCalm s
  · exact meetSwitches_closed C.toCalm s
  · exact meetSettles_closed C.toCalm s
  · exact meetClosing_closed C.toCalm s
  · exact meetOpenings_closed C.toCalm s
  · exact meetBuilds_closed C.toCalm s
  · exact meetConfirm_closed C.toCalm s
  · exact meetPrinted_closed C.toCalm s

theorem setDraws_quiet (s : State) (n : Nat) : Quiet s { s with draws := n } := by constructor <;> first | rfl | exact id

theorem meetThresholds_closed (C : Closed R) (s : State) : R s (meetThresholds s) := by
  unfold meetThresholds
  split
  · exact C.refl s
  · exact act_closed C s _
  · exact C.trans (C.quiet (setDraws_quiet s _)) (C.foldl (act_closed C) _ _)

theorem endUnderrun_closed (C : Calm R) (s : State) : R s (endUnderrun s) := by
  unfold endUnderrun
  split
  · refine C.trans (C.quiet ?_) (post_closed C _ _)
    constructor <;> first | rfl | exact id | exact fun _ => rfl
  · exact C.refl s

theorem restartStandstill_quiet (s : State) : Quiet s (restartStandstill s) := by
  unfold restartStandstill
  split
  · rename_i h
    constructor
    case standstill =>
      intro x
      rw [x] at h
      cases h
    all_goals first | rfl | exact id
  · constructor <;> first | rfl | exact id

/-- The position limit: the flag apart, a fault and a report (R3). -/
theorem reachLimit_closed (C : Calm R) (s : State) (flag : R s { s with wt.limitPosted := true }) : R s (reachLimit s) := by
  unfold reachLimit
  exact C.ite (fun _ => C.refl s) fun _ => C.trans flag (C.trans (C.fault _ _) (post_closed C _ _))

theorem setbackAdvance_closed (C : Calm R) (s : State) : R s (setbackAdvance s) := by
  unfold setbackAdvance
  refine C.ite (fun _ => C.trans (C.quiet ?_) (post_closed C _ _)) fun _ => C.quiet ?_
  all_goals constructor <;> first | rfl | exact id

theorem horizonIfClear_closed (C : Calm R) (s : State) : R s (horizonIfClear s) := by
  unfold horizonIfClear
  exact C.ite (fun _ => C.refl s) fun _ => giveHorizon_closed C s

theorem setbackExpiry_closed (C : Calm R) (s : State) : R s (setbackExpiry s) := by
  unfold setbackExpiry
  refine C.ite (fun _ => C.trans (C.quiet ?_) (post_closed C _ _)) fun _ => C.refl s
  constructor <;> first | rfl | exact id

theorem alertFor_closed (C : Calm R) (s : State) (r : Segment) : R s (alertFor s r) := by
  unfold alertFor
  split
  · refine C.ite (fun _ => C.trans (C.quiet ?_) (post_closed C _ _)) fun _ => C.refl s
    constructor <;> first | rfl | exact id
  · exact C.refl s

/-- One integration keeps the laws of a record (R121). -/
theorem integrated_law (s : State) (r : Segment) (l : SegmentLaw r) : SegmentLaw (integrated s r) := by
  unfold integrated
  split
  · exact l
  · split
    · exact l
    · exact ⟨l.1, Nat.min_le_right _ _, l.2.2⟩

/-- One integration keeps serial and length. -/
theorem integrated_same (s : State) (r : Segment) :
    (integrated s r).serial = r.serial ∧ (integrated s r).length = r.length := by
  unfold integrated
  split
  · exact ⟨rfl, rfl⟩
  · split <;> exact ⟨rfl, rfl⟩

theorem setDoses_quiet (s : State) (f : Segment → Segment) (same : ∀ r, (f r).serial = r.serial ∧ (f r).length = r.length)
    (h : ∀ r, SegmentLaw r → SegmentLaw (f r)) (x : Timer) :
    Quiet s { s with wt.map := s.wt.map.map f, ci.doseTimer := x } := by
  constructor
  case map => exact mapRecords_keeps s f same h
  all_goals first | rfl | exact id

/-- The alerts of an expiry leave the web map. -/
theorem alertFor_map (s : State) (r : Segment) : (alertFor s r).wt.map = s.wt.map := by
  unfold alertFor
  split
  · dsimp only
    split
    · unfold post postAt
      dsimp only
      split <;> rfl
    · rfl
  · rfl

theorem alerts_map (xs : List Segment) : ∀ s : State, (xs.foldl alertFor s).wt.map = s.wt.map := by
  induction xs with
  | nil => intro s; rfl
  | cons r rest ih => intro s; exact (ih _).trans (alertFor_map s r)

theorem integrateDose_closed (C : Calm R) (s : State) : R s (integrateDose s) := by
  unfold integrateDose
  dsimp only
  rw [← alerts_map s.wt.map s]
  have h : R (s.wt.map.foldl alertFor s) _ := C.quiet (setDoses_quiet (s.wt.map.foldl alertFor s) (integrated s) (integrated_same s)
    (integrated_law s) (nextInterval s.ci.doseTimer (doseInterval s.prof) s.clock))
  rw [alerts_map s.wt.map s] at h ⊢
  exact C.trans (C.foldl (alertFor_closed C) s.wt.map s) h

theorem doseExpiry_closed (C : Calm R) (s : State) : R s (doseExpiry s) := by
  unfold doseExpiry
  exact C.ite (fun _ => integrateDose_closed C s) fun _ => C.refl s

theorem standstillExpiry_closed (C : Calm R) (s : State) : R s (standstillExpiry s) := by
  unfold standstillExpiry
  refine C.ite (fun _ => C.trans (C.quiet ?_) (C.raise _ _ (by simp))) fun _ => C.refl s
  constructor <;> first | rfl | exact id | exact fun _ => rfl

end Sys2Proof.Machine
end

