-- ==== Sys2Proof/Laws/Board.lean ====
section
/-! SUPPORT. What no operation of the blocks touches: board memory, the pins, the profile, the positions and debts, the ring
counts, the queue of commands. `board_closed` carries it over every operation that has a closure theorem. -/

namespace Sys2Proof.Machine

/-- `t` agrees with `s` in everything that only the board, the host and the encoders move. -/
structure Board (s t : State) : Prop where
  clock : t.clock = s.clock
  p : t.wt.p = s.wt.p
  q : t.wt.q = s.wt.q
  k : t.wt.k = s.wt.k
  cut : s.wt.lastCut ≤ t.wt.lastCut
  printDebt : t.wt.printDebt = s.wt.printDebt
  ovenDebt : t.wt.ovenDebt = s.wt.ovenDebt
  printReverse : t.wt.printReverse = s.wt.printReverse
  ovenReverse : t.wt.ovenReverse = s.wt.ovenReverse
  underrun : s.wt.underrun = none → t.wt.underrun = none
  limitPosted : t.wt.limitPosted = s.wt.limitPosted
  zones : t.ci.zones = s.ci.zones
  written : t.xi.written = s.xi.written
  retired : t.xi.retired = s.xi.retired
  suspended : t.xi.suspended = s.xi.suspended
  ahead : endsAhead t.xi = endsAhead s.xi
  prof : t.prof = s.prof
  exbase : t.exbase = s.exbase
  busy : t.busy = s.busy
  busRead : t.busRead = s.busRead
  pins : t.pins = s.pins
  mem : t.mem = s.mem
  pending : t.pending = s.pending

theorem Board.refl (s : State) : Board s s := by
  constructor <;> first | rfl | exact id

theorem Board.trans {s t u : State} (a : Board s t) (b : Board t u) : Board s u where
  clock := b.clock.trans a.clock
  p := b.p.trans a.p
  q := b.q.trans a.q
  k := b.k.trans a.k
  cut := a.cut.trans b.cut
  printDebt := b.printDebt.trans a.printDebt
  ovenDebt := b.ovenDebt.trans a.ovenDebt
  printReverse := b.printReverse.trans a.printReverse
  ovenReverse := b.ovenReverse.trans a.ovenReverse
  underrun := b.underrun ∘ a.underrun
  limitPosted := b.limitPosted.trans a.limitPosted
  zones := b.zones.trans a.zones
  written := b.written.trans a.written
  retired := b.retired.trans a.retired
  suspended := b.suspended.trans a.suspended
  ahead := b.ahead.trans a.ahead
  prof := b.prof.trans a.prof
  exbase := b.exbase.trans a.exbase
  busy := b.busy.trans a.busy
  busRead := b.busRead.trans a.busRead
  pins := b.pins.trans a.pins
  mem := b.mem.trans a.mem
  pending := b.pending.trans a.pending

theorem Quiet.board {s t : State} (h : Quiet s t) : Board s t where
  clock := h.clock
  p := h.p
  q := h.q
  k := h.k
  cut := h.cut
  printDebt := h.printDebt
  ovenDebt := h.ovenDebt
  printReverse := h.printReverse
  ovenReverse := h.ovenReverse
  underrun := h.underrun
  limitPosted := h.limitPosted
  zones := h.zones
  written := h.written
  retired := h.retired
  suspended := h.suspended
  ahead := h.ahead
  prof := h.prof
  exbase := h.exbase
  busy := h.busy
  busRead := h.busRead
  pins := h.pins
  mem := h.mem
  pending := h.pending

theorem Board.foldl {α : Type} {f : State → α → State} (h : ∀ s a, Board s (f s a)) (xs : List α) :
    ∀ s, Board s (xs.foldl f s) := by
  induction xs with
  | nil => exact Board.refl
  | cons a rest ih => exact fun s => (h s a).trans (ih _)

theorem setChan_board (s : State) (i : Station) (c : Channel) : Board s (s.setChan i c) := by
  constructor <;> first | rfl | exact id

theorem setPhase_board (s : State) (i : Station) (p : PhaseStation) : Board s (s.setPhase i p) := by
  constructor <;> first | rfl | exact id

theorem setHolds_board (s : State) (x : LineController) : Board s { s with lc := x } := by
  constructor <;> first | rfl | exact id

theorem noteFault_board (s : State) (f : FaultReason) : Board s (noteFault s f) := by
  constructor <;> first | rfl | exact id

theorem beginLifting_board (s : State) (i : Station) : Board s (beginLifting s i) := setChan_board s i _

theorem liftForHold_board (s : State) (i : Station) : Board s (liftForHold s i) := by
  unfold liftForHold
  split
  · exact (addStopMark_quiet s i).board.trans (beginLifting_board _ i)
  · exact (addStopMark_quiet s i).board.trans (beginLifting_board _ i)
  · exact setChan_board s i _
  all_goals exact Board.refl s

theorem syncEngaged_board (s : State) : Board s (syncEngaged s) := by
  rw [syncEngaged_eq]
  exact setHolds_board s _

theorem liftAllForHold_board (s : State) : Board s (liftAllForHold s) :=
  (Board.foldl liftForHold_board stationList s).trans (syncEngaged_board _)

theorem startHold_board (s : State) : Board s { s with lc.holdStart := s.clock, events.hold := true } := by
  constructor <;> first | rfl | exact id

theorem enterHold_board (s : State) : Board s (enterHold s) :=
  ((setHolds_board s _).trans (liftAllForHold_board _)).trans (startHold_board _)

theorem holdEntry_board (s : State) (r : Option FaultReason) : Board s (holdEntry s r) :=
  (enterHold_board s).trans (post_quiet _ _).board

theorem raiseCause_board (s : State) (c : HoldCause) (r : Option FaultReason) : Board s (raiseCause s c r) := by
  unfold raiseCause
  split
  · exact Board.refl s
  · have h : Board s (match r with
        | some f => noteFault { s with lc.holds := s.lc.holds.join (holdOf c) } f
        | none => { s with lc.holds := s.lc.holds.join (holdOf c) }) := by
      split
      · exact (setHolds_board s _).trans (noteFault_board _ _)
      · exact setHolds_board s _
    dsimp only
    split
    · exact h
    · exact h.trans (holdEntry_board _ _)

theorem judgePermit_board (s : State) : Board s (judgePermit s) := setHolds_board s _

theorem setLine_board (s : State) (l : LineState) : Board s (setLine s l) := by
  constructor <;> first | rfl | exact id

theorem holdExit_board (s : State) (cs : HoldSet) : Board s (holdExit s cs) :=
  (post_quiet s _).board.trans (judgePermit_board _)

theorem clearCauses_board (s : State) (cs : HoldSet) : Board s (clearCauses s cs) := by
  unfold clearCauses
  dsimp only
  split
  · exact (setHolds_board s _).trans (holdExit_board _ _)
  · exact setHolds_board s _

theorem board_calm : Calm Board where
  refl := Board.refl
  trans := Board.trans
  quiet := Quiet.board
  chan s i c _ := setChan_board s i c
  lift s i c _ _ := (setChan_board s i c).trans (syncEngaged_board _)
  lower s i c _ := (setChan_board s i c).trans (syncEngaged_board _)
  engage s i c _ := (setChan_board s i c).trans (syncEngaged_board _)
  sync := syncEngaged_board
  target s i _ _ := setPhase_board s i _
  trim s i _ _ _ := setPhase_board s i _
  correction s i _ _ _ := setPhase_board s i _
  phase s i p _ _ _ _ := setPhase_board s i p
  raise s c _ := raiseCause_board s c none
  fault s f := raiseCause_board s .fault (some f)
  clear s cs _ := clearCauses_board s cs

theorem board_closed : Closed Board where
  toCalm := board_calm
  line s l _ := setLine_board s l
  enter s i := by constructor <;> first | rfl | exact id
  leave s := by constructor <;> first | rfl | exact id

end Sys2Proof.Machine
end

