-- ==== Sys2Proof/Laws/Holds.lean ====
section
/-! SUPPORT. What raising and clearing hold causes does at the Line Controller and at the channels. -/

namespace Sys2Proof.Machine

/-! ### Lifting for a hold (R77) -/

/-- Nothing of the Line Controller but its standstill supervision changes. -/
structure SameLine (s t : State) : Prop where
  line : t.lc.line = s.lc.line
  holds : t.lc.holds = s.lc.holds
  firstFault : t.lc.firstFault = s.lc.firstFault
  permit : t.lc.permit = s.lc.permit

theorem SameLine.refl (s : State) : SameLine s s := by constructor <;> rfl

theorem SameLine.trans {s t u : State} (a : SameLine s t) (b : SameLine t u) : SameLine s u where
  line := b.line.trans a.line
  holds := b.holds.trans a.holds
  firstFault := b.firstFault.trans a.firstFault
  permit := b.permit.trans a.permit

theorem Quiet.sameLine {s t : State} (h : Quiet s t) : SameLine s t where
  line := h.line
  holds := h.holds
  firstFault := h.firstFault
  permit := h.permit

theorem syncEngaged_sameLine (s : State) : SameLine s (syncEngaged s) := by
  rw [syncEngaged_eq]
  constructor <;> rfl

theorem addStopMark_chan (s : State) (i j : Station) : (addStopMark s i).chan j = s.chan j := by
  unfold addStopMark
  split <;> rfl

theorem beginLifting_chan_self (s : State) (i : Station) :
    (beginLifting s i).chan i = { s.chan i with state := .lifting, pendingLower := false, timer := runTimer s } := by
  simp [beginLifting]

theorem beginLifting_chan_of_ne (s : State) (i j : Station) (h : i ≠ j) : (beginLifting s i).chan j = s.chan j :=
  State.setChan_chan_of_ne s i j _ h

theorem liftForHold_sameLine (s : State) (i : Station) : SameLine s (liftForHold s i) := by
  unfold liftForHold
  split
  · refine (addStopMark_quiet s i).sameLine.trans ?_
    constructor <;> rfl
  · refine (addStopMark_quiet s i).sameLine.trans ?_
    constructor <;> rfl
  all_goals constructor <;> rfl

theorem liftForHold_chan_of_ne (s : State) (i j : Station) (h : i ≠ j) : (liftForHold s i).chan j = s.chan j := by
  unfold liftForHold
  split
  · rw [beginLifting_chan_of_ne _ i j h, addStopMark_chan]
  · rw [beginLifting_chan_of_ne _ i j h, addStopMark_chan]
  · exact State.setChan_chan_of_ne s i j _ h
  all_goals rfl

/-- A hold entry leaves no channel LOWERING or ENGAGED. -/
theorem liftForHold_lifts (s : State) (i : Station) :
    ((liftForHold s i).chan i).state ≠ .lowering ∧ ((liftForHold s i).chan i).state ≠ .engaged := by
  unfold liftForHold
  split
  · rw [beginLifting_chan_self]
    simp
  · rw [beginLifting_chan_self]
    simp
  · rename_i h
    rw [State.setChan_chan_self]
    simp [h]
  · rename_i h
    simp [h]
  · rename_i h
    simp [h]
  · rename_i h
    simp [h]

theorem liftList_sameLine (xs : List Station) : ∀ s, SameLine s (xs.foldl liftForHold s) := by
  induction xs with
  | nil => exact SameLine.refl
  | cons i rest ih => exact fun s => (liftForHold_sameLine s i).trans (ih _)

theorem liftList_chan_of_notMem (xs : List Station) (j : Station) (h : j ∉ xs) :
    ∀ s, ((xs.foldl liftForHold s).chan j) = s.chan j := by
  induction xs with
  | nil => exact fun s => rfl
  | cons i rest ih =>
    intro s
    simp only [List.mem_cons, not_or] at h
    rw [List.foldl_cons, ih h.2]
    exact liftForHold_chan_of_ne s i j (Ne.symm h.1)

theorem liftList_lifts (xs : List Station) (nodup : xs.Nodup) (j : Station) (h : j ∈ xs) :
    ∀ s, ((xs.foldl liftForHold s).chan j).state ≠ .lowering ∧ ((xs.foldl liftForHold s).chan j).state ≠ .engaged := by
  induction xs with
  | nil => exact absurd h (by simp)
  | cons i rest ih =>
    intro s
    rw [List.nodup_cons] at nodup
    rw [List.foldl_cons]
    rcases List.mem_cons.mp h with rfl | hr
    · rw [liftList_chan_of_notMem rest j nodup.1]
      exact liftForHold_lifts s j
    · exact ih nodup.2 hr _

theorem stationList_nodup : stationList.Nodup := by decide

theorem mem_stationList (i : Station) : i ∈ stationList := by
  revert i
  decide

theorem syncEngaged_chan (s : State) (i : Station) : (syncEngaged s).chan i = s.chan i := by
  show (syncEngaged s).sc.get i = s.sc.get i
  rw [syncEngaged_sc]

theorem post_chan (s : State) (b : ReportBody) (i : Station) : (post s b).chan i = s.chan i := by
  show (post s b).sc.get i = s.sc.get i
  rw [(post_quiet s b).sc]

theorem liftAllForHold_sameLine (s : State) : SameLine s (liftAllForHold s) :=
  (liftList_sameLine stationList s).trans (syncEngaged_sameLine _)

/-- After a hold entry's lifts no channel is LOWERING or ENGAGED (R77). -/
theorem liftAllForHold_lifts (s : State) (i : Station) :
    ((liftAllForHold s).chan i).state ≠ .lowering ∧ ((liftAllForHold s).chan i).state ≠ .engaged := by
  unfold liftAllForHold
  rw [syncEngaged_chan]
  exact liftList_lifts stationList stationList_nodup i (mem_stationList i) s

/-! ### Hold entry (R146) -/

/-- Steps 1 to 4 of a hold entry keep the line, the set and the first fault reason, and remove the permit (R146). -/
theorem enterHold_sameLine (s : State) : SameLine { s with lc.permit := false } (enterHold s) := by
  have h := liftAllForHold_sameLine { s with lc.permit := false }
  unfold enterHold
  generalize liftAllForHold { s with lc.permit := false } = t at h
  exact ⟨h.line, h.holds, h.firstFault, h.permit⟩

theorem enterHold_lifts (s : State) (i : Station) :
    ((enterHold s).chan i).state ≠ .lowering ∧ ((enterHold s).chan i).state ≠ .engaged := by
  have h := liftAllForHold_lifts { s with lc.permit := false } i
  unfold enterHold
  generalize liftAllForHold { s with lc.permit := false } = t at h
  exact h

theorem holdEntry_sameLine (s : State) (r : Option FaultReason) : SameLine { s with lc.permit := false } (holdEntry s r) := by
  have h := enterHold_sameLine s
  unfold holdEntry
  generalize enterHold s = t at h
  exact h.trans (post_quiet t _).sameLine

theorem holdEntry_lifts (s : State) (r : Option FaultReason) (i : Station) :
    ((holdEntry s r).chan i).state ≠ .lowering ∧ ((holdEntry s r).chan i).state ≠ .engaged := by
  have h := enterHold_lifts s i
  unfold holdEntry
  generalize enterHold s = t at h
  rw [post_chan]
  exact h

theorem holdEntry_line (s : State) (r : Option FaultReason) : (holdEntry s r).lc.line = s.lc.line :=
  (holdEntry_sameLine s r).line

theorem holdEntry_holds (s : State) (r : Option FaultReason) : (holdEntry s r).lc.holds = s.lc.holds :=
  (holdEntry_sameLine s r).holds

theorem holdEntry_firstFault (s : State) (r : Option FaultReason) : (holdEntry s r).lc.firstFault = s.lc.firstFault :=
  (holdEntry_sameLine s r).firstFault

theorem holdEntry_permit (s : State) (r : Option FaultReason) : (holdEntry s r).lc.permit = false :=
  (holdEntry_sameLine s r).permit

/-! ### Raising (R145, R152) -/

/-- LC after a cause is raised with the line open: the set joined, the first fault reason taken, the line state kept. -/
theorem raiseCause_line (s : State) (c : HoldCause) (r : Option FaultReason) : (raiseCause s c r).lc.line = s.lc.line := by
  unfold raiseCause
  split
  · rfl
  · dsimp only
    cases r with
    | none =>
      split
      · rfl
      · exact holdEntry_line _ _
    | some f =>
      split
      · rfl
      · exact holdEntry_line _ _

theorem raiseCause_holds (s : State) (c : HoldCause) (r : Option FaultReason) (h : lineOpen s = true) :
    (raiseCause s c r).lc.holds = s.lc.holds.join (holdOf c) := by
  unfold raiseCause
  rw [h]
  cases r with
  | none =>
    simp only [Bool.not_true, Bool.false_eq_true, ↓reduceIte]
    split
    · rfl
    · exact holdEntry_holds _ _
  | some f =>
    simp only [Bool.not_true, Bool.false_eq_true, ↓reduceIte]
    split
    · rfl
    · exact holdEntry_holds _ _

theorem raiseCause_firstFault (s : State) (c : HoldCause) (r : Option FaultReason) (h : lineOpen s = true) :
    (raiseCause s c r).lc.firstFault = match r with
      | some f => some (s.lc.firstFault.getD f)
      | none => s.lc.firstFault := by
  unfold raiseCause
  rw [h]
  cases r with
  | none =>
    simp only [Bool.not_true, Bool.false_eq_true, ↓reduceIte]
    split
    · rfl
    · exact holdEntry_firstFault _ _
  | some f =>
    simp only [Bool.not_true, Bool.false_eq_true, ↓reduceIte]
    split
    · rfl
    · exact holdEntry_firstFault _ _

theorem HoldSet.join_any (a b : HoldSet) : (a.join b).any = (a.any || b.any) := by
  simp only [HoldSet.join, HoldSet.any]
  ac_rfl

theorem holdOf_any (c : HoldCause) : (holdOf c).any = true := by cases c <;> rfl

end Sys2Proof.Machine
end

