-- ==== Sys2Proof/Laws/Line.lean ====
section
/-! SUPPORT. What a change of the hold cause set can touch: the line, the channels, the stop marks, the reports and EVENTS.
Everything else of the machine is as before. -/

namespace Sys2Proof.Machine

/-- `t` agrees with `s` but in the line, the channels, the exchange queue, EVENTS, the draws, the web map and the arming of
the overfill detection. -/
structure LineOnly (s t : State) : Prop where
  clock : t.clock = s.clock
  wt : { t.wt with map := s.wt.map, overfillArmed := s.wt.overfillArmed } = s.wt
  cp : t.cp = s.cp
  os : t.os = s.os
  pu : t.pu = s.pu
  mr : t.mr = s.mr
  ci : t.ci = s.ci
  co : t.co = s.co
  prof : t.prof = s.prof
  exbase : t.exbase = s.exbase
  busy : t.busy = s.busy
  busRead : t.busRead = s.busRead
  pins : t.pins = s.pins
  mem : t.mem = s.mem
  pending : t.pending = s.pending
  inHand : t.xi.inHand = s.xi.inHand
  timer : t.xi.timer = s.xi.timer
  written : t.xi.written = s.xi.written
  retired : t.xi.retired = s.xi.retired
  suspended : t.xi.suspended = s.xi.suspended
  held : t.xi.held = s.xi.held

theorem LineOnly.refl (s : State) : LineOnly s s := by constructor <;> rfl

theorem LineOnly.trans {s t u : State} (a : LineOnly s t) (b : LineOnly t u) : LineOnly s u where
  clock := b.clock.trans a.clock
  wt := by
    have h := congrArg (fun w : WebTracker => { w with map := s.wt.map, overfillArmed := s.wt.overfillArmed }) b.wt
    exact h.trans a.wt
  cp := b.cp.trans a.cp
  os := b.os.trans a.os
  pu := b.pu.trans a.pu
  mr := b.mr.trans a.mr
  ci := b.ci.trans a.ci
  co := b.co.trans a.co
  prof := b.prof.trans a.prof
  exbase := b.exbase.trans a.exbase
  busy := b.busy.trans a.busy
  busRead := b.busRead.trans a.busRead
  pins := b.pins.trans a.pins
  mem := b.mem.trans a.mem
  pending := b.pending.trans a.pending
  inHand := b.inHand.trans a.inHand
  timer := b.timer.trans a.timer
  written := b.written.trans a.written
  retired := b.retired.trans a.retired
  suspended := b.suspended.trans a.suspended
  held := b.held.trans a.held

theorem LineOnly.foldl {α : Type} {f : State → α → State} (h : ∀ s a, LineOnly s (f s a)) (xs : List α) :
    ∀ s, LineOnly s (xs.foldl f s) := by
  induction xs with
  | nil => exact LineOnly.refl
  | cons a rest ih => exact fun s => (h s a).trans (ih _)

theorem post_lineOnly (s : State) (b : ReportBody) : LineOnly s (post s b) := by
  unfold post postAt
  dsimp only
  split <;> (constructor <;> rfl)

theorem syncEngaged_lineOnly (s : State) : LineOnly s (syncEngaged s) := by
  unfold syncEngaged
  split
  · exact LineOnly.refl s
  · split <;> (constructor <;> rfl)

theorem addStopMark_lineOnly (s : State) (i : Station) : LineOnly s (addStopMark s i) := by
  unfold addStopMark
  split
  · exact LineOnly.refl s
  · constructor <;> rfl

theorem setChan_lineOnly (s : State) (i : Station) (c : Channel) : LineOnly s (s.setChan i c) := by constructor <;> rfl

theorem liftForHold_lineOnly (s : State) (i : Station) : LineOnly s (liftForHold s i) := by
  unfold liftForHold
  split
  · exact (addStopMark_lineOnly s i).trans (setChan_lineOnly _ _ _)
  · exact (addStopMark_lineOnly s i).trans (setChan_lineOnly _ _ _)
  · exact setChan_lineOnly _ _ _
  all_goals exact LineOnly.refl s

theorem liftAllForHold_lineOnly (s : State) : LineOnly s (liftAllForHold s) :=
  (LineOnly.foldl liftForHold_lineOnly stationList s).trans (syncEngaged_lineOnly _)

theorem startHold_lineOnly (s : State) : LineOnly s { s with lc.holdStart := s.clock, events.hold := true } := by
  constructor <;> rfl

theorem dropPermit_lineOnly (s : State) : LineOnly s { s with lc.permit := false } := by constructor <;> rfl

theorem enterHold_lineOnly (s : State) : LineOnly s (enterHold s) :=
  ((dropPermit_lineOnly s).trans (liftAllForHold_lineOnly _)).trans (startHold_lineOnly _)

theorem holdEntry_lineOnly (s : State) (r : Option FaultReason) : LineOnly s (holdEntry s r) :=
  (enterHold_lineOnly s).trans (post_lineOnly _ _)

/-- Everything that a raise can touch (R145, R146, R152). -/
theorem raiseCause_lineOnly (s : State) (c : HoldCause) (r : Option FaultReason) : LineOnly s (raiseCause s c r) := by
  unfold raiseCause
  split
  · exact LineOnly.refl s
  · have a : LineOnly s { s with lc.holds := s.lc.holds.join (holdOf c) } := by constructor <;> rfl
    cases r with
    | none =>
      dsimp only
      split
      · exact a
      · exact a.trans (holdEntry_lineOnly _ _)
    | some f =>
      have b : LineOnly s (noteFault { s with lc.holds := s.lc.holds.join (holdOf c) } f) :=
        a.trans (by constructor <;> rfl)
      dsimp only
      split
      · exact b
      · exact b.trans (holdEntry_lineOnly _ _)

/-- Everything that a clear can touch (R145, R147). -/
theorem clearCauses_lineOnly (s : State) (cs : HoldSet) : LineOnly s (clearCauses s cs) := by
  unfold clearCauses
  dsimp only
  have a : LineOnly s { s with lc.holds := s.lc.holds.minus cs } := by constructor <;> rfl
  split
  · unfold holdExit
    exact (a.trans (post_lineOnly _ _)).trans (by constructor <;> rfl)
  · exact a

theorem deliverFestoon_lineOnly (s : State) : LineOnly s (deliverFestoon s) := by
  have a : LineOnly s (compareMarks s) := by
    unfold compareMarks
    split
    · split
      · exact clearCauses_lineOnly s _
      · exact LineOnly.refl s
    · split
      · exact raiseCause_lineOnly s _ _
      · exact LineOnly.refl s
  refine a.trans ?_
  show LineOnly (compareMarks s) (checkOverfill (compareMarks s))
  unfold checkOverfill
  split
  · split
    · exact LineOnly.trans (t := { compareMarks s with wt.overfillArmed := false }) (by constructor <;> rfl)
        (raiseCause_lineOnly _ _ _)
    · exact LineOnly.refl _
  · constructor <;> rfl

/-! ### The channels and EVENTS at a hold entry -/

theorem liftForHold_chan_self (s : State) (i : Station) : (liftForHold s i).chan i = heldChannel s.clock (s.chan i) := by
  have hc : (addStopMark s i).clock = s.clock := (addStopMark_lineOnly s i).clock
  unfold liftForHold heldChannel
  cases h : (s.chan i).state <;>
    simp only [beginLifting, runTimer, State.setChan_chan_self, addStopMark_chan, h, hc]

theorem liftList_chan (xs : List Station) (nodup : xs.Nodup) (i : Station) (hi : i ∈ xs) :
    ∀ s, (xs.foldl liftForHold s).chan i = heldChannel s.clock (s.chan i) := by
  induction xs with
  | nil => cases hi
  | cons a rest ih =>
    intro s
    obtain ⟨n1, n2⟩ := List.nodup_cons.1 nodup
    rw [List.foldl_cons]
    by_cases e : i = a
    · subst e
      rw [liftList_chan_of_notMem rest i n1, liftForHold_chan_self]
    · rw [ih n2 ((List.mem_cons.1 hi).resolve_left e), liftForHold_chan_of_ne s a i (Ne.symm e),
        (liftForHold_lineOnly s a).clock]

/-- Every channel after a hold entry (R77). -/
theorem holdEntry_chan (s : State) (r : Option FaultReason) (i : Station) :
    (holdEntry s r).chan i = heldChannel s.clock (s.chan i) := by
  unfold holdEntry
  rw [post_chan]
  have h : (liftAllForHold { s with lc.permit := false }).chan i = heldChannel s.clock (s.chan i) := by
    unfold liftAllForHold overList
    rw [syncEngaged_chan, liftList_chan stationList stationList_nodup i (mem_stationList i)]
    rfl
  unfold enterHold
  generalize liftAllForHold { s with lc.permit := false } = u at h
  exact h

theorem liftForHold_events (s : State) (i : Station) : (liftForHold s i).events = s.events := by
  unfold liftForHold beginLifting addStopMark
  split
  · dsimp only
    split <;> rfl
  · dsimp only
    split <;> rfl
  all_goals rfl

theorem liftList_events (xs : List Station) : ∀ s : State, (xs.foldl liftForHold s).events = s.events := by
  induction xs with
  | nil => exact fun _ => rfl
  | cons a rest ih => exact fun s => (ih _).trans (liftForHold_events s a)

theorem syncEngaged_events (s : State) : (syncEngaged s).events = s.events := by
  unfold syncEngaged
  split
  · rfl
  · split <;> rfl

theorem enterHold_events (s : State) : (enterHold s).events = { s.events with hold := true } := by
  have h : (liftAllForHold { s with lc.permit := false }).events = s.events := by
    unfold liftAllForHold overList
    rw [syncEngaged_events, liftList_events]
  unfold enterHold
  generalize liftAllForHold { s with lc.permit := false } = u at h
  show { u.events with hold := true } = _
  rw [h]

/-! ### Reports -/

/-- A report posted, all its fields given by a rule: the queue or the loss, EVENTS, and one draw (R163, R164). -/
theorem post_eq (s : State) (b : ReportBody) : post s b = afterReport s (postingOf s b s.clock) := by
  unfold post postAt afterReport xiAfterReport eventsAfterReport postingLost loseReport enqueue
  dsimp only
  split <;> simp_all

/-- A report sets no cause of EVENTS but GAP (R164). -/
theorem post_events (s : State) (b : ReportBody) : (post s b).events = eventsAfterReport s := by
  rw [post_eq]
  rfl

/-- A fault reason taken sets FAULT in EVENTS (R152). -/
theorem raiseFault_events (s : State) (f : FaultReason) (h : lineOpen s = true) : (raiseFault s f).events.fault = true := by
  unfold raiseFault raiseCause
  rw [if_neg (by simp [h])]
  dsimp only
  split
  · rfl
  · unfold holdEntry
    rw [post_events]
    unfold eventsAfterReport
    split <;> rw [enterHold_events] <;> rfl

/-! ### What a report leaves -/

@[simp] theorem post_clock (s : State) (b : ReportBody) : (post s b).clock = s.clock := by
  rw [post_eq]
  rfl

@[simp] theorem post_lc (s : State) (b : ReportBody) : (post s b).lc = s.lc := by
  rw [post_eq]
  rfl

@[simp] theorem post_wt (s : State) (b : ReportBody) : (post s b).wt = s.wt := by
  rw [post_eq]
  rfl

@[simp] theorem post_cp (s : State) (b : ReportBody) : (post s b).cp = s.cp := by
  rw [post_eq]
  rfl

@[simp] theorem post_os (s : State) (b : ReportBody) : (post s b).os = s.os := by
  rw [post_eq]
  rfl

@[simp] theorem post_sc (s : State) (b : ReportBody) : (post s b).sc = s.sc := by
  rw [post_eq]
  rfl

@[simp] theorem post_pu (s : State) (b : ReportBody) : (post s b).pu = s.pu := by
  rw [post_eq]
  rfl

@[simp] theorem post_mr (s : State) (b : ReportBody) : (post s b).mr = s.mr := by
  rw [post_eq]
  rfl

@[simp] theorem post_ci (s : State) (b : ReportBody) : (post s b).ci = s.ci := by
  rw [post_eq]
  rfl

@[simp] theorem post_co (s : State) (b : ReportBody) : (post s b).co = s.co := by
  rw [post_eq]
  rfl

@[simp] theorem post_prof (s : State) (b : ReportBody) : (post s b).prof = s.prof := by
  rw [post_eq]
  rfl

@[simp] theorem post_exbase (s : State) (b : ReportBody) : (post s b).exbase = s.exbase := by
  rw [post_eq]
  rfl

@[simp] theorem post_busy (s : State) (b : ReportBody) : (post s b).busy = s.busy := by
  rw [post_eq]
  rfl

@[simp] theorem post_busRead (s : State) (b : ReportBody) : (post s b).busRead = s.busRead := by
  rw [post_eq]
  rfl

@[simp] theorem post_pins (s : State) (b : ReportBody) : (post s b).pins = s.pins := by
  rw [post_eq]
  rfl

@[simp] theorem post_mem (s : State) (b : ReportBody) : (post s b).mem = s.mem := by
  rw [post_eq]
  rfl

@[simp] theorem post_pending (s : State) (b : ReportBody) : (post s b).pending = s.pending := by
  rw [post_eq]
  rfl

end Sys2Proof.Machine
end

