-- ==== Sys2Proof/Laws/Entry.lean ====
section
/-! SUPPORT. A hold entry, said once and whole (R77, R146). -/

namespace Sys2Proof.Machine

theorem inSet_oneSet (i j : Station) : inSet (oneSet i) j = decide (j = i) := by
  revert i j
  decide

theorem inSet_addTo (m : StationSet) (i j : Station) : inSet (addTo m i) j = true ↔ inSet m j = true ∨ j = i := by
  have h := inSet_oneSet i j
  unfold inSet addTo at *
  rw [BitVec.getLsbD_or, h]
  simp

/-- The one element that `modifyFirst` changes is the first that passes its test. -/
theorem modifyFirst_getElem? {α : Type} (p : α → Bool) (f : α → α) (xs : List α) :
    ∀ (k : Nat) (x : α), xs[k]? = some x →
      (modifyFirst p f xs)[k]? = some (if xs.findIdx? p = some k then f x else x) := by
  induction xs with
  | nil => intro k x h; simp at h
  | cons a rest ih =>
    intro k x h
    unfold modifyFirst
    rw [List.findIdx?_cons]
    by_cases ha : p a = true
    · rw [if_pos ha, if_pos ha]
      cases k with
      | zero => simp at h; simp [h]
      | succ n => simp at h; simp [h]
    · rw [if_neg ha, if_neg ha]
      cases k with
      | zero => simp at h; simp [h]
      | succ n =>
        have h' : rest[n]? = some x := by simpa using h
        have := ih n x h'
        simp [this]

/-! ### The stop marks (R77) -/

theorem liftForHold_map (s : State) (i : Station) :
    (liftForHold s i).wt.map =
      if (s.chan i).state = .lowering ∨ (s.chan i).state = .engaged then (addStopMark s i).wt.map else s.wt.map := by
  unfold liftForHold
  split <;> rename_i h <;> simp [h, beginLifting]

theorem addStopMark_length (s : State) (i : Station) : (addStopMark s i).wt.map.length = s.wt.map.length := by
  unfold addStopMark
  split
  · rfl
  · exact modifyFirst_length _ _ _

theorem liftForHold_length (s : State) (i : Station) : (liftForHold s i).wt.map.length = s.wt.map.length := by
  rw [liftForHold_map]
  split
  · exact addStopMark_length s i
  · rfl

theorem liftForHold_mark (s : State) (i : Station) (k : Nat) (r : Segment) (h : s.wt.map[k]? = some r) :
    ∃ m, (liftForHold s i).wt.map[k]? = some { r with stopMarks := m } ∧
      ∀ j, inSet m j = true ↔ inSet r.stopMarks j = true ∨ (j = i ∧ StopMarkDue s i k) := by
  rw [liftForHold_map]
  by_cases moving : (s.chan i).state = .lowering ∨ (s.chan i).state = .engaged
  · rw [if_pos moving]
    unfold addStopMark
    by_cases far : s.wt.p < (s.stationCfg i).distance
    · rw [if_pos far]
      refine ⟨r.stopMarks, h, fun j => ?_⟩
      have : ¬StopMarkDue s i k := fun d => absurd d.2.1 (by omega)
      simp [this]
    · rw [if_neg far]
      dsimp only
      rw [modifyFirst_getElem? _ _ _ k r h]
      by_cases here : s.wt.map.findIdx? (fun r => r.covers (s.wt.p - (s.stationCfg i).distance)) = some k
      · rw [if_pos here]
        refine ⟨addTo r.stopMarks i, rfl, fun j => ?_⟩
        rw [inSet_addTo]
        have : StopMarkDue s i k := ⟨moving, by omega, here⟩
        simp [this]
      · rw [if_neg here]
        refine ⟨r.stopMarks, rfl, fun j => ?_⟩
        have : ¬StopMarkDue s i k := fun d => here d.2.2
        simp [this]
  · rw [if_neg moving]
    refine ⟨r.stopMarks, h, fun j => ?_⟩
    have : ¬StopMarkDue s i k := fun d => moving d.1
    simp [this]

/-- Where the screens cover the map does not depend on the stop marks. -/
theorem findIdx_covers {xs ys : List Segment} (p : Nat) (len : xs.length = ys.length)
    (h : ∀ (k : Nat) (r : Segment), ys[k]? = some r → ∃ m, xs[k]? = some { r with stopMarks := m }) :
    xs.findIdx? (fun r => r.covers p) = ys.findIdx? fun r => r.covers p := by
  induction ys generalizing xs with
  | nil =>
    have : xs = [] := List.length_eq_zero_iff.1 len
    rw [this]
  | cons b rest ih =>
    cases xs with
    | nil => simp at len
    | cons a more =>
      obtain ⟨m, hm⟩ := h 0 b rfl
      have ha : a = { b with stopMarks := m } := by simpa using hm
      have key := ih (xs := more) (by simpa using len) fun k r hr => h (k + 1) r (by simpa using hr)
      rw [List.findIdx?_cons, List.findIdx?_cons, key, ha]
      rfl

theorem liftForHold_due (s : State) (i j : Station) (k : Nat) (h : i ≠ j) :
    StopMarkDue (liftForHold s i) j k ↔ StopMarkDue s j k := by
  have w := (liftForHold_lineOnly s i).wt
  have hp : (liftForHold s i).wt.p = s.wt.p := by
    have h := congrArg WebTracker.p w
    exact h
  have hc : (liftForHold s i).stationCfg j = s.stationCfg j := by
    unfold State.stationCfg
    rw [(liftForHold_lineOnly s i).prof]
  have hm := findIdx_covers (s.wt.p - (s.stationCfg j).distance) (liftForHold_length s i) fun k r hr =>
    (liftForHold_mark s i k r hr).imp fun _ e => e.1
  unfold StopMarkDue
  rw [liftForHold_chan_of_ne s i j h, hp, hc, hm]

theorem liftList_length (xs : List Station) : ∀ s, (xs.foldl liftForHold s).wt.map.length = s.wt.map.length := by
  induction xs with
  | nil => exact fun _ => rfl
  | cons a rest ih => exact fun s => (ih _).trans (liftForHold_length s a)

theorem liftList_mark (xs : List Station) (nodup : xs.Nodup) :
    ∀ (s : State) (k : Nat) (r : Segment), s.wt.map[k]? = some r →
      ∃ m, (xs.foldl liftForHold s).wt.map[k]? = some { r with stopMarks := m } ∧
        ∀ j, inSet m j = true ↔ inSet r.stopMarks j = true ∨ (j ∈ xs ∧ StopMarkDue s j k) := by
  induction xs with
  | nil => exact fun s k r h => ⟨r.stopMarks, h, fun j => by simp⟩
  | cons a rest ih =>
    intro s k r h
    obtain ⟨n1, n2⟩ := List.nodup_cons.1 nodup
    obtain ⟨m1, e1, f1⟩ := liftForHold_mark s a k r h
    obtain ⟨m2, e2, f2⟩ := ih n2 (liftForHold s a) k _ e1
    refine ⟨m2, e2, fun j => ?_⟩
    rw [f2 j]
    show inSet m1 j = true ∨ _ ↔ _
    rw [f1 j]
    by_cases e : j = a
    · subst e
      simp [n1]
    · by_cases hj : j ∈ rest
      · rw [liftForHold_due s a j k (Ne.symm e)]
        simp [e, hj]
      · simp [e, hj]

/-! ### The standstill supervision -/

theorem liftForHold_lc (s : State) (i : Station) : (liftForHold s i).lc = s.lc := by
  unfold liftForHold beginLifting addStopMark
  split
  · dsimp only
    split <;> rfl
  · dsimp only
    split <;> rfl
  all_goals rfl

theorem liftList_lc (xs : List Station) : ∀ s : State, (xs.foldl liftForHold s).lc = s.lc := by
  induction xs with
  | nil => exact fun _ => rfl
  | cons a rest ih => exact fun s => (ih _).trans (liftForHold_lc s a)

theorem liftForHold_xi (s : State) (i : Station) : (liftForHold s i).xi = s.xi ∧ (liftForHold s i).draws = s.draws ∧
    (liftForHold s i).wt.overfillArmed = s.wt.overfillArmed := by
  unfold liftForHold beginLifting addStopMark
  split
  · dsimp only
    split <;> exact ⟨rfl, rfl, rfl⟩
  · dsimp only
    split <;> exact ⟨rfl, rfl, rfl⟩
  all_goals exact ⟨rfl, rfl, rfl⟩

theorem liftList_xi (xs : List Station) : ∀ s : State, (xs.foldl liftForHold s).xi = s.xi ∧
    (xs.foldl liftForHold s).draws = s.draws ∧ (xs.foldl liftForHold s).wt.overfillArmed = s.wt.overfillArmed := by
  induction xs with
  | nil => exact fun _ => ⟨rfl, rfl, rfl⟩
  | cons a rest ih =>
    intro s
    obtain ⟨a1, a2, a3⟩ := ih (liftForHold s a)
    obtain ⟨b1, b2, b3⟩ := liftForHold_xi s a
    exact ⟨a1.trans b1, a2.trans b2, a3.trans b3⟩

/-- No channel ENGAGED: the engaged indication is no, and the timer stops if it was yes (R150). -/
theorem syncEngaged_of_none (s : State) (h : anyEngaged s = false) :
    syncEngaged s = { s with lc := { s.lc with
      engaged := false
      standstill := if s.lc.engaged then .stopped else s.lc.standstill } } := by
  unfold syncEngaged
  rw [h]
  by_cases e : s.lc.engaged = false
  · rw [if_pos e.symm]
    have x : ∀ l : LineController, l.engaged = false →
        l = { l with engaged := false, standstill := if l.engaged then .stopped else l.standstill } := by
      intro l hl
      cases l
      dsimp only at *
      subst hl
      rfl
    exact congrArg (fun l => { s with lc := l }) (x s.lc e)
  · rw [if_neg (Ne.symm e)]
    simp only [Bool.not_eq_false] at e
    simp [e]

/-- The lifts of a hold entry, whole (R77). -/
theorem liftAllForHold_eq (s : State) : ∃ t, t = stationList.foldl liftForHold s ∧
    liftAllForHold s = { t with lc := { s.lc with
      engaged := false
      standstill := if s.lc.engaged then .stopped else s.lc.standstill } } := by
  refine ⟨_, rfl, ?_⟩
  have none : anyEngaged (stationList.foldl liftForHold s) = false := by
    unfold anyEngaged
    rw [List.any_eq_false]
    intro i hi
    have := (liftList_lifts stationList stationList_nodup i hi s).2
    simpa [State.chan] using this
  unfold liftAllForHold overList
  rw [syncEngaged_of_none _ none, liftList_lc]

theorem LineOnly.toEq {s t : State} (h : LineOnly s t) (xi : t.xi = s.xi) (dr : t.draws = s.draws)
    (ov : t.wt.overfillArmed = s.wt.overfillArmed) (ev : t.events = s.events) :
    t = { s with lc := t.lc, sc := t.sc, wt := { s.wt with map := t.wt.map } } := by
  have wt : t.wt = { s.wt with map := t.wt.map } := by
    have h1 := h.wt
    rw [← h1]
    rw [← ov]
  have h1 := h.clock
  have h2 := h.cp
  have h3 := h.os
  have h4 := h.pu
  have h5 := h.mr
  have h6 := h.ci
  have h7 := h.co
  have h8 := h.prof
  have h9 := h.exbase
  have h10 := h.busy
  have h11 := h.busRead
  have h12 := h.pins
  have h13 := h.mem
  have h14 := h.pending
  rw [← wt]
  cases t
  dsimp only at h1 h2 h3 h4 h5 h6 h7 h8 h9 h10 h11 h12 h13 h14 xi dr ev
  subst h1 h2 h3 h4 h5 h6 h7 h8 h9 h10 h11 h12 h13 h14 xi dr ev
  rfl

/-- Steps 1 to 4 of a hold entry, whole (R146). -/
theorem enterHold_eq (s : State) : ∃ sc map,
    enterHold s = { s with
      lc := { s.lc with
        permit := false
        holdStart := s.clock
        engaged := false
        standstill := if s.lc.engaged then .stopped else s.lc.standstill }
      sc := sc
      wt := { s.wt with map := map }
      events := { s.events with hold := true } } ∧
    map.length = s.wt.map.length ∧
    ∀ (k : Nat) (r : Segment), s.wt.map[k]? = some r →
      ∃ m, map[k]? = some { r with stopMarks := m } ∧
        ∀ j, inSet m j = true ↔ inSet r.stopMarks j = true ∨ StopMarkDue s j k := by
  unfold enterHold
  have hm : ({ s with lc.permit := false } : State).wt.map = s.wt.map := rfl
  have hd : ∀ j k, StopMarkDue { s with lc.permit := false } j k = StopMarkDue s j k := fun _ _ => rfl
  have hl : ({ s with lc.permit := false } : State).lc = { s.lc with permit := false } := rfl
  have hs : ∀ (a : LineController) b c, { ({ s with lc.permit := false } : State) with
    lc := a, sc := b, wt := { ({ s with lc.permit := false } : State).wt with map := c } } =
      { s with lc := a, sc := b, wt := { s.wt with map := c } } := fun _ _ _ => rfl
  have hc : ({ s with lc.permit := false } : State).clock = s.clock := rfl
  have he : ({ s with lc.permit := false } : State).events = s.events := rfl
  generalize ({ s with lc.permit := false } : State) = u at hm hd hl hs hc he ⊢
  obtain ⟨t, ht, e⟩ := liftAllForHold_eq u
  have lo : LineOnly u t := by
    rw [ht]
    exact LineOnly.foldl liftForHold_lineOnly stationList _
  have xi := liftList_xi stationList u
  have ev := liftList_events stationList u
  have len := liftList_length stationList u
  have mark := liftList_mark stationList stationList_nodup u
  rw [← ht] at xi ev len mark
  have te := lo.toEq xi.1 xi.2.1 xi.2.2 ev
  refine ⟨t.sc, t.wt.map, ?_, len.trans (by rw [hm]), ?_⟩
  · rw [e]
    dsimp only
    rw [lo.clock, hc, ev, he, hl]
    rw [hs] at te
    generalize t.sc = sc at te ⊢
    generalize t.wt.map = map at te ⊢
    generalize t.lc = lc at te ⊢
    subst te
    rfl
  · intro k r h
    obtain ⟨m, f1, f2⟩ := mark k r (by rw [hm]; exact h)
    refine ⟨m, f1, fun j => ?_⟩
    have : j ∈ stationList := mem_stationList j
    rw [f2 j, hd]
    simp only [this, true_and]

/-- A hold entry, whole: `s` is the machine with the set already raised (R77, R146). -/
theorem holdEntry_enters (s : State) (r : Option FaultReason) : EntersHold s (holdEntry s r) s.lc.holds r := by
  obtain ⟨sc, map, en, len, mark⟩ := enterHold_eq s
  have chans : ∀ i, (holdEntry s r).chan i = heldChannel s.clock (s.chan i) := holdEntry_chan s r
  have q : holdEntry s r = { s with
      lc := { s.lc with
        permit := false
        holdStart := s.clock
        engaged := false
        standstill := if s.lc.engaged then .stopped else s.lc.standstill }
      sc := sc
      wt := { s.wt with map := map }
      xi := xiAfterReport s (holdOnPosting s s.lc.holds r)
      events := { eventsAfterReport s with hold := true }
      draws := s.draws + 1 } := by
    unfold holdEntry
    rw [post_eq, en]
    unfold afterReport eventsAfterReport xiAfterReport postingLost
    dsimp only
    cases (s.xi.suspended || decide (Config.waitingLimit ≤ waitingReports s.xi.queue)) <;> rfl
  generalize holdEntry s r = u at q chans
  have e1 : u.lc = _ := congrArg State.lc q
  have e2 : u.xi = _ := congrArg State.xi q
  have e3 : u.events = _ := congrArg State.events q
  have e4 : u.sc = _ := congrArg State.sc q
  have e5 : u.wt = _ := congrArg State.wt q
  refine ⟨e1, chans, by rw [e5]; exact len, by rw [e5]; exact mark, e2, e3, ?_⟩
  rw [e1, e2, e3, e4, e5]
  exact q

/-- A hold entry does not depend on the set held before it. -/
theorem EntersHold.ofHolds (s t : State) (x h : HoldSet) (r : Option FaultReason)
    (e : EntersHold { s with lc.holds := x } t h r) : EntersHold s t h r :=
  ⟨e.line, e.channels, e.count, e.marks, e.report, e.events, e.rest⟩

/-- A fault reason raised in READY or PRINTING, whole (R145, R146, R152). -/
theorem raiseFault_raises (s : State) (f : FaultReason) (h : lineOpen s = true) : RaisesFault s (raiseFault s f) f := by
  unfold raiseFault raiseCause
  simp only [h, Bool.not_true, Bool.false_eq_true, if_false, HoldSet.join, holdOf, Bool.or_false, Bool.or_true, noteFault]
  refine ⟨fun a => ?_, fun a => ?_⟩
  · rw [if_pos a]
  · rw [if_neg (by simp [a])]
    obtain ⟨h1, h2, h3, h4, h5⟩ : s.lc.holds.host = false ∧ s.lc.holds.order = false ∧ s.lc.holds.festoon = false ∧
        s.lc.holds.standstill = false ∧ s.lc.holds.fault = false := by
      simpa only [HoldSet.any, Bool.or_eq_false_iff, and_assoc] using a
    simp only [h1, h2, h3, h4]
    exact EntersHold.ofHolds _ _ { fault := true } _ _ (holdEntry_enters _ (some f))

end Sys2Proof.Machine
end

