-- ==== Sys2Proof/Laws/Memory.lean ====
section
/-! SUPPORT. Every operation on board memory keeps its canonical form, and a write is read back at its place and nowhere
else. -/

namespace Sys2Proof.Machine

/-- Every address of a memory lies above a bound. -/
def Above (b : Nat) (m : Memory) : Prop := ∀ c ∈ m, b < c.1

theorem Memory.wf_cons (c : Host.Cell) (rest : Memory) :
    Memory.wf (c :: rest) = true ↔ c.2 ≠ unwrittenByte ∧ Above c.1 rest ∧ Memory.wf rest = true := by
  simp only [Memory.wf, Above, Bool.and_eq_true, bne_iff_ne, List.all_eq_true, decide_eq_true_eq, and_assoc]

theorem writeByte_above (m : Memory) (a b : Nat) (v : Byte) (hm : Above b m) (ha : b < a) : Above b (writeByte m a v) := by
  induction m with
  | nil =>
    unfold writeByte
    split
    · exact hm
    · simpa [Above] using ha
  | cons c rest ih =>
    have hc : b < c.1 := hm c (by simp)
    have hr : Above b rest := fun d hd => hm d (by simp [hd])
    unfold writeByte
    split
    · split
      · exact hm
      · intro d hd
        rcases List.mem_cons.mp hd with rfl | hd
        · exact ha
        · exact hm d hd
    · split
      · split
        · exact hr
        · intro d hd
          rcases List.mem_cons.mp hd with rfl | hd
          · exact ha
          · exact hr d hd
      · intro d hd
        rcases List.mem_cons.mp hd with rfl | hd
        · exact hc
        · exact ih hr d hd

/-- Writing a byte keeps the canonical form. -/
theorem writeByte_wf (m : Memory) (a : Nat) (v : Byte) (h : Memory.wf m = true) : Memory.wf (writeByte m a v) = true := by
  induction m with
  | nil =>
    unfold writeByte
    split
    · rfl
    · rename_i hv
      simp [Memory.wf, hv]
  | cons c rest ih =>
    have hw := (Memory.wf_cons c rest).mp h
    unfold writeByte
    split
    · split
      · exact h
      · rename_i ha hv
        refine (Memory.wf_cons _ _).mpr ⟨hv, ?_, h⟩
        intro d hd
        rcases List.mem_cons.mp hd with rfl | hd
        · exact ha
        · exact Nat.lt_trans ha (hw.2.1 d hd)
    · split
      · rename_i _ he
        split
        · exact hw.2.2
        · rename_i hv
          exact (Memory.wf_cons _ _).mpr ⟨hv, he ▸ hw.2.1, hw.2.2⟩
      · rename_i h1 h2
        exact (Memory.wf_cons _ _).mpr ⟨hw.1, writeByte_above rest a c.1 v hw.2.1 (by omega), ih hw.2.2⟩

/-- Writing a word keeps the canonical form. -/
theorem writeWord_wf (m : Memory) (a : Nat) (w : Word) (h : Memory.wf m = true) : Memory.wf (writeWord m a w) = true :=
  writeByte_wf _ _ _ (writeByte_wf _ _ _ (writeByte_wf _ _ _ (writeByte_wf _ _ _ h)))

theorem readByte_nil (a : Nat) : readByte [] a = unwrittenByte := rfl

theorem readByte_cons_self (c : Host.Cell) (rest : Memory) : readByte (c :: rest) c.1 = c.2 := by
  simp [readByte]

theorem readByte_cons_of_ne (c : Host.Cell) (rest : Memory) (a : Nat) (h : c.1 ≠ a) :
    readByte (c :: rest) a = readByte rest a := by
  simp [readByte, h]

theorem readByte_of_above (m : Memory) (a : Nat) (h : Above a m) : readByte m a = unwrittenByte := by
  induction m with
  | nil => rfl
  | cons c rest ih =>
    have hc : a < c.1 := h c (by simp)
    rw [readByte_cons_of_ne c rest a (by omega)]
    exact ih fun d hd => h d (by simp [hd])

/-- A byte written is read back. -/
theorem readByte_writeByte_self (m : Memory) (a : Nat) (v : Byte) (h : Memory.wf m = true) :
    readByte (writeByte m a v) a = v := by
  induction m with
  | nil =>
    unfold writeByte
    split
    · rename_i hv
      rw [readByte_nil, hv]
    · simp [readByte]
  | cons c rest ih =>
    have hw := (Memory.wf_cons c rest).mp h
    unfold writeByte
    split
    · rename_i ha
      split
      · rename_i hv
        rw [hv]
        refine readByte_of_above _ _ fun d hd => ?_
        rcases List.mem_cons.mp hd with rfl | hd
        · exact ha
        · exact Nat.lt_trans ha (hw.2.1 d hd)
      · simp [readByte]
    · split
      · rename_i _ he
        split
        · rename_i hv
          rw [hv, he]
          exact readByte_of_above _ _ hw.2.1
        · simp [readByte]
      · rename_i h1 h2
        rw [readByte_cons_of_ne _ _ _ (by omega)]
        exact ih hw.2.2

/-- A byte written leaves every other byte as it was. -/
theorem readByte_writeByte_of_ne (m : Memory) (a b : Nat) (v : Byte) (h : b ≠ a) :
    readByte (writeByte m a v) b = readByte m b := by
  induction m with
  | nil =>
    unfold writeByte
    split
    · rfl
    · simp [readByte, Ne.symm h]
  | cons c rest ih =>
    unfold writeByte
    split
    · split
      · rfl
      · exact readByte_cons_of_ne _ _ _ (Ne.symm h)
    · split
      · rename_i _ he
        have hc : c.1 ≠ b := by omega
        split
        · rw [readByte_cons_of_ne c rest b hc]
        · rw [readByte_cons_of_ne _ rest b (Ne.symm h), readByte_cons_of_ne c rest b hc]
      · by_cases hc : c.1 = b
        · subst hc
          rw [readByte_cons_self, readByte_cons_self]
        · rw [readByte_cons_of_ne _ _ _ hc, readByte_cons_of_ne _ _ _ hc, ih]

/-- A word written leaves every byte outside it as it was. -/
theorem readByte_writeWord_outside (m : Memory) (a b : Nat) (w : Word) (h : b < a ∨ a + 3 < b) :
    readByte (writeWord m a w) b = readByte m b := by
  unfold writeWord
  rw [readByte_writeByte_of_ne _ _ _ _ (by omega), readByte_writeByte_of_ne _ _ _ _ (by omega),
    readByte_writeByte_of_ne _ _ _ _ (by omega), readByte_writeByte_of_ne _ _ _ _ (by omega)]

/-- A word written is the word read back (R178). -/
theorem readWord_writeWord (m : Memory) (a : Nat) (w : Word) (h : Memory.wf m = true) : readWord (writeWord m a w) a = w := by
  have h0 := writeByte_wf m a (byteOf w 0) h
  have h1 := writeByte_wf _ (a+1) (byteOf w 1) h0
  have h2 := writeByte_wf _ (a+2) (byteOf w 2) h1
  unfold readWord writeWord
  rw [readByte_writeByte_self _ _ _ h2]
  rw [readByte_writeByte_of_ne _ (a+3) (a+2) _ (by omega), readByte_writeByte_self _ _ _ h1]
  rw [readByte_writeByte_of_ne _ (a+3) (a+1) _ (by omega), readByte_writeByte_of_ne _ (a+2) (a+1) _ (by omega),
    readByte_writeByte_self _ _ _ h0]
  rw [readByte_writeByte_of_ne _ (a+3) a _ (by omega), readByte_writeByte_of_ne _ (a+2) a _ (by omega),
    readByte_writeByte_of_ne _ (a+1) a _ (by omega), readByte_writeByte_self _ _ _ h]
  apply BitVec.eq_of_getLsbD_eq
  intro i hi
  simp only [byteOf, BitVec.getLsbD_append, BitVec.getLsbD_extractLsb']
  interval_cases i <;> norm_num

end Sys2Proof.Machine
end

