-- ==== Sys2Proof/Tests/Slice0.lean ====
section
/-! SUPPORT. Tests of single steps, with results from the worked examples of spec, and the witnesses of the statements'
hypotheses. -/

namespace Sys2Proof.Tests

open Sys2Proof Sys2Proof.Machine

-- The kernel evaluates one test at a time.
set_option Elab.async false

/-! ### The line of section 13.2 -/

/-- A station entry of section 13.2. -/
def station (d : Nat) : StationProfile :=
  { inService := true, distance := d, lead := 150000, circumference := 725000, base := 0, markOffset := 30000 }

/-- The line profile of section 13.2, with the register fields of section 6.8 and the zones and pages of chapter 7. -/
def line : Profile :=
  { noProfile with
    printResolution := 100, ovenResolution := 100, segmentLength := 500000, tableExit := 12000000
    festoonCapacity := 20000000, festoonFill := 8000000, ovenLength := 40000000, seamDistance := 3000000
    guardBefore := 400000, guardAfter := 600000, seamSpacing := 1500000, actuationTimeout := 800, correctionRange := 3000
    captureLimit := 5000, deadband := 20, gain := 6, maxStep := 50, readerDistance := 9000000, window := 4000
    tolerance := 200, missLimit := 3, evaluationTime := 2000
    zones := [(0, 6000000), (6000000, 14000000), (14000000, 26000000), (26000000, 36000000)]
    doseExponent := 8, staleLimit := 2000, setbackDelay := 120, dMin := 12000, dMax := 20000, standstillTime := 1500
    highMark := 16000000, resumeMark := 12000000
    stations := #v[station 3750000, station 5000000, station 6250000, station 7500000, noStation, noStation, noStation,
      noStation, noStation, noStation, noStation, noStation, noStation, noStation, noStation, noStation]
    pages := #v[[], [], [(1300, 0), (1450, 40), (1550, 100), (1650, 180), (1750, 240)], [], [], [], [],
      [(1200, 0), (1400, 60), (1600, 160), (1800, 220)]] }

/-- The line in READY, its web at the values of a completed load. -/
def ready : State :=
  { State.reset with
    prof := line
    lc := { resetLine with line := .ready, permit := true }
    wt := { resetTracker with k := 20000000 } }

/-- Order A of section 13.2, in slot 0 since position 20,000,000. -/
def orderA : Order :=
  { kind := .print, tag := 0x0101#32, length := 725000, count := 40, set := 7#16, overrun := 6, lift := 0#16,
    pressure := 4#3, page := 2, dMin := 12000, dMax := 20000, tolerance := 0, markCount := 0, marks := [],
    endCondition := .seam, tail := .runOut }

/-- Order A's record. -/
def recordA : InFlight :=
  { slot := 0, order := orderA, origin := 20000000, finish := 53350000, ended := false, late := false, aborted := false,
    seamEnd := none, proofEnd := none, proofFailure := none, firstSerial := 0, lastSerial := 0, segments := 0, accepted := 0,
    classes := {}, worst := 0, worstStation := 0, printed := false, closing := false }

/-- The line in PRINTING with order A in the entry. -/
def printing : State :=
  { ready with
    lc := { resetLine with line := .printing, permit := true }
    wt := { resetTracker with p := 20000100, lastCut := 20000000, k := 20000000, q := 1000 }
    os := { resetSequencer with next := 1, entry := some 0, table := [recordA] } }

/-- A segment of order A. -/
def segmentA : Segment :=
  { serial := 1, length := 500000, pEnd := 500000, tag := 0x0101#32, slot := some 0, kind := .print, required := 7#16,
    pressure := 4#3, seam := false, page := 2, dMin := 12000, dMax := 20000, printed := 7#16, stopMarks := 0#16,
    registerDefect := false, dose := 0, peak := 0, stale := false, overcure := false, verdict := none }

/-- A held line: HOST raised at line clock 5. -/
def held : State :=
  { ready with lc := { resetLine with line := .ready, holds := { host := true }, holdStart := 5#32 }, clock := 25#32 }

/-- A state with one channel changed. -/
def withChannel (s : State) (i : Station) (c : Channel) : State := s.setChan i c

/-- The state after a command; the state before it where the command is refused. -/
def after (c : Instr) (s : State) : State :=
  match exec c s with
  | .next t => t
  | _ => s

/-- A state at a line clock. -/
def atClock (n : Nat) (s : State) : State := { s with clock := wordOfNat n }

/-- The first report in the queue: its kind and its value words. -/
def firstReport (s : State) : Option (ReportKind × Nat × Nat) :=
  s.xi.queue.findSome? fun t =>
    match t with
    | .report p => some (p.kind, p.first.toNat, p.second.toNat)
    | _ => none

/-! ### Well-formedness -/

theorem test_wellFormed_refuses_a_named_code : WellFormed (.commandCodeUndefined 10#8) = false := by decide
theorem test_wellFormed_takes_an_unnamed_code : WellFormed (.commandCodeUndefined 11#8) = true := by decide

/-! ### Fabric tracking -/

-- Section 1.7: the first print count after an underrun of 40,000 µm.
theorem test_print_count_ends_the_underrun :
    (after .printForwardCount { ready with
      wt := { resetTracker with p := 12600000, q := 20640000, k := 20040000, lastCut := 12600000, underrun := some 40000 } }).wt.p
      = 12600100 := by decide +kernel
theorem test_underrun_report :
    firstReport (after .printForwardCount { ready with
      prof.printResolution := 1
      wt := { resetTracker with p := 12600000, q := 20640000, k := 20040000, lastCut := 12600000, underrun := some 40000 } })
      = some (.underrun, 40000, 20040) := by decide +kernel
-- Section 1.7: each count past the empty festoon raises K by 100.
theorem test_oven_count_reanchors :
    (after .ovenForwardCount { ready with wt := { resetTracker with p := 12600000, q := 20600000, k := 20000000 } }).wt.k
      = 20000100 := by decide +kernel
theorem test_oven_count_opens_the_underrun :
    (after .ovenForwardCount
      { ready with wt := { resetTracker with p := 12600000, q := 20600000, k := 20000000 } }).wt.underrun = some 100 := by
  decide +kernel
-- R2: the debt stops at 65,535 µm and the excess is reported.
theorem test_reverse_count_reports_the_excess :
    firstReport (after (.reverseCount .oven) { ready with wt.ovenDebt := 65500 }) = some (.reverseLimit, 1, 65) := by
  decide +kernel

/-! ### Cuts and seams -/

-- Section 3.7: the detector level rises at P = 101,200,000, and the seam is announced 2,000 µm on.
theorem test_seam_level_rises :
    (after (.seamLevelChange true) { ready with wt.p := 101200000 }).cp.detector = .rising := by decide +kernel
theorem test_seam_announced :
    (after .printForwardCount { ready with
      prof.printResolution := 1
      wt := { resetTracker with p := 101201999, lastCut := 101201000, k := 20000000 }
      cp := { resetPlanner with detector := .rising, risePosition := 101200000, travel := 1999 } }).cp.seams
      = [{ position := 104200000, zoneStart := 103800000, zoneEnd := 104800000, opened := false }] := by decide +kernel

-- R40, R54: a shorter end keeps the mark due at P and withdraws the one at or beyond it.
theorem test_end_keeps_the_mark_at_p :
    (planEnd { resetPlanner with
      marks := [{ position := 5000, lift := 0#16, pressure := 1#3, applied := false },
                { position := 9000, lift := 0#16, pressure := 2#3, applied := false }]
      pending := [{ kind := .zoneMark 0, position := 5000 }, { kind := .zoneMark 1, position := 9000 },
                  { kind := .orderEnd, position := 12000 }] } 5000 9000).pending
      = [{ kind := .zoneMark 0, position := 5000 }, { kind := .orderEnd, position := 9000 }] := by decide

/-! ### Stations -/

-- Section 4.12: UP_SENSE rises in LIFTING, DOWN_SENSE rises in LOWERING.
theorem test_up_sense_lifts :
    ((after (.stationSensorChange 2 .up true) (withChannel ready 2 { resetChannel with state := .lifting })).chan 2).state
      = .lifted := by decide +kernel
theorem test_down_sense_engages :
    ((after (.stationSensorChange 2 .down true) (withChannel ready 2 { resetChannel with state := .lowering })).chan 2).state
      = .engaged := by decide +kernel
-- Section 9.9: channel 2 times out in LIFTING, and STATION_LIFT is the first fault reason.
theorem test_lift_timeout_faults_the_line :
    (after (.actuationTimerExpiry 1)
      (atClock 800 (withChannel ready 1 { resetChannel with state := .lifting, timer := .running 0#32 }))).lc.firstFault
      = some .stationLift := by decide +kernel
-- R65: the timeout of 800 ms has not run out after 799.
theorem test_lift_timeout_waits :
    ((after (.actuationTimerExpiry 1)
      (atClock 799 (withChannel ready 1 { resetChannel with state := .lifting, timer := .running 0#32 }))).chan 1).state
      = .lifting := by decide +kernel
theorem test_lift_set : ((after (.liftSet 4#16) printing).chan 2).manual = true := by decide +kernel
theorem test_lift_clear : ((after (.liftClear 4#16) printing).chan 2).manual = false := by decide +kernel

/-! ### Register phasing and the mark reader -/

-- Section 5.7: x = 13,751,200 and 13,751,250 on a screen of 725,000 µm.
theorem test_phase_target : targetOf 13751200 725000 = 63384 ∧ targetOf 13751250 725000 = 63389 := by decide
-- R89: a trim is clamped to 50,000 µm.
theorem test_trim_clamps : ((after (.trim 3#5 32767#16) { ready with pu :=
    { resetPhaseUnit with stations := Vector.replicate 16 { resetPhaseStation with trim := 40000 } } }).phase 2).trim
    = 50000 := by decide +kernel

/-- Section 6.8: order V's repeat 4 with station 1's window open. -/
def openWindow : Schedule :=
  { tag := 0x56#32, origin := 60000000, length := 725000, key := some 0, index := 4
    entries := [{ station := 0, intended := 2920000, predicted := 2920000, opensAt := 71916000, closesAt := 71924000,
                  state := .opened, measured := none }] }

/-- The reader OPEN for it at P = 71,920,150. -/
def reading : State :=
  { printing with
    wt.p := 71920150
    mr := { resetReader with schedules := [openWindow], reader := .opened,
                             current := some { tag := 0x56#32, index := 4, station := 0 } } }

theorem test_edge_measures :
    ((scheduleOf (after .markEdge reading) 0x56#32 4).bind fun x => (entryOf x 0).bind fun e => e.measured)
      = some 2920150 := by decide +kernel
-- Section 6.9: the third miss of a station in a row posts MARK_LOST with j 22 and limit 3.
theorem test_mark_lost :
    firstReport (after .evaluationTimerExpiry { reading with
      clock := 2#32
      mr := { resetReader with
        schedules := [{ openWindow with
          index := 22, entries := openWindow.entries.map fun e => { e with state := .evaluating } }]
        reader := .evaluating
        timer := .running 0#32
        current := some { tag := 0x56#32, index := 22, station := 0 }
        misses := Vector.replicate 16 2 } }) = some (.markLost, 22, 3) := by decide +kernel

/-! ### Cure -/

-- Section 7.3: rate lookups of page 2.
theorem test_rate_lookups :
    [1200, 1300, 1450, 1500, 1612, 1700, 1749, 1800].map (cureRate (line.pages.get 2))
      = [0, 0, 40, 70, 149, 210, 239, 240] := by decide
-- Section 7.8: a sample of 1512 makes the stale zone 2 fresh.
theorem test_frame_makes_the_zone_fresh :
    firstReport (after (.zoneFrame 2#8 (.sample 1512#16)) ready) = some (.zoneFresh, 1512, 0) := by decide +kernel
-- Section 7.8: the stale timer expires with the temperature held.
theorem test_stale_timer :
    firstReport (after (.staleTimerExpiry 1)
      (atClock 2000 (ready.setZone 1 { temperature := 1500, fresh := true, timer := .running 0#32 })))
      = some (.zoneStale, 0, 1500) := by decide +kernel
-- R116: a frame that restarts the timer first keeps the zone FRESH.
theorem test_frame_before_the_stale_timer :
    ((after (.staleTimerExpiry 1) (after (.zoneFrame 2#8 (.sample 1512#16))
      (atClock 2000 (ready.setZone 1 { temperature := 1500, fresh := true, timer := .running 0#32 })))).zone 1).fresh
      = true := by decide +kernel

/-- Section 7.5: a segment whose centre lies in zone 3, which reads 1612. -/
def baking : State :=
  let s := { printing with
    clock := 300#32
    wt := { resetTracker with p := 32000000, q := 40000000, k := 20000000, lastCut := 32000000,
                              map := [{ segmentA with dose := 19987456, peak := 1612 }] }
    ci := { resetCure with doseTimer := .running 0#32, setbackTimer := .running 0#32, setback := false } }
  s.setZone 2 { temperature := 1612, fresh := true, timer := .running 0#32 }

-- Section 7.5: expiry 174 of the stop.
theorem test_dose : (after .doseIntervalExpiry baking).wt.map.map (fun r => (r.dose, r.overcure)) = [(20025600, true)] := by
  decide +kernel
theorem test_overcure_alert : firstReport (after .doseIntervalExpiry baking) = some (.overcureAlert, 20025, 20000) := by
  decide +kernel
-- Section 7.9: SETBACK_ON with Q in mm.
theorem test_setback_on :
    firstReport (after .setbackTimerExpiry { ready with
      clock := 120000#32
      wt.q := 61204300, ci := { resetCure with setback := false, setbackTimer := .running 0#32 } })
      = some (.setbackOn, 61204, 0) := by decide +kernel
-- R127: an oven advance that restarts the timer first leaves SETBACK deasserted.
theorem test_advance_before_the_setback_timer :
    (after .setbackTimerExpiry (after .ovenForwardCount { ready with
      clock := 120000#32
      ci := { resetCure with setback := false, setbackTimer := .running 0#32 } })).ci.setback = false := by decide +kernel

/-! ### Exits -/

/-- Order A's first segment past the oven exit. -/
def leaving : State :=
  { printing with wt := { resetTracker with p := 52500000, q := 60500000, k := 20000000, lastCut := 52500000, nextSerial := 2,
                                            map := [{ segmentA with dose := 13388544, peak := 1612 }] } }

-- R135, R183: the words of the entry; the peak in bits 16..27, the dose in u.
theorem test_close_out_hands_over_the_entry :
    (after .closeOut leaving).xi.queue =
      [.mapWrite 1 [0#32, 0x0101#32, 0x064C0007#32, 13388#32, 1#32]] := by decide +kernel

/-! ### The line -/

theorem test_hold : firstReport (after .hold printing) = some (.holdOn, 1, 0) := by decide +kernel
theorem test_hold_removes_the_permit : (after .hold printing).lc.permit = false := by decide +kernel
theorem test_resume : firstReport (after .resume held) = some (.holdOff, 1, 20) := by decide +kernel
theorem test_standstill :
    firstReport (after .standstillTimerExpiry { ready with clock := 1500#32, lc.standstill := .running 0#32 }) = some (.holdOn, 8, 0) := by
  decide +kernel
-- Section 9.9: the screen has risen; the hold began at 8,001,500 and ends at 8,020,000.
theorem test_clear_fault :
    firstReport (after .clearFault (withChannel
      { ready with
        clock := 8020000#32
        pins.upSense := 2#16
        lc := { resetLine with line := .ready, holds := { fault := true }, holdStart := 8001500#32, firstFault := some .stationLift } }
      1 { resetChannel with state := .faulted, reason := some .liftTimeout })) = some (.holdOff, 16, 18500) := by
  decide +kernel
theorem test_abort_ends_the_order : (after .abortOrder printing).lc.line = .ready := by decide +kernel
theorem test_signal_reads_slot_0 : (after .signal ready).xi.queue = [.slotRead 0] := by decide +kernel
theorem test_load_begins : statusWord (after .loadProfile State.reset) = 0x4042#32 := by decide +kernel
theorem test_unload_ends : statusWord (after .unload ready) = 0x4040#32 := by decide +kernel

/-! ### Exchange -/

/-- A STATION_FAULT posting. -/
def faultPosting : Posting :=
  { kind := .stationFault, tag := 0#32, station := 1#32, serial := 0#32, clock := 0#32, first := 1#32, second := 0#32 }

/-- Section 10.7: one slot free with two reports lost, a STATION_FAULT posting waiting. -/
def fullRing : State :=
  { ready with
    exbase := 0x10000#32
    xi := { resetExchange with
      written := 65530#16
      retired := 65275#16
      lost := 2
      firstLoss := 9100000#32
      queue := [.report faultPosting] } }

/-- The last write of the GAP record. -/
def gapEnding : InHand :=
  { transaction := .report faultPosting, access := { offset := 0x6F5C, write := some 65530#32, mark := .gapDone },
    address := 0x16F5C#32, rest := [], got := [], stage := .stateWord, discarded := false, loseAfterGap := true }

-- Section 10.7: the GAP record goes into slot 250.
theorem test_gap_record_slot :
    (after .transactionStart fullRing).xi.inHand.map (fun h => h.address.toNat) = some (0x10000 + 0x5000 + 32 * 250) := by
  decide +kernel
-- Section 10.7: with its last word W becomes 65,531, and the STATION_FAULT is lost with a new count of 1.
theorem test_gap_record_done :
    let s := after (.memoryAccessDone none) { fullRing with xi.queue := [], xi.inHand := some gapEnding }
    (s.xi.written, s.xi.lost) = (65531#16, 1) := by decide +kernel
theorem test_timeout_suspends :
    (after .memoryAccessTimeout (atClock 1 (after .transactionStart fullRing))).lc.firstFault = some .busFault := by
  decide +kernel

/-! ### Registers -/

theorem test_reset_status : statusWord (after (.reset .pin) printing) = 0x4040#32 := by decide +kernel
theorem test_release : (after .resetRelease (after (.reset .pin) printing)).pins.resetAsserted = false := by decide +kernel
-- R167: the greatest EXBASE, and one page beyond it.
theorem test_exbase_limit : (after (.exbaseWrite 0xFFFE9000#32) State.reset).exbase = 0xFFFE9000#32 := by decide +kernel
theorem test_exbase_beyond : (after (.exbaseWrite 0xFFFEA000#32) State.reset).events.writeIgnored = true := by decide +kernel
-- Section 10.7: 65,275 is accepted with H = 65,274 and W = 65,530; 65,540 is not with H = 65,300 and W = 65,533.
theorem test_retire_accepted :
    (after (.retireWrite 65275#32) { ready with xi := { resetExchange with written := 65530#16, retired := 65274#16 } }).xi.retired
      = 65275#16 := by decide +kernel
theorem test_retire_ignored :
    (after (.retireWrite 65540#32)
      { ready with xi := { resetExchange with written := 65533#16, retired := 65300#16 } }).events.writeIgnored = true := by
  decide +kernel
theorem test_events_read :
    let s := after .eventsRead { ready with events := { hold := true, writeIgnored := true } }
    (s.busRead, s.events.any) = (0x44#32, false) := by decide +kernel
theorem test_write_ignored : (after (.registerWriteIgnored .status 5#32) ready).events.writeIgnored = true := by decide +kernel
-- R184: TRIM of station 3 by −40 µm, LIFT_SET of stations 2 and 5, and code 11.
theorem test_command_words :
    commandOfWord 0xFFD8030A#32 = .trim 3#5 0xFFD8#16 ∧ commandOfWord 0x00120008#32 = .liftSet 0x0012#16 ∧
      commandOfWord 0x0000000B#32 = .commandCodeUndefined 11#8 := by decide
-- R184: the COMMAND words of HOLD and of TRIM of station 3 by 40 µm; a word of another width spells no command.
theorem test_words_spell_commands :
    decodeTableWord 32 0x00000004 = some .hold ∧ decodeTableWord 32 0x0028030A = some (.trim 3#5 40#16) ∧
      decodeTableWord 16 4 = none := by decide
theorem test_undefined_code : (after (.commandCodeUndefined 0#8) ready).events.cmdRefused = true := by decide +kernel

/-! ### Witnesses of the statements' hypotheses -/

theorem witness_counts :
    (PositionLaw ready ∧ ready.pins.resetAsserted = false ∧ ready.lc.line = .ready) ∧
      (PositionLaw printing ∧ printing.lc.line = .printing) ∧
      (PositionLaw State.reset ∧ State.reset.lc.line = .unloaded ∧ State.reset.pins.resetAsserted = false) := by
  unfold PositionLaw
  decide +kernel

theorem witness_step : ({ ready with pending := [.hold] } : State).pending = [.hold] := rfl
theorem witness_idle : ready.pending = [] ∧ ready.pins.resetAsserted = false ∧
    (after (.reset .pin) ready).pending = [] ∧ (after (.reset .pin) ready).pins.resetAsserted = true := by decide +kernel

theorem witness_debt_paid : takesEvents { ready with wt.printDebt := 100, wt.ovenDebt := 100 } = true ∧
    line.printResolution ≤ 100 ∧ line.ovenResolution ≤ 100 := by decide +kernel

/-- A line whose print position stands one µm before its limit. -/
def atLimit : State :=
  { ready with
    wt.p := Config.positionLimit - 1
    wt.lastCut := Config.positionLimit - 1
    wt.q := Config.positionLimit - 1
    wt.printDebt := 99
    wt.ovenDebt := 99 }
/-- The same at its new position: one µm of print advance, its thresholds not yet met, with P_c at `cut`. -/
def advanced (cut : Nat) : State :=
  { atLimit with wt := { atLimit.wt with p := atLimit.wt.p + 1, printDebt := 0, printReverse := .none, lastCut := cut } }

theorem witness_advance : takesEvents atLimit = true ∧ atLimit.prof.printResolution = atLimit.wt.printDebt + 1 ∧
    atLimit.wt.p + 1 ≤ Config.positionLimit ∧ atLimit.prof.ovenResolution = atLimit.wt.ovenDebt + 1 ∧
    atLimit.wt.q + 1 ≤ Config.positionLimit := by decide +kernel
theorem witness_threshold : atLimit.wt.underrun = none ∧ atLimit.lc.standstill = .stopped ∧
    (actorList.filter (actorDue (advanced (Config.positionLimit - 1))) = []) ∧
    actorList.filter (actorDue (advanced 0)) = [.cut] := by decide +kernel
theorem witness_blocks : ({ atLimit with wt.underrun := some 40000 } : State).wt.underrun = some 40000 ∧
    (atLimit.stationCfg 0).inService = true ∧ (atLimit.stationCfg 15).inService = false ∧
    actorDue (advanced 0) .cut = true ∧ actorDue (advanced 0) .detector = false := by decide +kernel
/-- A line in its oven advance, the festoon content at `f`, with hold causes. -/
def festoonAt (f : Nat) (holds : HoldSet) (armed : Bool) : State :=
  { ready with
    wt := { resetTracker with p := f, q := 0, k := 12000000, lastCut := f, overfillArmed := armed }
    lc := { resetLine with line := .ready, holds := holds } }
theorem witness_festoon :
    (∀ f holds armed, lineOpen (festoonAt f holds armed) = true) ∧
    festoon (festoonAt 15999999 {} true) < line.highMark ∧ line.highMark ≤ festoon (festoonAt 16000000 {} true) ∧
    line.resumeMark < festoon (festoonAt 12000001 { festoon := true } true) ∧
    festoon (festoonAt 12000000 { festoon := true } true) ≤ line.resumeMark ∧
    ({ festoon := true, host := true } : HoldSet) ≠ { festoon := true } ∧
    festoon (festoonAt 20000000 { host := true } true) ≤ line.festoonCapacity ∧
    line.festoonCapacity < festoon (festoonAt 20000001 {} false) :=
  ⟨fun _ _ _ => rfl, by decide +kernel, by decide +kernel, by decide +kernel, by decide +kernel, by decide, by decide +kernel,
    by decide +kernel⟩
theorem witness_advance_stops : takesEvents { atLimit with wt.printDebt := 98, wt.ovenDebt := 98 } = true ∧
    atLimit.prof.printResolution = 98 + 2 ∧ atLimit.wt.p ≤ Config.positionLimit ∧ Config.positionLimit < atLimit.wt.p + 2 ∧
    atLimit.prof.ovenResolution = 98 + 2 ∧ atLimit.wt.q ≤ Config.positionLimit ∧
    Config.positionLimit < atLimit.wt.q + 2 ∧ atLimit.wt.limitPosted = false ∧
    ({ atLimit with wt.limitPosted := true } : State).wt.limitPosted = true := by decide +kernel
theorem witness_sections : FestoonLaw leaving ∧ FestoonLaw baking ∧ inSection leaving segmentA .exited = true ∧
    inSection baking segmentA .oven = true ∧ inSection printing { segmentA with pEnd := 8000101 } .table = true ∧
    inSection printing { segmentA with pEnd := 8000100 } .festoon = true ∧
    exec .ovenForwardCount leaving = .next (after .ovenForwardCount leaving) := by
  unfold FestoonLaw
  exact ⟨by decide +kernel, by decide +kernel, by decide +kernel, by decide +kernel, by decide +kernel, by decide +kernel, rfl⟩
theorem witness_reverse : takesEvents ready = true ∧ 65435 + ready.prof.printResolution ≤ Config.debtLimit ∧
    Config.debtLimit < 65436 + ready.prof.printResolution ∧ 65435 + ready.prof.ovenResolution ≤ Config.debtLimit ∧
    Config.debtLimit < 65436 + ready.prof.ovenResolution := by decide +kernel

/-- An open stretch of 100 µm, or of 500 mm of run-out; a full web map; the serials exhausted. -/
def stretchOpen : State := { ready with wt.p := 500000 }
def mapFilled : State := { printing with wt.map := List.replicate 2048 segmentA }
def serialsUsed : State := { printing with wt.nextSerial := 4294967296 }

theorem witness_records :
    (ready.wt.p ≤ ready.wt.lastCut ∧ printing.wt.lastCut < printing.wt.p) ∧
    (printing.wt.map.length < 2048 ∧ printing.wt.nextSerial ≤ 4294967295 ∧ entryRecord printing = some recordA ∧
      recordA.order.kind ≠ .halt ∧ stretchOpen.os.entry = none) ∧
    (2048 ≤ mapFilled.wt.map.length ∧ mapFilled.wt.lost = false ∧ lineOpen mapFilled = true ∧
      ({ mapFilled with wt.lost := true } : State).wt.lost = true) ∧
    (4294967295 < serialsUsed.wt.nextSerial ∧ serialsUsed.wt.lost = false ∧ serialsUsed.wt.map.length < 2048) ∧
    cutDue stretchOpen = true ∧ stretchOpen.cp.pending = [] := by decide +kernel

/-- A cut entry at P. -/
def cutAt (k : CutKind) : CutEntry := { kind := k, position := 20000100 }

theorem witness_cut_entries :
    (∀ k ∈ [CutKind.zoneMark 0, .seamStart 23000000, .seamEnd 23000000, .orderEnd], (cutAt k).position ≤ printing.wt.p) ∧
    ({ printing with cp.marks := [{ position := 20000100, lift := 0#16, pressure := 1#3, applied := false }] } : State).cp.marks[0]?
      = some { position := 20000100, lift := 0#16, pressure := 1#3, applied := false } := by decide +kernel

/-- Both edges of one seam and a zone mark at P, and the end of the order ahead. -/
def cutList : List CutEntry := [cutAt (.zoneMark 0), cutAt (.seamStart 23000000), cutAt (.seamEnd 23000000)]
def severalCuts (here : List CutEntry) : State :=
  { printing with cp := { resetPlanner with
      marks := [{ position := 20000100, lift := 2#16, pressure := 1#3, applied := false }]
      seams := [{ position := 23000000, zoneStart := 20000100, zoneEnd := 20000100, opened := false }]
      pending := here ++ [{ kind := .orderEnd, position := 53350000 }] } }
theorem witness_cut_list : cutList ≠ [] ∧ (∀ e ∈ cutList, e.position ≤ (severalCuts cutList).wt.p) ∧
    (severalCuts cutList).wt.p < 53350000 ∧ (severalCuts cutList).cp.marks[0]?.isSome = true ∧
    (severalCuts cutList.tail).cp.pending.map (fun e => e.kind) = [.seamStart 23000000, .seamEnd 23000000, .orderEnd] := by
  decide +kernel
-- R55: with both guards 0 the seam opens and leaves at one cut.
theorem test_both_edges_at_one_cut :
    let t := meetCut (severalCuts cutList)
    (t.cp.inside, t.cp.seams, t.cp.lift, t.cp.pending.map fun e => e.kind) = (false, [], 2#16, [.orderEnd]) := by decide +kernel

/-- Three marks of an order, the last APPLIED; the first has its entry. -/
def planned : CutPlanner :=
  { resetPlanner with
    marks := [{ position := 10, lift := 0#16, pressure := 1#3, applied := false },
      { position := 20, lift := 0#16, pressure := 2#3, applied := false },
      { position := 24, lift := 0#16, pressure := 3#3, applied := true }]
    pending := [{ kind := .zoneMark 0, position := 10 }, { kind := .orderEnd, position := 15 }] }
theorem witness_marks :
    (planned.pending.filter fun e => e.kind == .zoneMark 0 && decide (e.position < 25)) ≠ [] ∧
    (planned.pending.filter fun e => e.kind == .zoneMark 1 && decide (e.position < 25)) = [] ∧
    (planned.pending.filter fun e => e.kind == .zoneMark 0 && decide (e.position < 10)) = [] := by decide
-- R54: an end moved later enters the mark that now lies before it, and no APPLIED one.
theorem test_marks_entered_again : (planEnd planned 5 25).pending =
    [{ kind := .zoneMark 0, position := 10 }, { kind := .zoneMark 1, position := 20 }, { kind := .orderEnd, position := 25 }] := by
  decide

theorem witness_cuts : CutsAscend { resetPlanner with pending :=
    [{ kind := .seamStart 104200000, position := 103800000 }, { kind := .orderEnd, position := 103800000 }] } := by
  unfold CutsAscend
  decide
theorem witness_seam_level : takesEvents ready = true ∧ ready.pins.seamLevel = false ∧
    takesEvents { ready with pins.seamLevel := true } = true ∧ takesEvents State.reset = false := by decide +kernel

/-- The detector in a state at a travel. -/
def detecting (d : DetectorState) (travel : Nat) : State :=
  { ready with cp := { resetPlanner with detector := d, travel := travel } }
theorem witness_detector : (∀ d ∈ [DetectorState.rising, .clearing], detectorDue (detecting d 2000) = true ∧
    detectorDue (detecting d 1999) = false) ∧ detectorDue (detecting .latched 2000) = false := by decide +kernel

/-- Section 3.8: a seam queue of `n` entries, each 800,000 µm after the one before. -/
def seamsQueued (n : Nat) : State :=
  { ready with cp.seams := (List.range n).map fun i =>
      { position := 1000000 + 800000 * i, zoneStart := 900000 + 800000 * i, zoneEnd := 1100000 + 800000 * i, opened := false } }

theorem witness_seams : lineOpen (seamsQueued 3) = true ∧
    mergeTarget (seamsQueued 3) (9000000 + line.seamDistance) (9000000 + line.seamDistance - line.guardBefore) = none ∧
    (seamsQueued 3).cp.seams.length < 4 ∧
    mergeTarget (seamsQueued 4) (9000000 + line.seamDistance) (9000000 + line.seamDistance - line.guardBefore) = none ∧
    4 ≤ (seamsQueued 4).cp.seams.length ∧
    (mergeTarget (seamsQueued 3) 4100000 3700000 = (seamsQueued 3).cp.seams.getLast? ∧
      (seamsQueued 3).cp.seams.getLast?.map (fun e => e.position + line.seamSpacing) = some 4100000) ∧
    mergeTarget (seamsQueued 3) 4100001 3700001 = none := by decide +kernel

/-- Channel 16 in a state, with its sensors at given levels and its timer running. -/
def lastChannel (c : ChannelState) (up down : Bool) : State :=
  withChannel { ready with pins.upSense := if up then 0x8000#16 else 0#16, pins.downSense := if down then 0x8000#16 else 0#16 }
    15 { resetChannel with state := c, timer := .running 0#32, pendingLower := true, lastRequired := true }

theorem witness_sensors :
    (((lastChannel .lowering false false).chan 15).state = .lowering ∧
      inSet (lastChannel .lowering false false).pins.downSense 15 = false ∧
      inSet (lastChannel .lowering false false).pins.upSense 15 = false) ∧
    ((lastChannel .lifting false false).chan 15).state = .lifting ∧
    (((lastChannel .lifted true false).chan 15).state = .lifted ∧
      inSet (lastChannel .lifted true false).pins.upSense 15 = true) ∧
    (((lastChannel .engaged false true).chan 15).state = .engaged ∧
      inSet (lastChannel .engaged false true).pins.downSense 15 = true ∧
      inSet (lastChannel .engaged false true).pins.upSense 15 = false) ∧
    ((lastChannel .faulted true false).chan 15).state = .faulted ∧
    (lastChannel .lifting false false).pins.resetAsserted = false := by decide +kernel
/-- Sensor changes that R74 gives no effect, and a level already held. -/
theorem witness_idle_cells :
    (∀ x ∈ [(ChannelState.lifted, Sensor.up, true), (.lifted, .down, true), (.lowering, .down, false), (.engaged, .down, true),
        (.engaged, .up, true), (.lifting, .up, false), (.lifting, .down, true)],
      ¬(x.1 = .lifted ∧ x.2.1 = .up ∧ x.2.2 = false) ∧ ¬(x.1 = .lowering ∧ x.2.1 = .down ∧ x.2.2 = true) ∧
      ¬(x.1 = .engaged ∧ x.2.1 = .down ∧ x.2.2 = false) ∧ ¬(x.1 = .lifting ∧ x.2.1 = .up ∧ x.2.2 = true) ∧
      let s := lastChannel x.1 (x.2.1 == .up && !x.2.2) (x.2.1 == .down && !x.2.2)
      let t := setSensor s 15 x.2.1 x.2.2
      (s.chan 15).state = x.1 ∧ sensorLevel s 15 x.2.1 ≠ x.2.2 ∧
        (inSet t.pins.upSense 15 = false ∨ inSet t.pins.downSense 15 = false)) ∧
    sensorLevel (lastChannel .engaged false true) 15 .down = true := by decide +kernel

/-- A timer that has run for exactly its interval is due. -/
theorem due_at {n : Nat} {w : Word} (h : n ≤ (w - 0#32).toNat) : Due (.running 0#32) n w := ⟨0#32, rfl, h⟩
theorem due_not {t : Timer} {n : Nat} {w : Word} (h : ∀ x, t = .running x → (w - x).toNat < n) : ¬Due t n w :=
  fun ⟨x, hx, hle⟩ => absurd (h x hx) (by omega)
theorem stopped_not_due (n : Nat) (w : Word) : ¬Due .stopped n w := due_not (by simp)
theorem witness_timeouts : Due ((lastChannel .lowering false false).chan 15).timer line.actuationTimeout 800#32 ∧
    ((lastChannel .lifting false false).chan 15).timer = .running 0#32 ∧
    ¬Due (.running 0#32) line.actuationTimeout 799#32 ∧ lineOpen (lastChannel .lifting false false) = true ∧
    (lastChannel .lifting false false).lc.holds.any = false :=
  ⟨due_at (by decide +kernel), by decide +kernel, due_not (by rintro x ⟨⟩; decide +kernel), by decide +kernel,
    by decide +kernel⟩
/-- Channel 1 in a state, with a segment of order A as record 1. -/
def pointed (c : ChannelState) : State :=
  withChannel { printing with wt.map := [segmentA] } 0 { resetChannel with state := c }
theorem witness_points :
    (∃ n r, some 1 = some n ∧ recordOfSerial (pointed .lifted) n = some r ∧ inSet r.required 0 = true) ∧
    (∀ c ∈ [ChannelState.lifted, .lowering, .engaged, .lifting], ((pointed c).chan 0).state = c ∧
      ((pointed c).chan 0).manual = false ∧ (pointed c).lc.holds.any = false) ∧
    ((pointed .out).chan 0).state = .out ∧ ((pointed .faulted).chan 0).state = .faulted ∧
    (pointed .engaged).wt.map[0]? = some segmentA ∧ inSet (pointed .lifted).pins.downSense 0 = false ∧
    inSet ({ pointed .lifted with pins.downSense := 1#16 } : State).pins.downSense 0 = true :=
  ⟨⟨1, segmentA, rfl, by decide +kernel, by decide +kernel⟩, by decide +kernel, by decide +kernel, by decide +kernel,
    by decide +kernel, by decide +kernel, by decide +kernel⟩
/-- Channel 1 or 5 with both thresholds of order A's stretch queued, the first of them at P. -/
def thresholds (i : Station) : State :=
  withChannel { printing with wt := { resetTracker with p := 20000100 + 3750000, k := 20000000, map := [segmentA] } } i
    { resetChannel with
      leads := [{ start := 20150100, finish := 20650100, serial := some 1 }]
      points := [{ start := 20000100, finish := 20500100, serial := some 1 }] }
theorem witness_thresholds :
    ((thresholds 0).stationCfg 0).inService = true ∧ ((thresholds 4).stationCfg 4).inService = false ∧
    ((thresholds 0).chan 0).points.head?.map (fun y => y.start + ((thresholds 0).stationCfg 0).distance) =
      some (thresholds 0).wt.p ∧
    ((thresholds 0).chan 0).leads.head?.map (fun y => y.start + ((thresholds 0).stationCfg 0).distance) =
      some ((thresholds 0).wt.p + ((thresholds 0).stationCfg 0).lead) ∧
    (thresholds 0).wt.map[0]? = some segmentA ∧ (ready.chan 0).points = [] ∧ (ready.chan 0).leads = [] := by decide +kernel
theorem witness_commandable : Commandable ready ∧ Commandable printing ∧ Commandable held := by
  unfold Commandable
  decide +kernel
theorem witness_trim : (ready.stationCfg 3).inService = true ∧ (4#5).toNat = (3 : Station).val + 1 ∧
    max (-50000) (min ((ready.phase 3).trim + (0#16).toInt) 50000) = (ready.phase 3).trim ∧
    max (-50000) (min ((ready.phase 3).trim + (1#16).toInt) 50000) ≠ (ready.phase 3).trim := by decide +kernel

/-- Station 1 at P with a settle position, and a reference switch of order A. -/
def switching (settle : Nat) : State :=
  { printing with
    wt.p := 23750000
    pu.switches := [20000000]
    pu.stations := resetPhaseUnit.stations.set 0 { resetPhaseStation with settle := some settle } }
theorem witness_switches :
    ((switching 23750000).phase 0).settle = some 23750000 ∧ 23750000 ≤ (switching 23750000).wt.p ∧
    (switching 23750001).wt.p < 23750001 ∧ ((switching 23750001).phase 0).settle = some 23750001 ∧
    ((switching 0).phase 1).settle = none ∧ 20000000 ∈ (switching 0).pu.switches ∧
    ((switching 0).stationCfg 0).inService = true ∧ 20000000 + ((switching 0).stationCfg 0).distance = (switching 0).wt.p ∧
    ((switching 0).stationCfg 4).inService = false ∧
    (∀ o ∈ (switching 0).pu.switches, o + ((switching 0).stationCfg 1).distance ≠ (switching 0).wt.p) ∧
    (switching 0).wt.p < 20000000 + ((switching 0).stationCfg 1).distance := by decide +kernel

/-- Order A at the Phase Unit, its station 1 in or out of the join set, captured or not, with or without a reported failure. -/
def phasing (join captured reported : Bool) : State :=
  let o : PhaseOrder :=
    { tag := 0x0101#32, origin := 20000000, length := 725000, set := 7#16, key := some 1,
      join := if join then 1#16 else 0#16, captureFails := if reported then 1#16 else 0#16 }
  ({ printing with pu.orders := [o] } : State).setPhase 0 { resetPhaseStation with captured := captured }
theorem witness_errors :
    (∀ b, ((phasing b b b).pu.orders.find? fun o => o.tag == 0x0101#32).isSome = true ∧ ((phasing b b b).phase 0).settle = none ∧
      ((phasing b b b).stationCfg 0).inService = true ∧ ((phasing false b false).phase 0).captured = b) ∧
    ((5000 : Int).natAbs ≤ line.captureLimit ∧ line.captureLimit < (5001 : Int).natAbs) ∧
    ((20 : Int).natAbs ≤ line.deadband ∧ line.deadband < (21 : Int).natAbs) ∧
    max (-(line.maxStep : Int)) (min ((21 * (line.gain : Int)).tdiv 16) line.maxStep) ≠ 0 ∧
    ready.pu.orders.find? (fun o => o.tag == 0x0101#32) = none := by decide +kernel

theorem witness_edge : reading.pins.resetAsserted = false ∧ reading.mr.reader = .opened ∧
    reading.mr.current = some { tag := 0x56#32, index := 4, station := 0 } ∧
    scheduleOf reading 0x56#32 4 = some openWindow ∧ ready.mr.reader ≠ .opened := by decide +kernel

/-- The entry of section 6.8 in an entry state, under a reader in a state, at P; its fabric printed by the set. -/
def windowAt (p : Nat) (x : EntryState) (r : ReaderState) (set : StationSet) : State :=
  { reading with
    wt := { reading.wt with
      p := p, lastCut := 63000000, map := [{ segmentA with length := 500000, pEnd := 63000000, tag := 0x56#32, printed := set }] }
    mr := { reading.mr with
      schedules := [{ openWindow with entries := openWindow.entries.map fun e => { e with state := x } }]
      reader := r } }
theorem witness_windows :
    closingNow (windowAt 71924000 .opened .opened 1#16) = true ∧ closingNow (windowAt 71923999 .opened .opened 1#16) = false ∧
    (openingsHere (windowAt 71916000 .waiting .idle 1#16)).map (fun x => x.2.station) = [0] ∧
    openingsHere (windowAt 71915999 .waiting .idle 1#16) = [] ∧
    (∀ set, (scheduleOf (windowAt 71916000 .waiting .idle set) 0x56#32 4).map (fun x => x.entries.map fun e => e.state) =
      some [.waiting]) ∧
    (recordAt (windowAt 71916000 .waiting .idle 1#16) 62920000).map (fun r => (r.tag, inSet r.printed 0)) =
      some (0x56#32, true) ∧
    (recordAt (windowAt 71916000 .waiting .idle 2#16) 62920000).map (fun r => inSet r.printed 0) = some false ∧
    (windowAt 71916000 .waiting .idle 1#16).mr.reader = .idle ∧
    (windowAt 71916000 .waiting .evaluating 1#16).mr.reader ≠ .idle ∧
    scheduleOf ready 0x56#32 4 = none ∧ keyOf 6#16 = some 1 ∧ keyOf 0#16 = none := by
  refine ⟨?_, ?_, ?_, ?_, fun _ => ?_, ?_, ?_, ?_, ?_, ?_, ?_, ?_⟩ <;> first | rfl | decide +kernel

/-- The build cursor of order A. -/
def cursorA (index : Nat) : Cursor :=
  { tag := 0x0101#32, origin := 20000000, length := 725000, set := 7#16, key := some 0, index := index }
/-- The line at the build point of order A's repeat `index`, with `n` schedules. -/
def building (index n : Nat) : State :=
  { printing with
    wt.p := 20000000 + index * 725000 + 9000000 - 17000
    mr := { resetReader with cursors := [cursorA index], schedules := List.replicate n openWindow } }
theorem witness_builds : line.window + line.correctionRange + 10000 = 17000 ∧
    buildNow (building 1 0) (cursorA 1) = true ∧ buildNow (building 1 0) (cursorA 2) = false ∧
    repeatBegins (building 45 0) (cursorA 45) = true ∧ repeatBegins (building 46 0) (cursorA 46) = false ∧
    buildNow (building 46 0) (cursorA 46) = true ∧
    (building 1 7).mr.schedules.length < 8 ∧ 8 ≤ (building 1 8).mr.schedules.length := by decide +kernel

/-- A reading under evaluation, its mark measured or missed, with a miss count. -/
def evaluating (x : Option Int) (misses : Nat) : State :=
  { reading with clock := 2#32, mr := { resetReader with
      schedules := [{ openWindow with
        entries := openWindow.entries.map fun e => { e with state := .evaluating, measured := x } }]
      reader := .evaluating
      timer := .running 0#32
      current := some { tag := 0x56#32, index := 4, station := 0 }
      misses := Vector.replicate 16 misses } }

theorem witness_evaluation :
    Due (evaluating none 1).mr.timer (line.evaluationTime / 1000) (evaluating none 1).clock ∧
    (evaluating none 1).mr.current = some { tag := 0x56#32, index := 4, station := 0 } ∧
    (scheduleOf (evaluating none 1) 0x56#32 4).bind (fun x => entryOf x 0) =
      some { station := 0, intended := 2920000, predicted := 2920000, opensAt := 71916000, closesAt := 71924000,
             state := .evaluating, measured := none } ∧
    (evaluating none 1).mr.misses.get 0 + 1 < line.missLimit ∧ line.missLimit ≤ (evaluating none 2).mr.misses.get 0 + 1 ∧
    (scheduleOf (evaluating (some 2920150) 2) 0x56#32 4).bind (fun x => (entryOf x 0).bind fun e => e.measured) =
      some 2920150 ∧ ¬Due ready.mr.timer (line.evaluationTime / 1000) ready.clock :=
  ⟨due_at (by decide +kernel), by decide +kernel, by decide +kernel, by decide +kernel, by decide +kernel,
    by decide +kernel, stopped_not_due _ _⟩

theorem witness_missed :
    ((scheduleOf (evaluating none 2) 0x56#32 4).map fun x =>
      (x.entries.map fun e => e.station, (x.origin : Int) + 2920000)) = some ([0], 62920000) ∧
    (∃ x ∈ (openWindow.entries ++ openWindow.entries.map fun e => { e with station := 1, state := .waiting }),
      x.state = .waiting) := by decide +kernel

/-- The repeat found at its key station and one more, the second 260 µm away. -/
def foundRepeat : Schedule :=
  { openWindow with
    tag := 0x0101#32
    entries := openWindow.entries.flatMap fun e =>
      [{ e with state := .found, measured := some 2920150 },
       { e with station := 1, state := .found, measured := some 2920410 }] }

/-- Order A as a PROOF of tolerance 200, on the entry or ended. -/
def proofRecord (ended : Bool) : InFlight :=
  { recordA with order := { orderA with kind := .proof, tolerance := 200 }, ended := ended }
/-- The line with that order in flight. -/
def proving (ended : Bool) : State := { printing with os.table := [proofRecord ended] }

theorem witness_repeats : keyDeviation foundRepeat = some 150 ∧ keyDeviation openWindow = none ∧
    relativeErrors foundRepeat 150 = [(0, 0), (1, 260)] ∧
    ((relativeErrors foundRepeat 150).Pairwise fun a b => a.1 < b.1) ∧
    worstOf (relativeErrors foundRepeat 150) = some (1, 260) ∧
    (∀ b, (proving b).os.table.find? (fun x => x.order.tag == foundRepeat.tag) = some (proofRecord b) ∧
      (proving b).os.table.find? (fun x => x.slot == (proofRecord b).slot) = some (proofRecord b) ∧
      (proofRecord b).order.kind = .proof ∧ (proofRecord b).proofFailure = none ∧
      (proofRecord b).order.tolerance < 260 ∧ lineOpen (proving b) = true ∧ (proving b).os.entry = some (proofRecord b).slot) ∧
    recordA.order.kind ≠ .proof ∧ (proofRecord false).worst < 260 ∧ 0 ≤ (proofRecord false).worst := by
  decide +kernel

theorem witness_curve :
    let page : List (Nat × Nat) := [(1300, 0), (1450, 40)]
    2 ≤ page.length ∧ page.head? = some (1300, 0) ∧ page.getLast? = some (1450, 40) ∧
      page.Pairwise (fun a b => a.1 < b.1 ∧ a.2 ≤ b.2) ∧ page[0]? = some (1300, 0) ∧ page[0 + 1]? = some (1450, 40) ∧
      1300 < 1301 ∧ 1301 < 1450 ∧ ∀ a ∈ page, a.2 ≤ 10000 := by decide
theorem witness_frames : takesEvents ready = true ∧ (4#8).toNat = (3 : Zone).val + 1 ∧
    (4#8).toNat ≤ ready.prof.zones.length ∧ ready.prof.zones.length < (5#8).toNat ∧ takesEvents State.reset = false := by
  decide +kernel
theorem witness_timers : Due (baking.zone 2).timer line.staleLimit 2000#32 ∧
    ¬Due (baking.zone 2).timer line.staleLimit baking.clock ∧
    Due baking.ci.doseTimer (2 ^ line.doseExponent) baking.clock ∧ baking.ci.doseTimer = .running 0#32 ∧
    2 ^ line.doseExponent ≤ (baking.clock - 0#32).toNat ∧ ¬Due baking.ci.doseTimer (2 ^ line.doseExponent) 255#32 ∧
    Due baking.ci.setbackTimer (line.setbackDelay * 1000) 120000#32 ∧
    ¬Due baking.ci.setbackTimer (line.setbackDelay * 1000) baking.clock :=
  ⟨due_at (by decide +kernel), due_not (by rintro x ⟨⟩; decide +kernel), due_at (by decide +kernel), by decide +kernel,
    by decide +kernel, due_not (by rintro x ⟨⟩; decide +kernel), due_at (by decide +kernel),
    due_not (by rintro x ⟨⟩; decide +kernel)⟩
theorem witness_dose :
    (500000 + baking.wt.k ≤ baking.wt.q ∧ baking.wt.q < 500000 + baking.wt.k + baking.prof.ovenLength ∧
      zoneAt baking (baking.wt.q - (500000 + baking.wt.k) + 500000 / 2) = some 2) ∧
    zoneAt baking 36000000 = none ∧ baking.wt.map[0]? = some { segmentA with dose := 19987456, peak := 1612 } := by
  decide +kernel

theorem witness_alerts :
    min (19987456 + cureRate (pageInUse line 2) 1612 * 2 ^ line.doseExponent) 4294967295 = 20025600 ∧
    20000 * 1000 < 20025600 ∧ segmentA.slot = some 0 ∧ baking.ci.alerts.getLsbD 0 = false ∧
    ({ baking with ci.alerts := 1#64 } : State).ci.alerts.getLsbD 0 = true ∧
    (2 ≤ (line.pages.get 2).length ∧ (line.pages.get 0).length < 2) ∧
    zoneAt baking 14000000 = some 2 ∧ zoneAt baking 13999999 = some 1 := by decide +kernel

theorem witness_close_out : ({ leaving with xi.suspended := true } : State).xi.suspended = true ∧ leaving.co.waiting = none ∧
    leaving.wt.map = [{ segmentA with dose := 13388544, peak := 1612 }] ∧
    exited leaving { segmentA with dose := 13388544, peak := 1612 } = true ∧ leaving.xi.suspended = false ∧
    exited { leaving with wt.q := 60499999 } segmentA = false ∧ ready.wt.map = [] := by decide +kernel
/-- Order A's first segment past the oven exit with serial 1, and a second one past it or not, the oven long or short. -/
def leavingTwo (second : Nat) : State :=
  { leaving with wt.map := [segmentA, { segmentA with serial := 2, pEnd := second }] }
theorem witness_exit :
    (leavingTwo 500000).wt.map.head?.map (fun r => r.serial) = some 1 ∧
    exited (leavingTwo 500000) { segmentA with serial := 2, pEnd := 500000 } = true ∧
    exited (leavingTwo 500001) { segmentA with serial := 2, pEnd := 500001 } = false ∧
    (leaving.wt.q : Int) - leaving.wt.k - leaving.prof.ovenLength = 500000 ∧
    ((leaving.wt.q - 500001 : Nat) : Int) - leaving.wt.k - leaving.prof.ovenLength < 0 := by decide +kernel
theorem witness_oven_exit : takesEvents leaving = true ∧ leaving.prof.ovenResolution = leaving.wt.ovenDebt + 100 ∧
    leaving.wt.q + 100 ≤ Config.positionLimit ∧ leaving.co.waiting = none ∧
    ({ leaving with co.waiting := some 1 } : State).co.waiting.isSome = true ∧ leaving.ci.setback = true ∧
    0 ≤ (leaving.wt.q : Int) + 100 - leaving.wt.k - leaving.prof.ovenLength ∧ ready.wt.map = [] ∧ ready.co.waiting = none ∧
    (ready.wt.q : Int) + 100 - ready.wt.k - ready.prof.ovenLength < 0 := by decide +kernel
theorem witness_tally : segmentA.slot = some 0 ∧
    printing.os.table.find? (fun y => y.slot == 0 && y.order.tag == segmentA.tag) = some recordA := by decide +kernel

/-- An open run of order A with REGISTER. -/
def openRun : DefectRun :=
  { slot := some 0, tag := 0x0101#32, firstSerial := 1, count := 2, defects := { register := true } }

theorem witness_runs : ready.co.run = none ∧ openRun.defects.any = true ∧ openRun.slot = segmentA.slot ∧
    openRun.tag = segmentA.tag ∧ ({} : DefectSet).any = false ∧ openRun.defects ≠ { register := true, seam := true } := by
  decide
theorem witness_holds : held.lc.holds.any = true ∧ printing.lc.holds.any = false ∧ held.lc.holds.festoon = false ∧
    held.lc.holds.fault = false ∧ lineOpen held = true ∧ lineOpen State.reset = false ∧
    ¬Due ready.lc.standstill line.standstillTime ready.clock ∧ Due (.running 0#32) line.standstillTime 1500#32 :=
  ⟨by decide +kernel, by decide +kernel, by decide +kernel, by decide +kernel, by decide +kernel, by decide +kernel,
    stopped_not_due _ _, due_at (by decide +kernel)⟩

/-- A faulted line: channel 2 stuck with LIFT_TIMEOUT, its sensor high or low. -/
def stuckLine (up : Bool) : State :=
  withChannel
    { ready with
      pins.upSense := if up then 2#16 else 0#16
      lc := { resetLine with line := .ready, holds := { fault := true }, firstFault := some .stationLift } }
    1 { resetChannel with state := .faulted, reason := some .liftTimeout }

theorem witness_clear_fault : (stuckLine false).lc.holds.any = true ∧
    (∃ i, ((stuckLine false).chan i).state = .faulted ∧ inSet (stuckLine false).pins.upSense i = false ∧
      ((stuckLine false).chan i).reason = some .liftTimeout) ∧
    ¬∃ i, ((stuckLine true).chan i).state = .faulted ∧ inSet (stuckLine true).pins.upSense i = false ∧
      ((stuckLine true).chan i).reason = some .liftTimeout := by decide +kernel
/-- A suspended line, with a fault kept back or not. -/
def suspendedLine (f : Option HeldFault) : State :=
  { stuckLine true with xi := { resetExchange with suspended := true, held := f } }
theorem witness_suspended : (∀ f, (suspendedLine f).xi.suspended = true ∧ (suspendedLine f).xi.held = f) ∧
    (stuckLine true).xi.suspended = false ∧ (stuckLine true).lc.holds = { fault := true } ∧
    (∀ i, ((stuckLine true).chan i).state = .faulted → inSet (stuckLine true).pins.upSense i = true →
      inSet (stuckLine true).pins.downSense i = false) ∧
    ({ (stuckLine false).lc.holds with fault := true } : HoldSet) ≠ {} ∧
    ({ host := true, fault := false } : HoldSet) ≠ {} ∧ ready.lc.holds.any = false ∧ Commandable (stuckLine true) := by
  refine ⟨fun _ => ⟨rfl, rfl⟩, ?_⟩
  unfold Commandable
  decide +kernel
theorem witness_signal : ready.os.status = .empty ∧ ready.xi.suspended = false ∧
    ({ ready with os.status := .held } : State).os.status ≠ .empty := by decide +kernel
theorem witness_abort : printing.lc.line = .printing ∧ entryRecord printing = some recordA ∧
    printing.wt.map.length < 2048 ∧ printing.wt.lastCut ≤ printing.wt.p := by decide +kernel
theorem witness_take : orderA.kind ≠ .halt ∧ ready.cp.seams = [] ∧ waitingReports ready.xi.queue < 48 ∧
    (∀ sch ∈ ready.mr.schedules, sch.tag ≠ orderA.tag) ∧ ready.wt.p < plannedEnd orderA ready.wt.p := by decide +kernel
theorem witness_take_orders : orderA.kind = .print ∧ ({ orderA with kind := .blank } : Order).kind = .blank ∧
    (seamsQueued 3).cp.seams ≠ [] ∧ orderA.kind ≠ .halt ∧ (seamsQueued 3).xi.suspended = false ∧
    buildNow ready (cursorA 0) = false := by decide +kernel
-- R54, R62: a take brings the order's attributes and its marks, PENDING at origin + position × 1000 µm.
theorem test_take_brings_the_marks :
    let t := takeOrder printing { orderA with lift := 2#16, markCount := 2, marks :=
      [{ position := 1000, lift := 4#16, pressure := 3#3 }, { position := 28000, lift := 0#16, pressure := 2#3 }] } true
    (t.cp.lift, t.cp.pressure, t.cp.marks.map fun m => (m.position, m.pressure, m.applied)) =
        (2#16, 4#3, [(21000100, 3#3, false), (48000100, 2#3, false)]) ∧
      t.cp.pending = [{ kind := .zoneMark 0, position := 21000100 }, { kind := .zoneMark 1, position := 48000100 },
        { kind := .orderEnd, position := 53350100 }] := by
  decide +kernel
/-- A HALT with the tag of order A. -/
def haltOrder : Order := { orderA with kind := .halt }
theorem witness_halt : haltOrder.kind = .halt ∧ lineOpen ready = true ∧ ready.xi.suspended = false ∧
    waitingReports ready.xi.queue < 47 ∧ (∀ x ∈ ready.os.table, x.slot ≠ ready.os.next) := by decide +kernel
theorem witness_end : entryRecord ready = none ∧ entryRecord printing = some recordA ∧
    ({ printing with os := { printing.os with status := .settled, copy := some orderA } } : State).os.copy = some orderA ∧
    printing.os.status ≠ .settled := by decide +kernel
theorem witness_starvation :
    ({ printing with os.status := .held } : State).os.status = .held ∧
    ({ printing with os.status := .barred } : State).os.status = .barred ∧ printing.os.status ≠ .held ∧
    printing.os.status ≠ .barred ∧ recordA.order.tail = .runOut ∧ recordA.proofFailure = none ∧
    ({ orderA with tail := .hold } : Order).tail = .hold := by decide +kernel

/-- The words of a slot that spell order A, or with another state or kind word. -/
def slotWords (state kind : Word) : List (Nat × Word) :=
  [(0x1000, state), (0x1004, kind), (0x1008, 0x0101#32), (0x100C, 725000#32), (0x1010, 0x00070028#32), (0x1014, 6#32),
   (0x1018, 0x02040000#32), (0x101C, 12000#32), (0x1020, 20000#32)]

/-- The last access of a stage of a read of slot 0, with the words read before it. -/
def readEnding (t : Transaction) (stage : SlotStage) (offset : Nat) (got : List (Nat × Word)) : InHand :=
  { transaction := t, access := readAt offset, address := wordOfNat offset, rest := [], got := got, stage := stage,
    discarded := false, loseAfterGap := false }

/-- The words read of slot 0 up to the tag's second read. -/
def slotRead : List (Nat × Word) := (0x1000, 1#32) :: (slotWords 1#32 0x00000101#32).reverse

/-- The words of that read, the tag read again. -/
def slotGathered : InHand :=
  gather (accessMemory ready.mem (readEnding (.slotRead 0) .recheck 0x1008 slotRead) (some 0x0101#32))
    (readEnding (.slotRead 0) .recheck 0x1008 slotRead)

/-- The end of that access, the host having put `w` there, in READY. -/
def afterRead (t : Transaction) (stage : SlotStage) (offset : Nat) (got : List (Nat × Word)) (w : Word) : State :=
  after (.memoryAccessDone (some w)) { ready with os.status := .reading, xi.inHand := some (readEnding t stage offset got) }

-- R29, R30, R38: an armed slot goes on to its kind word; the last access takes order A as a late start.
theorem test_armed_slot_goes_on :
    (afterRead (.slotRead 0) .stateWord 0x1000 [] 1#32).xi.inHand.map (fun h => h.stage) = some .kindWord := by
  decide +kernel
theorem test_late_start :
    (afterRead (.slotRead 0) .recheck 0x1008 slotRead 0x0101#32).os.table.map
      (fun r => (r.order, r.late)) = [(orderA, true)] := by decide +kernel
theorem witness_reads :
    (∀ stage ∈ [SlotStage.stateWord, .kindWord, .body, .recheck, .refusing],
      (readEnding (.slotRead 0) stage 0x1000 []).rest = [] ∧ (readEnding (.slotRead 0) stage 0x1000 []).discarded = false ∧
      (readEnding (.slotRead 0) stage 0x1000 []).access.mark = .plain) ∧
    (slotWordAgain slotGathered 0 0 = 1#32 ∧ slotWordAgain slotGathered 0 8 = slotWord slotGathered 0 8 ∧
      (Sys2Proof.Machine.orderOf (slotWord slotGathered 0)).map (fun o => refusalOf ready o) = some none) ∧
    Sys2Proof.Machine.orderOf (wordAt (slotWords 1#32 5#32)) = none ∧
    refusalOf printing orderA = some .tagInUse ∧
    ({ printing with os.copy := some orderA } : State).os.copy = some orderA := by decide +kernel

/-- Order A with the seam queue of section 3.8. -/
theorem witness_seam_end :
    orderA.endCondition = .seam ∧ orderA.kind ≠ .halt ∧ 0 < orderA.length ∧ recordA.seamEnd = none ∧
    seamCounts recordA { position := 30000000, zoneStart := 29600000, zoneEnd := 30600000, opened := false } = true ∧
    seamEndAt recordA 30600000 = 20000000 + 15 * 725000 ∧
    ({ recordA with seamEnd := some (30000000, 30875000) } : InFlight).seamEnd = some (30000000, 30875000) ∧
    recordA.origin ≤ printing.wt.p := by decide +kernel

/-- Order A on the entry at P, its end set by a seam whose zone ended at the boundary 30,875,000 and was just extended. -/
def seamExtended (p : Nat) : State :=
  { printing with
    wt := { resetTracker with p := p, lastCut := 30500000, k := 20000000, q := 10000000 }
    os := { resetSequencer with
      next := 1, entry := some 0, table := [{ recordA with finish := 30875000, seamEnd := some (30000000, 30875000) }] }
    cp.seams := [{ position := 30000000, zoneStart := 29600000, zoneEnd := 31000000, opened := true }] }
-- R40, R41: the extension moves the end before P reaches it, and no longer at it, though the cut is still to come.
theorem test_end_fixed_when_reached :
    (applySeamRule (seamExtended 30874999)).os.table.map (fun r => r.finish) = [31600000] ∧
    (applySeamRule (seamExtended 30875000)).os.table.map (fun r => r.finish) = [30875000] := by decide +kernel
theorem witness_end_fixed : ∀ p ∈ [30874999, 30875000],
    (entryRecord (seamExtended p)).map (fun r => (r.finish, r.ended, r.seamEnd)) =
      some (30875000, false, some (30000000, 30875000)) := by decide +kernel

/-- Order A on the entry at its confirm point, under a next-order status. -/
def confirming (x : NextStatus) (suspended : Bool) : State :=
  { seamExtended 30825000 with
    os := { (seamExtended 30825000).os with status := x }
    xi := { resetExchange with suspended := suspended } }
theorem witness_confirm : confirmHere (confirming .held false) = true ∧ confirmHere (seamExtended 30824999) = false ∧
    confirmHere (seamExtended 30825001) = false ∧
    (∀ x ∈ [NextStatus.held, .empty, .reading, .barred], (confirming x true).os.status = x ∧
      (confirming x true).xi.suspended = true ∧ (confirming x false).xi.suspended = false) := by decide +kernel

-- R31: a read READING at the confirm point settles its copy, also where the end has moved on before it ends.
theorem test_reading_past_the_confirm_point :
    let moved (s : State) : State := { s with os.table := [{ recordA with finish := 53350000 }] }
    let s := confirming .reading false
    ((readValid (moved (atConfirmPoint s)) orderA).os.status, (readValid (moved s) orderA).os.status) = (.settled, .held) ∧
      (startSlotRead (moved (atConfirmPoint s))).os.pastConfirm = false := by decide +kernel

/-- The first word of the results of order A, complete. -/
theorem witness_results : recordA.worstStation ≤ 16 ∧ ((1#32).extractLsb' 0 8).toNat = 1 ∧
    ((1#32).extractLsb' 8 8).toNat = recordA.worstStation ∧ ((1#32).extractLsb' 16 8).toNat = 0 ∧
    ((1#32).extractLsb' 24 8).toNat = 0 ∧ recordA.late = false := by decide +kernel
/-- The line with order A ended and its last fabric at the exit horizon. -/
def closingLine (run : Option DefectRun) : State :=
  { ready with
    os.table := [{ recordA with ended := true }]
    wt.horizon := some 53350000
    co.run := run }
theorem witness_closing : (closingLine none).xi.suspended = false ∧ recordA.closing = false ∧ recordA.finish ≤ 53350000 ∧
    (closingLine none).co.run = none ∧ ready.os.table = [] ∧ ready.wt.horizon = none ∧ ¬recordA.finish ≤ 53349999 := by
  decide +kernel
theorem witness_printed :
    printedNow { printing with wt.p := 62350000 } { recordA with ended := true } = true ∧
    printedNow { printing with wt.p := 62349999 } { recordA with ended := true } = false := by decide +kernel
theorem witness_orders :
    refusalOrder = [.kindUnknown] ++ .tagZero :: (refusalOrder.drop 2) ∧
    (Sys2Proof.Machine.orderOf (fun k => if k = 4 then 0x00010002#32 else 1#32)).map (fun o => o.kind) = some .proof ∧
    (Sys2Proof.Machine.orderOf (fun k => if k = 4 then 3#32 else 1#32)).map (fun o => o.kind) = some .blank ∧
    (Sys2Proof.Machine.orderOf (fun k => if k = 4 then 4#32 else 1#32)).map (fun o => o.kind) = some .halt ∧
    Sys2Proof.Machine.orderOf (fun _ => 0#32) = none := by decide +kernel

theorem witness_outcome : recordA.order.kind = .print ∧ recordA.order.endCondition = .seam ∧ 0 < recordA.order.length ∧
    recordA.finish = plannedEnd recordA.order recordA.origin := by decide +kernel

theorem witness_load : State.reset.pins.resetAsserted = false ∧ State.reset.busy = false ∧ State.reset.lc.line = .unloaded := by
  decide +kernel
theorem witness_unload : ready.lc.line = .ready ∧ ready.xi.suspended = false ∧ ready.co.waiting = none := by decide +kernel
/-- READY with order A in flight and its first segment's close-out waiting, a read of the next order queued. -/
def emptying (suspended : Bool) (queue : List Transaction) : State :=
  { ready with
    wt.map := [segmentA]
    co.waiting := some 1
    os.table := [{ recordA with ended := true }]
    xi := { resetExchange with
      suspended := suspended
      queue := queue
      held := if suspended then some { offset := 0, write := true, clock := 0#32 } else none } }
theorem witness_unload_serves : (emptying false [.slotRead 1]).co.waiting = some 1 ∧
    (emptying false [.slotRead 1]).wt.map = [segmentA] ∧ segmentA.serial = 1 ∧ Commandable (emptying false [.slotRead 1]) ∧
    (emptying true []).xi.suspended = true ∧ SuspensionLaw (emptying true []) ∧ Commandable (emptying true []) := by
  unfold Commandable SuspensionLaw
  decide +kernel
-- R51, R176: the read leaves the queue, the abandonment write holds the command; a suspension makes no write, and it ends.
theorem test_unload_waits :
    let s := after .unload (emptying false [.slotRead 1])
    let t := after .unload (emptying true [])
    (s.busy, s.xi.queue.length, s.events.cmdDone) = (true, 1, false) ∧
      (t.busy, t.xi.queue.length, t.events.cmdDone) = (false, 0, true) := by decide +kernel

/-- The profile block of section 13.2 as (offset, word) pairs; every other word is 0. -/
def profileWords : List (Nat × Word) :=
  ((List.range 32).zip
    [100, 100, 500, 12000, 20000, 8000, 40000, 3000, 400, 600, 1500, 800, 3000, 5000, 20, 0, 6, 50, 9000, 4, 200, 3, 2000, 4, 8,
      2000, 120, 12000, 20000, 1500, 16000, 12000]).map (fun (i, v) => (4 * i, wordOfNat v)) ++
  ((List.range 4).zip [3750, 5000, 6250, 7500]).flatMap (fun (i, d) =>
    [(0x100 + 32 * i, 1#32), (0x104 + 32 * i, wordOfNat d), (0x108 + 32 * i, 150#32), (0x10C + 32 * i, 725000#32),
     (0x114 + 32 * i, 30000#32)]) ++
  ((List.range 8).zip [0, 6000, 6000, 14000, 14000, 26000, 26000, 36000]).map (fun (i, v) => (0x300 + 4 * i, wordOfNat v)) ++
  [(0x400 + 128 * 7, 2#32), (0x404 + 128 * 7, 1200#32), (0x408 + 128 * 7, wordOfNat (1800 + 220 * 65536))]

/-- The last access of a profile read, the words read before it given. -/
def profileEnding (got : List (Nat × Word)) : InHand :=
  { transaction := .profileRead, access := readAt 4092, address := 4092#32, rest := [], got := got, stage := .stateWord,
    discarded := false, loseAfterGap := false }

/-- The line in LOADING at that access. -/
def lastProfileRead (got : List (Nat × Word)) : State :=
  { State.reset with
    lc := { resetLine with line := .loading }
    busy := true
    xi := { resetExchange with inHand := some (profileEnding got) } }

theorem witness_profile_loads : profileFault (fun i => wordAt ((4092, 0#32) :: profileWords) (4 * i)) = none ∧
    (lastProfileRead profileWords).lc.line = .loading ∧ (lastProfileRead profileWords).xi.queue = [] ∧
    readWord (lastProfileRead profileWords).mem 4092 = 0#32 := by decide +kernel
theorem witness_command_word :
    (0x0000E10A#32).toNat = (10#8).toNat + 2 ^ 8 * (1#5).toNat + 2 ^ 13 * (7#3).toNat + 2 ^ 16 * (0#16).toNat := by decide
-- R173, R179: a resolution of 0 fails item 1 at word 0.
theorem witness_profile_fails : profileFault (fun i => wordAt [(4092, 0#32)] (4 * i)) = some (1, 0) := by decide +kernel
theorem test_load_completes : (after (.memoryAccessDone none) (lastProfileRead profileWords)).lc.line = .ready := by
  decide +kernel

theorem witness_registers : ready.pins.resetAsserted = false ∧ State.reset.lc.line = .unloaded ∧ State.reset.busy = false ∧
    (0xFFFE9000#32).toNat % 4096 = 0 ∧ (0xFFFE9000#32).toNat ≤ 0xFFFE9000 ∧ (0xFFFEA000#32).toNat % 4096 = 0 ∧
    0xFFFE9000 < (0xFFFEA000#32).toNat ∧ (1#32).toNat % 4096 ≠ 0 ∧
    ((0#32).extractLsb' 0 16 - ready.xi.retired).toNat ≤ (ready.xi.written - ready.xi.retired).toNat ∧
    (ready.xi.written - ready.xi.retired).toNat < ((1#32).extractLsb' 0 16 - ready.xi.retired).toNat := by decide +kernel
theorem witness_reset_held : (after (.reset .pin) printing).pins.resetAsserted = true ∧
    ResetLaw (after (.reset .pin) printing) := by
  unfold ResetLaw
  decide +kernel
theorem witness_refused : ({ ready with busy := true } : State).busy = true ∧ writesCommand .hold = true ∧
    WellFormed .hold = true ∧ lineOpen State.reset = false ∧ State.reset.lc.line ≠ .ready ∧ ready.lc.line ≠ .unloaded ∧
    ready.lc.line ≠ .printing ∧ 11 ≤ (11#8).toNat ∧ 16 < (17#5).toNat ∧ (5#5).toNat = (4 : Station).val + 1 ∧
    (ready.stationCfg 4).inService = false := by decide +kernel

theorem witness_service : fullRing.xi.inHand = none ∧ fullRing.xi.suspended = false ∧ lineOpen fullRing = true ∧
    fullRing.xi.queue = [.report faultPosting] ∧ ringUsed fullRing.xi = 255 ∧ 0 < fullRing.xi.lost := by decide +kernel

/-- A waiting report with `n` records not retired and `l` reports lost. -/
def waitingReport (n : BitVec 16) (l : Nat) : State :=
  { fullRing with xi := { resetExchange with written := n, lost := l, queue := [.report faultPosting] } }

theorem witness_ring : (ringUsed (waitingReport 255#16 0).xi < 256 ∧ (waitingReport 255#16 0).xi.lost = 0) ∧
    (ringUsed (waitingReport 254#16 1).xi ≤ 254 ∧ 0 < (waitingReport 254#16 1).xi.lost) ∧
    256 ≤ ringUsed (waitingReport 256#16 0).xi := by decide +kernel

/-- A state with one transaction waiting. -/
def waiting (t : Transaction) : State := { ready with xi := { resetExchange with queue := [t] } }

theorem witness_transactions : ∀ t ∈ [Transaction.profileRead, .slotRead 63, .confirmRead 0, .takeWrite 63,
      .closeWrite 0 [1#32] { tag := 1#32, lastSerial := 1, outcome := .complete }, .abandonWrite 0 [1#32],
      .mapWrite 4096 [0#32, 0#32, 0#32, 0#32, 4096#32]],
    (waiting t).xi.queue = [t] ∧ (waiting t).xi.inHand = none ∧ (waiting t).xi.suspended = false := by decide +kernel

/-- A report record in hand at its first write. -/
def recordBegun : State := after .transactionStart (waitingReport 0#16 0)
/-- A report record in hand at its last write. -/
def recordEnding : State := { fullRing with xi.inHand := some { gapEnding with loseAfterGap := false } }

theorem witness_access : recordBegun.xi.inHand.map (fun h => (h.discarded, h.rest.length)) = some (false, 7) ∧
    lineOpen recordBegun = true ∧ MemoryLaw recordBegun ∧
    recordEnding.xi.inHand.map (fun h => (h.rest, h.discarded, h.loseAfterGap)) = some ([], false, false) := by
  unfold MemoryLaw
  decide +kernel
/-- An access of a transaction in hand in UNLOADED, one ms old. -/
def unloading (t : Transaction) : State :=
  { State.reset with
    busy := true
    clock := 1#32
    xi := { resetExchange with timer := .running 0#32, inHand := some { gapEnding with transaction := t, loseAfterGap := false } } }

/-- The last access of a transaction in READY, or in UNLOADED as the last one of an UNLOAD. -/
def ending (t : Transaction) (unloaded : Bool) : State :=
  let s := if unloaded then unloading t else ready
  { s with xi := { s.xi with inHand := some (readEnding t .stateWord 0x1000 []), timer := .running 0#32 } }
theorem witness_last_access :
    ∀ t ∈ [Transaction.mapWrite 1 [0#32], .abandonWrite 0 [1#32], .takeWrite 0, .report faultPosting,
        .closeWrite 0 [1#32] { tag := 0x0101#32, lastSerial := 1, outcome := .complete }],
      ((ending t false).lc.line ≠ .unloaded ∧ (ending t true).lc.line = .unloaded ∧ (ending t true).busy = true ∧
        (ending t true).xi.queue = []) ∧
      ∀ b, (ending t b).xi.inHand.map (fun h => (h.transaction, h.rest, h.discarded, h.access.mark)) =
        some (t, [], false, .plain) := by decide +kernel
-- R166, R176: the last completion of an UNLOAD ends the command.
theorem test_unload_completes :
    let s := after (.memoryAccessDone none) (ending (.abandonWrite 0 [1#32]) true)
    (s.busy, s.events.cmdDone, s.xi.written) = (false, true, 0#16) := by decide +kernel
theorem witness_close_ending :
    (∃ w, gapEnding.access.write = some w) ∧ gapEnding.access.mark = .gapDone ∧ gapEnding.loseAfterGap = true ∧
    ({ gapEnding with discarded := true } : InHand).discarded = true ∧
    (readEnding (.closeWrite 0 [1#32] { tag := 0x0101#32, lastSerial := 1, outcome := .complete }) .stateWord 0x1000 []).access.mark
      = .plain := ⟨⟨_, rfl⟩, rfl, rfl, rfl, rfl⟩
theorem witness_timeout : Due recordBegun.xi.timer 1 1#32 ∧ ¬Due recordBegun.xi.timer 1 recordBegun.clock ∧
    recordBegun.xi.inHand.isSome = true ∧ lineOpen recordBegun = true ∧
    recordBegun.lc.holds.any = false ∧ (lastProfileRead []).lc.line = .loading ∧
    (profileEnding []).access.write = none ∧ ready.xi.inHand = none ∧
    ((unloading (.takeWrite 0)).lc.line = .unloaded ∧ gapEnding.access.write.isSome = true ∧ gapEnding.discarded = false ∧
      gapEnding.stage ≠ .refusing ∧ gapEnding.rest = []) :=
  ⟨due_at (by decide +kernel), due_not (by rintro x ⟨⟩; decide +kernel), by decide +kernel, by decide +kernel,
    by decide +kernel, by decide +kernel, by decide +kernel, by decide +kernel, by decide +kernel⟩

/-- A READY line whose bus fault ends a transaction in hand and two waiting ones. -/
def faulting (t : Transaction) (discarded : Bool) : State :=
  { atClock 1 ready with
    wt.map := [{ segmentA with verdict := some {} }]
    co.waiting := some 1
    os.table := [{ recordA with ended := true, closing := true }]
    xi := { resetExchange with
      timer := .running 0#32
      queue := [.report faultPosting, .mapWrite 1 [0#32]]
      inHand := some { readEnding t .stateWord 0x1000 [] with discarded := discarded } } }
theorem witness_timeout_ends : (∀ t ∈ [Transaction.slotRead 0, .closeWrite 0 [1#32] { tag := 0x0101#32, lastSerial := 1, outcome := .complete },
      .mapWrite 1 [0#32], .report faultPosting],
    (faulting t false).xi.inHand.map (fun h => h.transaction) = some t ∧ (unloading t).lc.line = .unloaded ∧
      (unloading t).xi.inHand.map (fun h => h.transaction) = some t) ∧
    Due (faulting (.slotRead 0) true).xi.timer 1 (faulting (.slotRead 0) true).clock ∧
    Due (unloading (.mapWrite 1 [0#32])).xi.timer 1 (unloading (.mapWrite 1 [0#32])).clock ∧
    lineOpen (faulting (.slotRead 0) true) = true ∧ (faulting (.slotRead 0) false).os.status ≠ .barred :=
  ⟨by decide +kernel, due_at (by decide +kernel), due_at (by decide +kernel), by decide +kernel, by decide +kernel⟩
-- R48, R136, R161: the close is made again, the waiting report counts as lost, and the close-out goes on.
theorem test_timeout_outcomes :
    let t := after .memoryAccessTimeout (faulting (.closeWrite 0 [1#32] { tag := 0x0101#32, lastSerial := 1, outcome := .complete }) false)
    (t.os.table.map (fun r => r.closing), t.events.gap, t.co.waiting, t.wt.map.length) = ([false], true, none, 0) := by
  decide +kernel

/-- A command that answers a next state. -/
theorem witness_next : exec .hold printing = .next (after .hold printing) := rfl
theorem witness_line_laws : LineLaws printing ∧ LineLaws (lastProfileRead profileWords) := by
  unfold LineLaws PermitRule HoldLaw FaultLaw
  decide +kernel
theorem witness_engaged_law : EngagedLaw (withChannel { ready with lc.engaged := true, lc.standstill := .running 0#32 } 15
      { resetChannel with state := .engaged }) ∧ EngagedLaw ready ∧ SuspensionLaw (emptying true []) ∧ SuspensionLaw ready := by
  unfold EngagedLaw SuspensionLaw
  decide +kernel
theorem witness_high_fill : line.highMark ≤ 16000000 ∧ (lastProfileRead []).lc.line = .loading := by decide
theorem witness_laws : FestoonLaw printing ∧ OffsetLaw printing ∧ PositionLaw printing ∧ RingRoom recordBegun ∧
    MemoryLaw printing ∧ ResetLaw printing ∧ EntryLaw printing := by
  unfold FestoonLaw OffsetLaw PositionLaw RingRoom MemoryLaw ResetLaw EntryLaw
  decide +kernel
theorem witness_map_law : MapLaw leaving ∧ CutsAscend leaving.cp ∧ CutAhead leaving := by
  refine ⟨⟨by decide +kernel, ⟨?_, by decide +kernel, by decide +kernel⟩, ?_, by decide +kernel⟩, by unfold CutsAscend; decide +kernel,
    by unfold CutAhead; decide +kernel⟩
  · rintro (_ | k) r h
    · cases h; decide
    · exact absurd h (by simp [leaving, printing])
  · intro r h
    cases List.mem_singleton.mp h
    unfold SegmentLaw
    decide +kernel

end Sys2Proof.Tests
end

section
/-! The encoder counts (R1 to R4): where a count leaves both positions and both debts, and which lines take it. -/

namespace Sys2Proof.Machine

/-! ### Positions and debts -/

/-- What the two encoders move: the position and the debt of each (R1, R2). -/
@[ext] structure Travel where
  p : Nat
  q : Nat
  printDebt : Nat
  ovenDebt : Nat

/-- The positions and debts of a state. -/
def travel (s : State) : Travel :=
  { p := s.wt.p, q := s.wt.q, printDebt := s.wt.printDebt, ovenDebt := s.wt.ovenDebt }

theorem travel_eq_iff {s : State} {x : Travel} :
    travel s = x ↔ s.wt.p = x.p ∧ s.wt.q = x.q ∧ s.wt.printDebt = x.printDebt ∧ s.wt.ovenDebt = x.ovenDebt :=
  Travel.ext_iff

theorem Board.travel {s t : State} (h : Board s t) : travel t = travel s := by
  simp only [Machine.travel, h.p, h.q, h.printDebt, h.ovenDebt]

/-! ### Print advance -/

/-- No threshold that a print position brings moves a position or a debt. -/
theorem advanceOne_travel (s : State) : travel (advanceOne s) = { travel s with p := s.wt.p + 1 } :=
  (meetThresholds_closed board_closed { s with wt.p := s.wt.p + 1, cp := detectorTravel s.cp }).travel

theorem advanceBy_travel (d : Nat) (s : State) : travel (advanceBy d s) = { travel s with p := s.wt.p + d } := by
  induction d generalizing s with
  | zero => rfl
  | succ d ih =>
    obtain ⟨p, -, -, -⟩ := travel_eq_iff.mp (advanceOne_travel s)
    rw [advanceBy, ih, advanceOne_travel, p, Nat.add_right_comm, Nat.add_assoc]

theorem printAdvance_travel (s : State) (d : Nat) : travel (printAdvance s d) = { travel s with p := s.wt.p + d } := by
  have before : Board s (restartStandstill (endUnderrun s)) :=
    (endUnderrun_closed board_calm s).trans (restartStandstill_quiet _).board
  have after (t : State) : Board t (deliverFestoon (driveTargets t)) :=
    (driveTargets_closed board_calm t).trans (deliverFestoon_closed board_calm _)
  rw [printAdvance, (after _).travel, advanceBy_travel, before.travel, before.p]

/-! ### Oven advance -/

/-- Re-anchoring moves K alone, not a position or a debt (R6). -/
theorem reanchor_travel (s : State) : travel (reanchor s) = travel s := by
  unfold reanchor
  split <;> rfl

theorem ovenAdvance_travel (s : State) (d : Nat) : travel (ovenAdvance s d) = { travel s with q := s.wt.q + d } := by
  have after (t : State) : Board t (horizonIfClear (setbackAdvance (deliverFestoon t))) :=
    ((deliverFestoon_closed board_calm t).trans (setbackAdvance_closed board_calm _)).trans
      (horizonIfClear_closed board_calm _)
  rw [ovenAdvance, (after _).travel, reanchor_travel]
  rfl

/-! ### Forward counts -/

/-- The position limit raises a fault and posts a report; the positions and debts stay (R3). -/
theorem reachLimit_travel (s : State) : travel (reachLimit s) = travel s := by
  unfold reachLimit
  split
  · rfl
  · have fault := board_calm.fault { s with wt.limitPosted := true } .trackingLost
    exact (fault.trans (post_quiet _ _).board).travel

theorem reachLimit_ite_travel (c : Prop) [Decidable c] (s : State) :
    travel (if c then reachLimit s else s) = travel s := by
  split
  · exact reachLimit_travel s
  · rfl

theorem printAdvance_ite_travel (s : State) (d : Nat) :
    travel (if d = 0 then s else printAdvance s d) = { travel s with p := s.wt.p + d } := by
  split
  next stays =>
    subst stays
    rfl
  next => exact printAdvance_travel s d

theorem ovenAdvance_ite_travel (s : State) (d : Nat) :
    travel (if d = 0 then s else ovenAdvance s d) = { travel s with q := s.wt.q + d } := by
  split
  next stays =>
    subst stays
    rfl
  next => exact ovenAdvance_travel s d

theorem printForward_travel (s : State) :
    travel (printForward s) = { travel s with
      p := s.wt.p + travelLeft s.wt.p (s.prof.printResolution - s.wt.printDebt)
      printDebt := s.wt.printDebt - s.prof.printResolution } :=
  (reachLimit_ite_travel _ _).trans (printAdvance_ite_travel _ _)

theorem ovenForward_travel (s : State) :
    travel (ovenForward s) = { travel s with
      q := s.wt.q + travelLeft s.wt.q (s.prof.ovenResolution - s.wt.ovenDebt)
      ovenDebt := s.wt.ovenDebt - s.prof.ovenResolution } :=
  (reachLimit_ite_travel _ _).trans (ovenAdvance_ite_travel _ _)

/-- A position within its limit, raised by the travel the limit leaves, is the raised position cut at the limit (R3). -/
theorem add_travelLeft {position : Nat} (h : position ≤ Config.positionLimit) (d : Nat) :
    position + travelLeft position d = min (position + d) Config.positionLimit := by
  unfold travelLeft
  omega

/-! ### Reverse counts -/

/-- REVERSE_LIMIT is a report alone (R2). -/
theorem reportReverse_board (s : State) (x : ReverseStretch) (code excess : Nat) :
    Board s (reportReverse s x code excess) := by
  unfold reportReverse
  exact board_calm.ite (fun _ => (post_quiet s _).board) fun _ => Board.refl s

theorem printReverseCount_travel (s : State) :
    travel (printReverseCount s) =
      { travel s with printDebt := min (s.wt.printDebt + s.prof.printResolution) Config.debtLimit } :=
  (reportReverse_board _ _ _ _).travel

theorem ovenReverseCount_travel (s : State) :
    travel (ovenReverseCount s) =
      { travel s with ovenDebt := min (s.wt.ovenDebt + s.prof.ovenResolution) Config.debtLimit } :=
  (reportReverse_board _ _ _ _).travel

/-! ### Which lines take counts (R4) -/

theorem takesEvents_of_open {s : State} (awake : s.pins.resetAsserted = false)
    (line : s.lc.line = .ready ∨ s.lc.line = .printing) : takesEvents s = true := by
  rcases line with line | line <;> simp [takesEvents, lineOpen, awake, line]

theorem takesEvents_of_closed {s : State} (line : s.lc.line = .unloaded ∨ s.lc.line = .loading) :
    takesEvents s = false := by
  rcases line with line | line <;> simp [takesEvents, lineOpen, line]

theorem exec_printForwardCount (s : State) :
    exec .printForwardCount s = .next (if takesEvents s then printForward s else s) := rfl

theorem exec_ovenForwardCount (s : State) :
    exec .ovenForwardCount s = .next (if takesEvents s then ovenForward s else s) := rfl

theorem exec_reverseCount_print (s : State) :
    exec (.reverseCount .print) s = .next (if takesEvents s then printReverseCount s else s) := rfl

theorem exec_reverseCount_oven (s : State) :
    exec (.reverseCount .oven) s = .next (if takesEvents s then ovenReverseCount s else s) := rfl

/-- A count that is not taken changes nothing (R4). -/
theorem exec_count_discarded {s : State} (h : takesEvents s = false) :
    exec .printForwardCount s = .next s ∧ exec .ovenForwardCount s = .next s ∧
      ∀ e, exec (.reverseCount e) s = .next s := by
  refine ⟨by simp [exec_printForwardCount, h], by simp [exec_ovenForwardCount, h], fun e => ?_⟩
  cases e with
  | print => simp [exec_reverseCount_print, h]
  | oven => simp [exec_reverseCount_oven, h]

/-- Settles O2: a closed line discards its counts, and on an open one each count moves its own position and debt, because no
block that a count drives moves either. -/
theorem countsApplyOnlyInReadyAndPrinting : Obligations.CountsApplyOnlyInReadyAndPrinting := by
  intro s awake law
  obtain ⟨pLimit, qLimit, -, -⟩ := law
  refine ⟨fun closed => exec_count_discarded (takesEvents_of_closed closed), fun opened => ?_⟩
  have takes := takesEvents_of_open awake opened
  obtain ⟨p, -, printDebt, -⟩ := travel_eq_iff.mp (printForward_travel s)
  obtain ⟨-, q, -, ovenDebt⟩ := travel_eq_iff.mp (ovenForward_travel s)
  obtain ⟨pKept, -, printOwed, -⟩ := travel_eq_iff.mp (printReverseCount_travel s)
  obtain ⟨-, qKept, -, ovenOwed⟩ := travel_eq_iff.mp (ovenReverseCount_travel s)
  rw [exec_printForwardCount, exec_ovenForwardCount, exec_reverseCount_print, exec_reverseCount_oven]
  simp only [takes, if_true]
  exact ⟨⟨_, rfl, printDebt, p.trans (add_travelLeft pLimit _)⟩, ⟨_, rfl, ovenDebt, q.trans (add_travelLeft qLimit _)⟩,
    ⟨_, rfl, pKept, printOwed⟩, ⟨_, rfl, qKept, ovenOwed⟩⟩

end Sys2Proof.Machine
end

section
/-! The cure rate (R119): the lookup walks a page to the stretch that holds the temperature, and the law of the curve holds
stretch by stretch. -/

namespace Sys2Proof.Machine

/-- One point stands before another on a curve: T increases and r does not decrease (R119). -/
def CurveRises (a b : Nat × Nat) : Prop := a.1 < b.1 ∧ a.2 ≤ b.2

/-! ### One stretch of a page -/

theorem interpolate_start (a b : Nat × Nat) : interpolate a b a.1 = a.2 := by
  simp [interpolate]

theorem interpolate_ge (a b : Nat × Nat) (t : Nat) : a.2 ≤ interpolate a b t :=
  Nat.le_add_right _ _

/-- Up to the second point the fraction of the way is at most 1, so the rate does not pass the second rate (R119). -/
theorem interpolate_le {a b : Nat × Nat} {t : Nat} (rises : a.2 ≤ b.2) (within : t ≤ b.1) : interpolate a b t ≤ b.2 := by
  have share : (b.2 - a.2) * (t - a.1) / (b.1 - a.1) ≤ b.2 - a.2 :=
    Nat.div_le_of_le_mul (by rw [Nat.mul_comm]; exact Nat.mul_le_mul_right _ (Nat.sub_le_sub_right within _))
  unfold interpolate
  omega

/-! ### The walk along the points -/

theorem rateFrom_cons_of_lt {b : Nat × Nat} {t : Nat} (below : t < b.1) (a : Nat × Nat) (rest : List (Nat × Nat)) :
    rateFrom a (b :: rest) t = interpolate a b t := if_pos below

theorem rateFrom_cons_of_le {b : Nat × Nat} {t : Nat} (reached : b.1 ≤ t) (a : Nat × Nat) (rest : List (Nat × Nat)) :
    rateFrom a (b :: rest) t = rateFrom b rest t := if_neg reached.not_gt

/-- The walk leaves behind every point that the temperature has reached. -/
theorem rateFrom_append {passed : List (Nat × Nat)} {b : Nat × Nat} {t : Nat} (behind : ∀ p ∈ passed, p.1 ≤ t)
    (reached : b.1 ≤ t) (a : Nat × Nat) (rest : List (Nat × Nat)) :
    rateFrom a (passed ++ b :: rest) t = rateFrom b rest t := by
  induction passed generalizing a with
  | nil => exact rateFrom_cons_of_le reached a rest
  | cons p passed ih =>
    obtain ⟨here, further⟩ := List.forall_mem_cons.mp behind
    rw [List.cons_append, rateFrom_cons_of_le here, ih further]

/-- At a point the walk gives the point's own rate, whether it stops there or interpolates over no distance. -/
theorem rateFrom_start {a : Nat × Nat} {rest : List (Nat × Nat)} (rising : (a :: rest).Pairwise CurveRises) :
    rateFrom a rest a.1 = a.2 := by
  cases rest with
  | nil => rfl
  | cons b rest =>
    obtain ⟨later, -⟩ := List.pairwise_cons.mp rising
    rw [rateFrom_cons_of_lt (later b List.mem_cons_self).1, interpolate_start]

/-- The walk never falls below the rate of the point it stands at, nor climbs above every rate that is left. -/
theorem rateFrom_bounds {a : Nat × Nat} {rest : List (Nat × Nat)} (rising : (a :: rest).Pairwise CurveRises) (t : Nat) :
    a.2 ≤ rateFrom a rest t ∧ ∃ b ∈ a :: rest, rateFrom a rest t ≤ b.2 := by
  induction rest generalizing a with
  | nil => exact ⟨le_rfl, a, List.mem_cons_self, le_rfl⟩
  | cons b rest ih =>
    obtain ⟨later, rising⟩ := List.pairwise_cons.mp rising
    have rises : a.2 ≤ b.2 := (later b List.mem_cons_self).2
    rcases Nat.lt_or_ge t b.1 with below | reached
    · rw [rateFrom_cons_of_lt below]
      exact ⟨interpolate_ge a b t, b, by simp, interpolate_le rises below.le⟩
    · obtain ⟨above, c, mem, under⟩ := ih rising
      rw [rateFrom_cons_of_le reached]
      exact ⟨rises.trans above, c, List.mem_cons_of_mem a mem, under⟩

/-! ### The rate of a page -/

/-- Below the first point the rate is clamped (R119). -/
theorem cureRate_cons_of_le {a : Nat × Nat} {t : Nat} (below : t ≤ a.1) (rest : List (Nat × Nat)) :
    cureRate (a :: rest) t = a.2 := if_pos below

theorem cureRate_cons_of_gt {a : Nat × Nat} {t : Nat} (above : a.1 < t) (rest : List (Nat × Nat)) :
    cureRate (a :: rest) t = rateFrom a rest t := if_neg above.not_ge

/-- From a point on, a rising page gives what the walk from that point gives. -/
theorem cureRate_append {passed : List (Nat × Nat)} {a : Nat × Nat} {rest : List (Nat × Nat)} {t : Nat}
    (rising : (passed ++ a :: rest).Pairwise CurveRises) (reached : a.1 ≤ t) :
    cureRate (passed ++ a :: rest) t = rateFrom a rest t := by
  cases passed with
  | nil =>
    rcases reached.eq_or_lt with rfl | above
    · exact (cureRate_cons_of_le le_rfl rest).trans (rateFrom_start rising).symm
    · exact cureRate_cons_of_gt above rest
  | cons p passed =>
    obtain ⟨-, -, ordered⟩ := List.pairwise_append.mp rising
    have behind : ∀ q ∈ p :: passed, q.1 < t := fun q mem => (ordered q mem a List.mem_cons_self).1.trans_le reached
    obtain ⟨here, further⟩ := List.forall_mem_cons.mp behind
    rw [List.cons_append, cureRate_cons_of_gt here, rateFrom_append (fun q mem => (further q mem).le) reached]

theorem cureRate_of_getElem? {page : List (Nat × Nat)} {i : Nat} {a : Nat × Nat} {t : Nat}
    (rising : page.Pairwise CurveRises) (point : page[i]? = some a) (reached : a.1 ≤ t) :
    cureRate page t = rateFrom a (page.drop (i + 1)) t := by
  obtain ⟨inside, rfl⟩ := List.getElem?_eq_some_iff.mp point
  have parts : page.take i ++ page[i] :: page.drop (i + 1) = page := by
    rw [← List.drop_eq_getElem_cons, List.take_append_drop]
  calc cureRate page t = cureRate (page.take i ++ page[i] :: page.drop (i + 1)) t := by rw [parts]
    _ = rateFrom page[i] (page.drop (i + 1)) t := cureRate_append (by rwa [parts]) reached

/-- At a point of the page the rate is the point's (R119). -/
theorem cureRate_at_point {page : List (Nat × Nat)} {i : Nat} {a : Nat × Nat} (rising : page.Pairwise CurveRises)
    (point : page[i]? = some a) : cureRate page a.1 = a.2 := by
  obtain ⟨inside, rfl⟩ := List.getElem?_eq_some_iff.mp point
  have onward : (page[i] :: page.drop (i + 1)).Pairwise CurveRises := by
    rw [← List.drop_eq_getElem_cons]
    exact rising.drop
  rw [cureRate_of_getElem? rising point le_rfl, rateFrom_start onward]

/-- Between two neighbouring points the rate is interpolated (R119). -/
theorem cureRate_between {page : List (Nat × Nat)} {i : Nat} {a b : Nat × Nat} {t : Nat}
    (rising : page.Pairwise CurveRises) (left : page[i]? = some a) (right : page[i + 1]? = some b) (reached : a.1 ≤ t)
    (below : t < b.1) : cureRate page t = interpolate a b t := by
  obtain ⟨inside, rfl⟩ := List.getElem?_eq_some_iff.mp right
  rw [cureRate_of_getElem? rising left reached, List.drop_eq_getElem_cons inside, rateFrom_cons_of_lt below]

/-- From the last point on the rate is clamped (R119). -/
theorem cureRate_of_last_le {page : List (Nat × Nat)} {last : Nat × Nat} {t : Nat} (rising : page.Pairwise CurveRises)
    (ends : page.getLast? = some last) (reached : last.1 ≤ t) : cureRate page t = last.2 := by
  obtain ⟨passed, rfl⟩ := List.getLast?_eq_some_iff.mp ends
  exact cureRate_append rising reached

/-- No rate of a rising page exceeds the last. -/
theorem rate_le_last {page : List (Nat × Nat)} {last b : Nat × Nat} (rising : page.Pairwise CurveRises)
    (ends : page.getLast? = some last) (mem : b ∈ page) : b.2 ≤ last.2 := by
  obtain ⟨passed, rfl⟩ := List.getLast?_eq_some_iff.mp ends
  obtain ⟨-, -, ordered⟩ := List.pairwise_append.mp rising
  rcases List.mem_append.mp mem with before | here
  · exact (ordered b before last List.mem_cons_self).2
  · exact (congrArg Prod.snd (List.mem_singleton.mp here)).le

/-- The law of the curve: the rate lies between the first and the last rate of the page (R119). -/
theorem cureRate_bounds {page : List (Nat × Nat)} {first last : Nat × Nat} (rising : page.Pairwise CurveRises)
    (starts : page.head? = some first) (ends : page.getLast? = some last) (t : Nat) :
    first.2 ≤ cureRate page t ∧ cureRate page t ≤ last.2 := by
  obtain ⟨rest, rfl⟩ := List.head?_eq_some_iff.mp starts
  rcases Nat.lt_or_ge first.1 t with above | below
  · obtain ⟨atLeast, b, mem, under⟩ := rateFrom_bounds rising t
    rw [cureRate_cons_of_gt above]
    exact ⟨atLeast, under.trans (rate_le_last rising ends mem)⟩
  · rw [cureRate_cons_of_le below]
    exact ⟨le_rfl, rate_le_last rising ends List.mem_cons_self⟩

/-- Settles O22: each row of R119's table is where the walk along the page stops, and every stretch stays between the rates
of its two points. -/
theorem cureRateFollowsTheCurve : Obligations.CureRateFollowsTheCurve := by
  intro page first last t _ starts ends rising
  obtain ⟨atLeast, atMost⟩ := cureRate_bounds rising starts ends t
  refine ⟨fun below => ?_, cureRate_of_last_le rising ends, ?_, ?_, atLeast, atMost, fun limited => ?_⟩
  · obtain ⟨rest, rfl⟩ := List.head?_eq_some_iff.mp starts
    exact cureRate_cons_of_le below rest
  · rintro i a point rfl
    exact cureRate_at_point rising point
  · intro i a b left right above below
    exact cureRate_between rising left right above.le below
  · exact atMost.trans (limited last (List.mem_of_getLast? ends))

end Sys2Proof.Machine
end

section
/-! PRINT PERMIT (R148): the permit rule through every change of the line state and of the hold cause set, and the festoon
mark at the completion of a load. -/

namespace Sys2Proof.Machine

/-! ### The permit rule -/

/-- PRINT PERMIT spelled out by line state and hold cause (R148). -/
theorem PermitRule.iff {s : State} (h : PermitRule s) :
    s.lc.permit = true ↔ (s.lc.line = .ready ∨ s.lc.line = .printing) ∧ s.lc.holds.host = false ∧
      s.lc.holds.order = false ∧ s.lc.holds.festoon = false ∧ s.lc.holds.standstill = false ∧ s.lc.holds.fault = false := by
  rw [show s.lc.permit = _ from h]
  simp [lineOpen, HoldSet.any, and_assoc]

theorem PermitRule.off_of_held {s : State} (h : PermitRule s) (stands : s.lc.holds.any = true) : s.lc.permit = false := by
  rw [show s.lc.permit = _ from h, stands, Bool.not_true, Bool.and_false]

theorem permitRule_of_held {s : State} (stands : s.lc.holds.any = true) (off : s.lc.permit = false) : PermitRule s := by
  rw [PermitRule, off, stands, Bool.not_true, Bool.and_false]

theorem PermitRule.congr {s t : State} (same : SameLine s t) (h : PermitRule s) : PermitRule t := by
  have opens : lineOpen t = lineOpen s := by rw [lineOpen, same.line, lineOpen]
  rw [PermitRule, same.permit, same.holds, opens]
  exact h

/-- The rule reads the Line Controller alone. -/
theorem PermitRule.of_lc {s t : State} (lc : t.lc = s.lc) (h : PermitRule s) : PermitRule t := by
  rw [PermitRule, lineOpen, lc]
  exact h

theorem judgePermit_holds (s : State) : (judgePermit s).lc.holds = s.lc.holds := rfl

theorem judgePermit_permitRule (s : State) : PermitRule (judgePermit s) := rfl

theorem setLine_permitRule (s : State) (l : LineState) : PermitRule (setLine s l) := rfl

/-- A hold entry with the cause already in the set removes the permit (R146). -/
theorem holdEntry_permitRule {s : State} (stands : s.lc.holds.any = true) (r : Option FaultReason) :
    PermitRule (holdEntry s r) :=
  permitRule_of_held (by rwa [holdEntry_holds]) (holdEntry_permit s r)

/-! ### Causes raised and cleared -/

/-- Whether or not the set was empty, a cause raised on an open line leaves the permit off (R146, R148). -/
theorem raiseCause_permit {s : State} (h : PermitRule s) (opened : lineOpen s = true) (c : HoldCause)
    (r : Option FaultReason) : (raiseCause s c r).lc.permit = false := by
  unfold raiseCause
  rw [if_neg (by simp [opened])]
  dsimp only
  split
  next stands => cases r <;> exact h.off_of_held stands
  next => exact holdEntry_permit _ r

theorem raiseCause_permitRule {s : State} (h : PermitRule s) (c : HoldCause) (r : Option FaultReason) :
    PermitRule (raiseCause s c r) := by
  by_cases opened : lineOpen s = true
  · refine permitRule_of_held ?_ (raiseCause_permit h opened c r)
    rw [raiseCause_holds s c r opened, HoldSet.join_any, holdOf_any, Bool.or_true]
  · rw [raiseCause, if_pos (by simpa using opened)]
    exact h

theorem HoldSet.minus_any_of_none {a : HoldSet} (none : a.any = false) (b : HoldSet) : (a.minus b).any = false := by
  simp_all [HoldSet.any, HoldSet.minus]

theorem clearCauses_permitRule {s : State} (h : PermitRule s) (cs : HoldSet) : PermitRule (clearCauses s cs) := by
  unfold clearCauses
  dsimp only
  split
  next => exact judgePermit_permitRule _
  next stays =>
    cases stands : s.lc.holds.any with
    | true => exact permitRule_of_held (by simpa [stands] using stays) (h.off_of_held stands)
    | false =>
      rw [PermitRule, HoldSet.minus_any_of_none stands cs, ← stands]
      exact h

theorem clearCauses_line (s : State) (cs : HoldSet) : (clearCauses s cs).lc.line = s.lc.line := by
  unfold clearCauses
  dsimp only
  split
  next => rw [holdExit, judgePermit]; simp
  next => rfl

/-! ### The relations over the blocks -/

/-- `t` meets the permit rule if `s` does. -/
def KeepsPermit (s t : State) : Prop := PermitRule s → PermitRule t

/-- `t` is in the line state of `s`. -/
def KeepsLine (s t : State) : Prop := t.lc.line = s.lc.line

theorem SameLine.keepsPermit {s t : State} (h : SameLine s t) : KeepsPermit s t := PermitRule.congr h

theorem setChan_sameLine (s : State) (i : Station) (c : Channel) : SameLine s (s.setChan i c) := ⟨rfl, rfl, rfl, rfl⟩

theorem setPhase_sameLine (s : State) (i : Station) (p : PhaseStation) : SameLine s (s.setPhase i p) :=
  ⟨rfl, rfl, rfl, rfl⟩

theorem setChan_synced_sameLine (s : State) (i : Station) (c : Channel) : SameLine s (syncEngaged (s.setChan i c)) :=
  (setChan_sameLine s i c).trans (syncEngaged_sameLine _)

theorem keepsPermit_calm : Calm KeepsPermit where
  refl _ := id
  trans a b := b ∘ a
  quiet h := h.sameLine.keepsPermit
  chan s i c _ := (setChan_sameLine s i c).keepsPermit
  lift s i c _ _ := (setChan_synced_sameLine s i c).keepsPermit
  lower s i c _ := (setChan_synced_sameLine s i c).keepsPermit
  engage s i c _ := (setChan_synced_sameLine s i c).keepsPermit
  sync s := (syncEngaged_sameLine s).keepsPermit
  target s i _ _ := (setPhase_sameLine s i _).keepsPermit
  trim s i _ _ _ := (setPhase_sameLine s i _).keepsPermit
  correction s i _ _ _ := (setPhase_sameLine s i _).keepsPermit
  phase s i p _ _ _ _ := (setPhase_sameLine s i p).keepsPermit
  raise _ c _ h := raiseCause_permitRule h c none
  fault _ f h := raiseCause_permitRule h .fault (some f)
  clear _ cs _ h := clearCauses_permitRule h cs

theorem keepsPermit_closed : Closed KeepsPermit where
  toCalm := keepsPermit_calm
  line s l _ _ := setLine_permitRule s l
  enter _ _ := id
  leave _ := id

theorem keepsLine_calm : Calm KeepsLine where
  refl _ := rfl
  trans a b := Eq.trans b a
  quiet h := h.line
  chan s i c _ := (setChan_sameLine s i c).line
  lift s i c _ _ := (setChan_synced_sameLine s i c).line
  lower s i c _ := (setChan_synced_sameLine s i c).line
  engage s i c _ := (setChan_synced_sameLine s i c).line
  sync s := (syncEngaged_sameLine s).line
  target s i _ _ := (setPhase_sameLine s i _).line
  trim s i _ _ _ := (setPhase_sameLine s i _).line
  correction s i _ _ _ := (setPhase_sameLine s i _).line
  phase s i p _ _ _ _ := (setPhase_sameLine s i p).line
  raise s c _ := raiseCause_line s c none
  fault s f := raiseCause_line s .fault (some f)
  clear s cs _ := clearCauses_line s cs

/-! ### Encoder counts -/

theorem advanceOne_keepsPermit (s : State) : KeepsPermit s (advanceOne s) :=
  meetThresholds_closed keepsPermit_closed { s with wt.p := s.wt.p + 1, cp := detectorTravel s.cp }

theorem advanceBy_keepsPermit (d : Nat) (s : State) : KeepsPermit s (advanceBy d s) := by
  induction d generalizing s with
  | zero => exact id
  | succ d ih => exact ih _ ∘ advanceOne_keepsPermit s

theorem printAdvance_keepsPermit (s : State) (d : Nat) : KeepsPermit s (printAdvance s d) := by
  intro h
  have h := endUnderrun_closed keepsPermit_calm s h
  have h := (restartStandstill_quiet _).sameLine.keepsPermit h
  have h := driveTargets_closed keepsPermit_calm _ (advanceBy_keepsPermit d _ h)
  exact deliverFestoon_closed keepsPermit_calm _ h

theorem reanchor_keepsPermit (s : State) : KeepsPermit s (reanchor s) := by
  unfold reanchor
  exact keepsPermit_calm.ite (fun _ => id) fun _ => id

theorem ovenAdvance_keepsPermit (s : State) (d : Nat) : KeepsPermit s (ovenAdvance s d) := by
  intro h
  have h := deliverFestoon_closed keepsPermit_calm _ (reanchor_keepsPermit { s with wt.q := s.wt.q + d } h)
  exact horizonIfClear_closed keepsPermit_calm _ (setbackAdvance_closed keepsPermit_calm _ h)

theorem reachLimit_ite_keepsPermit (c : Prop) [Decidable c] (s : State) : KeepsPermit s (if c then reachLimit s else s) :=
  keepsPermit_calm.ite (fun _ => reachLimit_closed keepsPermit_calm s id) fun _ => id

theorem printAdvance_ite_keepsPermit (d : Nat) (s : State) : KeepsPermit s (if d = 0 then s else printAdvance s d) :=
  keepsPermit_calm.ite (fun _ => id) fun _ => printAdvance_keepsPermit s d

theorem ovenAdvance_ite_keepsPermit (d : Nat) (s : State) : KeepsPermit s (if d = 0 then s else ovenAdvance s d) :=
  keepsPermit_calm.ite (fun _ => id) fun _ => ovenAdvance_keepsPermit s d

theorem printForward_keepsPermit (s : State) : KeepsPermit s (printForward s) := fun h =>
  reachLimit_ite_keepsPermit _ _ (printAdvance_ite_keepsPermit _ _ h)

theorem ovenForward_keepsPermit (s : State) : KeepsPermit s (ovenForward s) := fun h =>
  reachLimit_ite_keepsPermit _ _ (ovenAdvance_ite_keepsPermit _ _ h)

theorem reportReverse_keepsPermit (s : State) (x : ReverseStretch) (code excess : Nat) :
    KeepsPermit s (reportReverse s x code excess) := by
  unfold reportReverse
  exact keepsPermit_calm.ite (fun _ => post_closed keepsPermit_calm s _) fun _ => id

theorem printReverseCount_keepsPermit (s : State) : KeepsPermit s (printReverseCount s) := by
  intro rule
  unfold printReverseCount
  exact reportReverse_keepsPermit _ _ _ _ (rule.of_lc rfl)

theorem ovenReverseCount_keepsPermit (s : State) : KeepsPermit s (ovenReverseCount s) := by
  intro rule
  unfold ovenReverseCount
  exact reportReverse_keepsPermit _ _ _ _ (rule.of_lc rfl)

/-! ### CLEAR_FAULT -/

theorem faultChannel_sameLine (s : State) (i : Station) (r : StationFault) : SameLine s (faultChannel s i r) := by
  unfold faultChannel
  rw [syncEngaged_post]
  exact (setChan_synced_sameLine s i _).trans (post_quiet _ _).sameLine

theorem uncapture_sameLine (s : State) (i : Station) : SameLine s (uncapture s i) := setPhase_sameLine s i _

theorem clearChannel_sameLine (s : State) (i : Station) : SameLine s (clearChannel s i) := by
  have freed (c : Channel) : SameLine s (uncapture (s.setChan i c) i) :=
    (setChan_sameLine s i c).trans (uncapture_sameLine _ i)
  unfold clearChannel
  dsimp only
  split
  next =>
    split
    next => exact (freed _).trans (faultChannel_sameLine _ i _)
    next => exact freed _
  next => exact SameLine.refl s

theorem clearChannels_sameLine (s : State) : SameLine s (clearChannels s) :=
  go stationList s
where
  go (xs : List Station) (s : State) : SameLine s (xs.foldl clearChannel s) := by
    induction xs generalizing s with
    | nil => exact SameLine.refl s
    | cons i rest ih => exact (clearChannel_sameLine s i).trans (ih _)

/-- The close that a suspension held back leaves the line alone (R48, R162). -/
theorem testClose_sameLine (s : State) : SameLine s (testClose s) := by
  unfold testClose
  split
  next r _ =>
    have reported : SameLine s (reportRunOf s r.slot r.order.tag) := by
      unfold reportRunOf reportRun
      split
      next =>
        split
        next => exact (setRun_quiet s none).sameLine.trans (post_quiet _ _).sameLine
        next => exact SameLine.refl s
      next => exact SameLine.refl s
    exact (reported.trans (changeOrder_quiet _ _ _).sameLine).trans (handOver_quiet _ _).sameLine
  next => exact SameLine.refl s

theorem endSuspension_sameLine (s : State) : SameLine s (endSuspension s) := by
  unfold endSuspension
  split
  next =>
    have freed : SameLine s { s with xi.suspended := false, xi.held := none } := ⟨rfl, rfl, rfl, rfl⟩
    dsimp only
    split
    next => exact (freed.trans (postAt_quiet _ _ _).sameLine).trans (testClose_sameLine _)
    next => exact freed.trans (testClose_sameLine _)
  next => exact SameLine.refl s

theorem raiseStuck_permit (s : State) : (raiseStuck s).lc.permit = s.lc.permit := by
  unfold raiseStuck
  split <;> rfl

theorem raiseStuck_line (s : State) : (raiseStuck s).lc.line = s.lc.line := by
  unfold raiseStuck
  split <;> rfl

/-- Step 5 judges the set that the other steps left against the set before them, the permit being that of the set before
(R154). -/
theorem judgeSet_permitRule {s t : State} (h : PermitRule s) (permit : t.lc.permit = s.lc.permit)
    (line : t.lc.line = s.lc.line) : PermitRule (judgeSet s.lc.holds.any t) := by
  unfold judgeSet
  cases before : s.lc.holds.any with
  | true =>
    rw [if_pos rfl]
    split
    next stands => exact permitRule_of_held stands (permit.trans (h.off_of_held before))
    next => exact judgePermit_permitRule _
  | false =>
    rw [if_neg Bool.false_ne_true]
    split
    next stands => exact holdEntry_permitRule stands _
    next empty =>
      rw [PermitRule, permit, show s.lc.permit = _ from h, before, lineOpen, lineOpen, line, eq_false_of_ne_true empty]

/-- CLEAR_FAULT leaves line state and permit to its last step (R154). -/
theorem clearFault_permitRule {s : State} (h : PermitRule s) : PermitRule (clearFault s) := by
  have cleared := clearChannels_sameLine (dropFault s)
  have ended := endSuspension_sameLine (raiseStuck (clearChannels (dropFault s)))
  refine judgeSet_permitRule h ?_ ?_
  · rw [ended.permit, raiseStuck_permit, cleared.permit]
    rfl
  · rw [ended.line, raiseStuck_line, cleared.line]
    rfl

/-! ### The completion of a load -/

theorem driveTarget_lc (s : State) (i : Station) : (driveTarget s i).lc = s.lc := by
  unfold driveTarget
  split <;> rfl

theorem driveTargets_lc (s : State) : (driveTargets s).lc = s.lc :=
  go stationList s
where
  go (xs : List Station) (s : State) : (xs.foldl driveTarget s).lc = s.lc := by
    induction xs generalizing s with
    | nil => rfl
    | cons i rest ih => exact (ih _).trans (driveTarget_lc s i)

theorem takeProfile_lc (s : State) (f : Profile) : (takeProfile s f).lc = resetLine := driveTargets_lc _

theorem takeProfile_prof (s : State) (f : Profile) : (takeProfile s f).prof = f :=
  (driveTargets_closed board_calm _).prof

/-- A completed load starts with the profile's initial fill in the festoon (R20, R175). -/
theorem takeProfile_festoon (s : State) (f : Profile) : festoon (takeProfile s f) = f.festoonFill := by
  have board : Board _ (takeProfile s f) := driveTargets_closed board_calm _
  rw [festoon, board.p, board.q, board.k, board.prof]
  simp [loadedTracker, resetTracker]

/-- The machine at the delivery of the initial fill: in READY, with PROFILE_LOADED posted and no permit judged yet (R175). -/
def filledLine (s : State) (f : Profile) : State :=
  post { takeProfile s f with lc.line := .ready } (loadedReport f)

theorem completeLoad_eq (s : State) (f : Profile) :
    completeLoad s f = endCommand (judgePermit (deliverFestoon (filledLine s f))) := rfl

theorem filledLine_lc (s : State) (f : Profile) : (filledLine s f).lc = { resetLine with line := .ready } := by
  rw [filledLine, post_lc]
  dsimp only
  rw [takeProfile_lc]

theorem filledLine_prof (s : State) (f : Profile) : (filledLine s f).prof = f := by
  rw [filledLine, post_prof, takeProfile_prof]

theorem filledLine_festoon (s : State) (f : Profile) : festoon (filledLine s f) = f.festoonFill := by
  rw [← takeProfile_festoon s f, festoon, filledLine, post_wt, post_prof, festoon]

theorem raiseCause_keeps_festoon {s : State} (stands : s.lc.holds.festoon = true) (c : HoldCause) (r : Option FaultReason) :
    (raiseCause s c r).lc.holds.festoon = true := by
  by_cases opened : lineOpen s = true
  · rw [raiseCause_holds s c r opened, HoldSet.join, stands, Bool.true_or]
  · rw [raiseCause, if_pos (by simpa using opened)]
    exact stands

theorem checkOverfill_keeps_festoon {s : State} (stands : s.lc.holds.festoon = true) :
    (checkOverfill s).lc.holds.festoon = true := by
  have disarmed : ({ s with wt.overfillArmed := false } : State).lc.holds.festoon = true := stands
  unfold checkOverfill raiseFault
  split
  next =>
    split
    next => exact raiseCause_keeps_festoon disarmed _ _
    next => exact stands
  next => exact stands

/-- A festoon content delivered at or above the high mark leaves FESTOON raised (R151). -/
theorem deliverFestoon_raises {s : State} (opened : lineOpen s = true) (clear : s.lc.holds.festoon = false)
    (high : (s.prof.highMark : Int) ≤ festoon s) : (deliverFestoon s).lc.holds.festoon = true := by
  refine checkOverfill_keeps_festoon ?_
  rw [compareMarks, if_neg (by simp [clear]), if_pos high, raiseCause_holds s _ _ opened]
  exact Bool.or_true _

theorem completeLoad_prof (s : State) (f : Profile) : (completeLoad s f).prof = f := by
  rw [completeLoad_eq, endCommand_prof, judgePermit_prof, (deliverFestoon_closed board_calm _).prof, filledLine_prof]

theorem completeLoad_permitRule (s : State) (f : Profile) : PermitRule (completeLoad s f) := by
  rw [completeLoad_eq]
  exact (judgePermit_permitRule _).of_lc (endCommand_lc _)

/-- A high initial fill raises FESTOON, being delivered before the permit is judged (R175). -/
theorem completeLoad_raises {s : State} {f : Profile} (high : f.highMark ≤ f.festoonFill) :
    (completeLoad s f).lc.holds.festoon = true := by
  have opened : lineOpen (filledLine s f) = true := by rw [lineOpen, filledLine_lc]; rfl
  have clear : (filledLine s f).lc.holds.festoon = false := by rw [filledLine_lc]; rfl
  rw [completeLoad_eq, endCommand_lc, judgePermit_holds]
  refine deliverFestoon_raises opened clear ?_
  rw [filledLine_prof, filledLine_festoon]
  exact Int.ofNat_le.mpr high

/-! ### What a command does to the permit -/

/-- The permit rule kept from `s` to `t`, and FESTOON raised where a load completes with a high initial fill. -/
structure JudgesPermit (s t : State) : Prop where
  permit : KeepsPermit s t
  load : s.lc.line = .loading → t.lc.line = .ready → t.prof.highMark ≤ t.prof.festoonFill → t.lc.holds.festoon = true

namespace JudgesPermit

/-- The load half asks nothing of a step that keeps the line state. -/
theorem of_line {s t : State} (permit : KeepsPermit s t) (line : t.lc.line = s.lc.line) : JudgesPermit s t :=
  ⟨permit, fun loading ready _ => by simp [line, loading] at ready⟩

/-- Nor of one that starts from another line state than LOADING. -/
theorem of_not_loading {s t : State} (idle : s.lc.line ≠ .loading) (permit : KeepsPermit s t) : JudgesPermit s t :=
  ⟨permit, fun loading => absurd loading idle⟩

/-- Nor of one that ends in another line state than READY. -/
theorem of_not_ready {s t : State} (rule : PermitRule t) (line : t.lc.line ≠ .ready) : JudgesPermit s t :=
  ⟨fun _ => rule, fun _ ready => absurd ready line⟩

theorem of_sameLine {s t : State} (h : SameLine s t) : JudgesPermit s t := of_line h.keepsPermit h.line

theorem of_quiet {s t : State} (h : Quiet s t) : JudgesPermit s t := of_sameLine h.sameLine

theorem refl (s : State) : JudgesPermit s s := of_sameLine (SameLine.refl s)

/-- Whatever the primitive changes of the blocks reach without a change of the line state. -/
theorem of_calm {s t : State} (h : ∀ R : State → State → Prop, Calm R → R s t) : JudgesPermit s t :=
  of_line (h _ keepsPermit_calm) (h _ keepsLine_calm)

theorem not_loading_of_open {s : State} (opened : lineOpen s = true) : s.lc.line ≠ .loading := by
  intro loading
  simp [lineOpen, loading] at opened

/-- A step on an open line may change the line state, but does not start from LOADING. -/
theorem of_open {s t : State} (opened : lineOpen s = true) (permit : KeepsPermit s t) : JudgesPermit s t :=
  of_not_loading (not_loading_of_open opened) permit

theorem of_takes {s t : State} (takes : takesEvents s = true) (permit : KeepsPermit s t) : JudgesPermit s t :=
  of_open (Bool.and_eq_true_iff.mp takes).2 permit

theorem ite {s a b : State} {c : Prop} [Decidable c] (ha : c → JudgesPermit s a) (hb : ¬c → JudgesPermit s b) :
    JudgesPermit s (if c then a else b) := by
  split
  · exact ha ‹_›
  · exact hb ‹_›

/-- What is done before, without the Line Controller. -/
theorem lc_trans {s t u : State} (lc : t.lc = s.lc) (h : JudgesPermit t u) : JudgesPermit s u :=
  ⟨fun rule => h.permit (rule.of_lc lc), fun loading => h.load (lc ▸ loading)⟩

/-- What is done afterwards, without the Line Controller and the profile. -/
theorem trans_lc {s t u : State} (h : JudgesPermit s t) (lc : u.lc = t.lc) (prof : u.prof = t.prof) : JudgesPermit s u :=
  ⟨fun rule => (h.permit rule).of_lc lc, by rw [lc, prof]; exact h.load⟩

theorem of_lc {s t : State} (lc : t.lc = s.lc) : JudgesPermit s t := lc_trans lc (refl t)

end JudgesPermit

/-! ### Loads -/

theorem rejectLoad_judgesPermit (s t : State) (reason item : Nat) : JudgesPermit s (rejectLoad t reason item) := by
  have lc : (rejectLoad t reason item).lc = (setLine t .unloaded).lc := by rw [rejectLoad, endCommand_lc, post_lc]
  refine .of_not_ready ((setLine_permitRule t .unloaded).of_lc lc) ?_
  rw [lc]
  exact LineState.noConfusion

theorem completeLoad_judgesPermit (s t : State) (f : Profile) : JudgesPermit s (completeLoad t f) where
  permit _ := completeLoad_permitRule t f
  load _ _ high := completeLoad_raises (by rwa [completeLoad_prof] at high)

theorem endProfileRead_judgesPermit (s t : State) (got : List (Nat × Word)) : JudgesPermit s (endProfileRead t got) := by
  unfold endProfileRead
  dsimp only
  split
  next => exact rejectLoad_judgesPermit s t _ _
  next => exact completeLoad_judgesPermit s t _

theorem beginLoad_judgesPermit (s : State) : JudgesPermit s (beginLoad s) := by
  have lc : (beginLoad s).lc = (setLine { s with xi := resetExchange, busy := true } .loading).lc := rfl
  refine .of_not_ready ((setLine_permitRule _ _).of_lc lc) ?_
  rw [lc]
  exact LineState.noConfusion

theorem endUnload_lc (s : State) : (endUnload s).lc = s.lc := by
  unfold endUnload
  split <;> rfl

theorem endUnload_prof (s : State) : (endUnload s).prof = s.prof := by
  unfold endUnload
  split <;> rfl

theorem JudgesPermit.endUnload {s t : State} (h : JudgesPermit s t) : JudgesPermit s (endUnload t) :=
  h.trans_lc (endUnload_lc t) (endUnload_prof t)

theorem closeLine_permitRule (s : State) : PermitRule (closeLine s) := judgePermit_permitRule _

theorem unloadLine_judgesPermit {s : State} (ready : s.lc.line = .ready) : JudgesPermit s (unloadLine s) :=
  JudgesPermit.endUnload (.of_not_loading (by simp [ready]) fun _ => closeLine_permitRule _)

/-! ### The exchange area -/

theorem beginAccess_judgesPermit (s : State) (h : InHand) (a : Access) (rest : List Access) :
    JudgesPermit s (beginAccess s h a rest) := .of_lc rfl

theorem takeInHand_judgesPermit (s : State) (t : Transaction) (lose : Bool) (as : List Access) :
    JudgesPermit s (takeInHand s t lose as) := by
  cases as with
  | nil => exact .refl s
  | cons a rest => exact beginAccess_judgesPermit s _ a rest

theorem serveReport_judgesPermit (s : State) (p : Posting) : JudgesPermit s (serveReport s p) :=
  .ite (fun _ => .of_quiet (loseReport_quiet s)) fun _ =>
    .ite (fun _ => takeInHand_judgesPermit s _ _ _) fun _ =>
      .ite (fun _ => takeInHand_judgesPermit s _ _ _) fun _ => takeInHand_judgesPermit s _ _ _

theorem serve_judgesPermit (s : State) (t : Transaction) : JudgesPermit s (serve s t) := by
  unfold serve
  split
  case h_8 p => exact serveReport_judgesPermit s p
  all_goals exact takeInHand_judgesPermit s _ _ _

theorem startTransaction_judgesPermit (s : State) : JudgesPermit s (startTransaction s) := by
  unfold startTransaction
  refine .ite (fun _ => .refl s) fun _ => ?_
  split
  next => exact .refl s
  next t rest _ =>
    have taken : ({ s with xi.queue := rest } : State).lc = s.lc := rfl
    exact ((serve_judgesPermit _ t).lc_trans taken).endUnload

/-- A slot read that ends valid opens the line only where it is open (R30). -/
theorem readValid_judgesPermit (s : State) (o : Order) : JudgesPermit s (readValid s o) := by
  by_cases opened : lineOpen s = true
  · exact .of_open opened (readValid_closed keepsPermit_closed s o)
  · have same : readValid s o = s := by
      unfold readValid
      cases line : s.lc.line <;> simp [lineOpen, line] at opened ⊢
    rw [same]
    exact .refl s

/-- The same of a confirm read (R31). -/
theorem confirmUnchanged_judgesPermit (s : State) : JudgesPermit s (confirmUnchanged s) := by
  by_cases opened : lineOpen s = true
  · exact .of_open opened (confirmUnchanged_closed keepsPermit_closed s)
  · have same : confirmUnchanged s = s := by
      unfold confirmUnchanged
      cases line : s.lc.line <;> simp [lineOpen, line] at opened ⊢
    rw [same]
    exact .refl s

theorem endConfirmRead_judgesPermit (s : State) (h : InHand) (slot : Slot) : JudgesPermit s (endConfirmRead s h slot) := by
  unfold endConfirmRead
  split
  next => exact .ite (fun _ => confirmUnchanged_judgesPermit s) fun _ => .of_quiet (confirmChanged_quiet s)
  next => exact .of_quiet (confirmChanged_quiet s)

theorem slotReadNext_judgesPermit (s : State) (h : InHand) (slot : Slot) : JudgesPermit s (slotReadNext s h slot) := by
  have freed : JudgesPermit s (readEmpty (freePort s)) := .of_lc rfl
  unfold slotReadNext
  split
  case h_1 => exact .ite (fun _ => freed) fun _ => beginAccess_judgesPermit s _ _ _
  case h_2 =>
    split
    next => exact beginAccess_judgesPermit s _ _ _
    next => exact freed
  case h_3 => exact beginAccess_judgesPermit s _ _ _
  case h_4 =>
    refine .ite (fun _ => freed) fun _ => ?_
    split
    next o _ => exact (readValid_judgesPermit (freePort s) o).lc_trans (freePort_lc s)
    next => exact .of_lc rfl
  case h_5 => exact (JudgesPermit.of_quiet (post_quiet (freePort s) _)).lc_trans (freePort_lc s)

theorem accessesDone_judgesPermit (s : State) (h : InHand) : JudgesPermit s (accessesDone s h) := by
  have freed : JudgesPermit s (freePort s) := .of_lc rfl
  unfold accessesDone
  split
  case h_1 => exact .ite (fun _ => endProfileRead_judgesPermit s _ _) fun _ => freed
  case h_2 slot _ => exact slotReadNext_judgesPermit s h slot
  case h_3 slot _ => exact (endConfirmRead_judgesPermit (freePort s) h slot).lc_trans (freePort_lc s)
  case h_4 => exact freed
  case h_5 slot _ report _ =>
    exact (JudgesPermit.of_calm fun _ C => endClose_closed C (freePort s) slot report).lc_trans (freePort_lc s)
  case h_6 => exact freed
  case h_7 serial _ _ =>
    exact (JudgesPermit.of_calm fun _ C => finishExit_closed C (freePort s) serial).lc_trans (freePort_lc s)
  case h_8 =>
    have lost := (JudgesPermit.of_quiet (loseReport_quiet (freePort s))).lc_trans (freePort_lc s)
    exact .ite (fun _ => lost) fun _ => freed

theorem nextAccess_judgesPermit (s : State) (h : InHand) : JudgesPermit s (nextAccess s h) := by
  unfold nextAccess
  refine .ite (fun _ => .of_lc rfl) fun _ => ?_
  split
  next => exact .of_lc rfl
  next => exact accessesDone_judgesPermit s h

theorem markWrite_lc (s : State) (m : AccessMark) : (markWrite s m).lc = s.lc := by cases m <;> rfl

theorem completeAccess_judgesPermit (s : State) (host : Option Word) : JudgesPermit s (completeAccess s host) := by
  unfold completeAccess
  split
  next => exact .refl s
  next h _ =>
    let written : State := { s with mem := accessMemory s.mem h host, xi.timer := .stopped }
    have marked : (markWrite written h.access.mark).lc = s.lc := markWrite_lc written h.access.mark
    exact ((nextAccess_judgesPermit _ _).lc_trans marked).endUnload

theorem dropCopy_quiet (s : State) : Quiet s (dropCopy s) := by constructor <;> first | rfl | exact id

theorem endedByFault_closed {R : State → State → Prop} (C : Calm R) (s : State) (t : Transaction) : R s (endedByFault s t) := by
  cases t with
  | profileRead | takeWrite | abandonWrite => exact C.refl s
  | slotRead | confirmRead => exact C.quiet (dropCopy_quiet s)
  | closeWrite slot => exact C.quiet (changeOrder_quiet s slot _)
  | mapWrite serial => exact finishExit_closed C s serial
  | report => exact C.quiet (loseReport_quiet s)

theorem handEndedByFault_closed {R : State → State → Prop} (C : Calm R) (s : State) (h : InHand) :
    R s (handEndedByFault s h) := by
  unfold handEndedByFault
  exact C.ite (fun _ => C.refl s) fun _ => endedByFault_closed C s h.transaction

theorem busFault_keepsPermit (s : State) (h : InHand) : KeepsPermit s (busFault s h) := by
  intro rule
  have ended := keepsPermit_calm.foldl (endedByFault_closed keepsPermit_calm) s.xi.queue
  exact keepsPermit_calm.fault _ _ (ended _ (handEndedByFault_closed keepsPermit_calm _ h (rule.of_lc rfl)))

theorem lostAccess_lc (s : State) (h : InHand) : (lostAccess s h).lc = s.lc := by
  unfold lostAccess
  split <;> rfl

theorem loseAccess_judgesPermit (s : State) (h : InHand) : JudgesPermit s (loseAccess s h) := by
  have lc : (freePort (lostAccess s h)).lc = s.lc := lostAccess_lc s h
  have faulted (opened : lineOpen s = true) : JudgesPermit s (busFault (freePort (lostAccess s h)) h) :=
    .of_open opened fun rule => busFault_keepsPermit _ h (rule.of_lc lc)
  unfold loseAccess
  dsimp only
  split
  next line => exact faulted (by simp [lineOpen, line])
  next line => exact faulted (by simp [lineOpen, line])
  next => exact rejectLoad_judgesPermit s _ _ _
  next => exact ((JudgesPermit.of_calm fun _ C => handEndedByFault_closed C _ h).lc_trans lc).endUnload

theorem timeOutAccess_judgesPermit (s : State) : JudgesPermit s (timeOutAccess s) := by
  unfold timeOutAccess
  split
  next => exact .refl s
  next h _ => exact .ite (fun _ => loseAccess_judgesPermit s h) fun _ => .refl s

/-! ### The commands -/

/-- A command of the host: without its effect it is no change of the line (R170, R171). -/
theorem judgeCommand_judgesPermit {s : State} {allowed : Bool} {effect : State → State}
    (h : allowed = true → JudgesPermit s (effect s)) : JudgesPermit s (judgeCommand s allowed effect) := by
  unfold judgeCommand
  refine .ite (fun _ => .refl s) fun _ => .ite (fun _ => .of_lc rfl) fun accepted => h ?_
  simp only [Bool.or_eq_true, not_or, Bool.not_eq_true, Bool.not_eq_false'] at accepted
  exact accepted.2

theorem JudgesPermit.done {s t : State} (h : JudgesPermit s t) : JudgesPermit s (doneCommand t) :=
  h.trans_lc (doneCommand_lc t) (doneCommand_prof t)

theorem seamChange_judgesPermit (s : State) (level : Bool) : JudgesPermit s (seamChange s level) := by
  have seen : (setSeamPin s level).lc = s.lc := rfl
  exact .ite (fun _ => .refl s) fun _ =>
    .ite (fun _ => (JudgesPermit.of_quiet (judgeSeamLevel_quiet _ level)).lc_trans seen) fun _ => .of_lc seen

theorem setSensor_lc (s : State) (i : Station) (k : Sensor) (b : Bool) : (setSensor s i k b).lc = s.lc := by cases k <;> rfl

theorem setSensor_judgesPermit (s : State) (i : Station) (k : Sensor) (b : Bool) : JudgesPermit s (setSensor s i k b) :=
  .of_lc (setSensor_lc s i k b)

theorem sensorChange_judgesPermit (s : State) (i : Station) (k : Sensor) (b : Bool) : JudgesPermit s (sensorChange s i k b) :=
  .ite (fun _ => .refl s) fun _ =>
    (JudgesPermit.of_calm fun _ C => judgeSensor_closed C _ i k b).lc_trans (setSensor_lc s i k b)

theorem validFrame_judgesPermit (s : State) (z : Zone) (sample : Nat) : JudgesPermit s (validFrame s z sample) := by
  have stored (x : ZoneState) : (s.setZone z x).lc = s.lc := rfl
  exact .ite (fun _ => .of_lc (stored _)) fun _ =>
    (JudgesPermit.of_quiet (post_quiet _ _)).lc_trans (stored _)

theorem postStale_judgesPermit (s : State) (z : Zone) (x : ZoneState) (reason : Nat) :
    JudgesPermit s (postStale (s.setZone z x) z reason) := by
  have stored : (s.setZone z x).lc = s.lc := rfl
  exact (JudgesPermit.of_quiet (post_quiet _ _)).lc_trans stored

theorem takeFrame_judgesPermit (s : State) (zone : BitVec 8) (load : FrameLoad) : JudgesPermit s (takeFrame s zone load) := by
  unfold takeFrame
  split
  next z t _ => exact validFrame_judgesPermit s z t.toNat
  next z _ => exact .ite (fun _ => postStale_judgesPermit s z _ 1) fun _ => .refl s
  next => exact .refl s

theorem trimBy_judgesPermit (s : State) (target : Option Station) (delta : Int) : JudgesPermit s (trimBy s target delta) := by
  cases target with
  | none => exact .refl s
  | some i =>
    have within := clampTo_bounds Config.trimLimit ((s.phase i).trim + delta) (by decide)
    exact .of_calm fun _ C => storeTrim_closed C s i _ within.1 within.2

/-- Every command judges the permit (R148). -/
theorem exec_judgesPermit {c : Instr} {s t : State} (step : exec c s = .next t) : JudgesPermit s t := by
  cases c
  case commandCodeUndefined code =>
    change (if codeNamesCommand code then _ else _) = _ at step
    split at step
    next => exact nomatch step
    next =>
      obtain rfl := Host.Outcome.next.inj step
      exact judgeCommand_judgesPermit nofun
  all_goals obtain rfl := Host.Outcome.next.inj step
  case printForwardCount => exact .ite (fun takes => .of_takes takes (printForward_keepsPermit s)) fun _ => .refl s
  case ovenForwardCount => exact .ite (fun takes => .of_takes takes (ovenForward_keepsPermit s)) fun _ => .refl s
  case reverseCount e =>
    refine .ite (fun takes => ?_) fun _ => .refl s
    cases e with
    | print => exact .of_takes takes (printReverseCount_keepsPermit s)
    | oven => exact .of_takes takes (ovenReverseCount_keepsPermit s)
  case seamLevelChange level => exact seamChange_judgesPermit s level
  case stationSensorChange i k b =>
    exact .ite (fun _ => setSensor_judgesPermit s i k b) fun _ => sensorChange_judgesPermit s i k b
  case markEdge => exact .ite (fun _ => .refl s) fun _ => .of_calm fun _ C => readEdge_closed C s
  case zoneFrame zone load => exact .ite (fun _ => takeFrame_judgesPermit s zone load) fun _ => .refl s
  case reset => exact .of_not_ready rfl LineState.noConfusion
  case resetRelease => exact .ite (fun _ => .of_lc rfl) fun _ => .refl s
  case actuationTimerExpiry i => exact .of_calm fun _ C => actuationExpiry_closed C s i
  case evaluationTimerExpiry => exact .of_calm fun _ C => evaluationExpiry_closed C s
  case doseIntervalExpiry => exact .of_calm fun _ C => doseExpiry_closed C s
  case setbackTimerExpiry => exact .of_calm fun _ C => setbackExpiry_closed C s
  case standstillTimerExpiry => exact .of_calm fun _ C => standstillExpiry_closed C s
  case staleTimerExpiry z => exact .ite (fun _ => postStale_judgesPermit s z _ 0) fun _ => .refl s
  case memoryAccessTimeout => exact timeOutAccess_judgesPermit s
  case memoryAccessDone host => exact completeAccess_judgesPermit s host
  case transactionStart => exact startTransaction_judgesPermit s
  case closeOut => exact .of_calm fun _ C => startExit_closed C s
  case loadProfile => exact judgeCommand_judgesPermit fun _ => beginLoad_judgesPermit s
  case unload => exact judgeCommand_judgesPermit fun ready => unloadLine_judgesPermit (beq_iff_eq.mp ready)
  case signal =>
    exact judgeCommand_judgesPermit fun _ =>
      (JudgesPermit.ite (fun _ => .of_quiet (startSlotRead_quiet s)) fun _ => .refl s).done
  case hold => exact judgeCommand_judgesPermit fun _ => (JudgesPermit.of_calm fun _ C => C.raise s .host nofun).done
  case resume => exact judgeCommand_judgesPermit fun _ => (JudgesPermit.of_calm fun _ C => C.clear s resumeCauses rfl).done
  case abortOrder =>
    refine judgeCommand_judgesPermit fun printing => ?_
    have opened : lineOpen s = true := by simp [lineOpen, beq_iff_eq.mp printing]
    exact (JudgesPermit.of_open opened (abortEntry_closed keepsPermit_closed s)).done
  case clearFault => exact judgeCommand_judgesPermit fun opened => (JudgesPermit.of_open opened clearFault_permitRule).done
  case liftSet set =>
    exact judgeCommand_judgesPermit fun _ => (JudgesPermit.of_calm fun _ C => setManual_closed C s set true).done
  case liftClear set =>
    exact judgeCommand_judgesPermit fun _ => (JudgesPermit.of_calm fun _ C => setManual_closed C s set false).done
  case trim st delta => exact judgeCommand_judgesPermit fun _ => (trimBy_judgesPermit s _ _).done
  case exbaseWrite => exact .ite (fun _ => .refl s) fun _ => .ite (fun _ => .of_lc rfl) fun _ => .of_lc rfl
  case retireWrite => exact .ite (fun _ => .refl s) fun _ => .ite (fun _ => .of_lc rfl) fun _ => .of_lc rfl
  case eventsRead => exact .of_lc rfl
  case registerWriteIgnored => exact .ite (fun _ => .refl s) fun _ => .of_lc rfl

/-- Settles O55: the permit rule is kept by every primitive change of the blocks and judged afresh at each change of the line
state, and only the completion of a load, which delivers the initial fill first, leads from LOADING to READY. -/
theorem permitIsJudgedAtEveryEvent : Obligations.PermitIsJudgedAtEveryEvent := by
  intro c s t step laws
  obtain ⟨rule, -, -⟩ := laws
  have judged := exec_judgesPermit step
  have ruleAfter : PermitRule t := judged.permit rule
  refine ⟨ruleAfter.iff, fun loading ready high => ?_⟩
  have raised : t.lc.holds.festoon = true := judged.load loading ready high
  exact ⟨raised, ruleAfter.off_of_held (by simp [HoldSet.any, raised])⟩

end Sys2Proof.Machine
end

section
/-! The register window and COMMAND (R165 to R171): what a write does by the RESET pin, and what the registers show under it. -/

namespace Sys2Proof.Machine

/-! ### Writes -/

theorem exec_exbaseWrite (v : Word) (s : State) :
    exec (.exbaseWrite v) s =
      .next (if s.pins.resetAsserted then s
        else if s.lc.line == .unloaded && !s.busy && exbaseValid v then { s with exbase := v }
        else ignoreWrite s) := rfl

theorem exec_retireWrite (v : Word) (s : State) :
    exec (.retireWrite v) s =
      .next (if s.pins.resetAsserted then s
        else if retireAccepted s (v.extractLsb' 0 16) then { s with xi.retired := v.extractLsb' 0 16 }
        else ignoreWrite s) := rfl

theorem exec_registerWriteIgnored (r : ReadOnlyReg) (v : Word) (s : State) :
    exec (.registerWriteIgnored r v) s = .next (if s.pins.resetAsserted then s else ignoreWrite s) := rfl

theorem exec_eventsRead (s : State) :
    exec .eventsRead s = .next { s with busRead := s.events.word, events := {} } := rfl

/-- Outside READY and PRINTING no retire count is accepted (R165). -/
theorem retireAccepted_of_closed {s : State} (line : s.lc.line = .unloaded ∨ s.lc.line = .loading) (h : BitVec 16) :
    retireAccepted s h = false := by
  rcases line with line | line <;> simp [retireAccepted, lineOpen, line]

/-- Every write to COMMAND is judged for acceptance before it has an effect (R171). -/
theorem exec_of_writesCommand {x : Instr} (command : writesCommand x = true) (wf : WellFormed x = true) (s : State) :
    ∃ (allowed : Bool) (effect : State → State), exec x s = .next (judgeCommand s allowed effect) := by
  cases x with
  | commandCodeUndefined code =>
    have unnamed : codeNamesCommand code = false := by simpa [WellFormed] using wf
    exact ⟨false, id, if_neg (by simp [unnamed])⟩
  | loadProfile | unload | signal | hold | resume | abortOrder | clearFault | liftSet | liftClear | trim =>
    exact ⟨_, _, rfl⟩
  | _ => cases command

/-! ### Under the RESET pin -/

section
variable {s : State} (asserted : s.pins.resetAsserted = true)
include asserted

theorem judgeCommand_of_reset (allowed : Bool) (effect : State → State) : judgeCommand s allowed effect = s :=
  if_pos asserted

theorem exec_command_of_reset {x : Instr} (command : writesCommand x = true) (wf : WellFormed x = true) :
    exec x s = .next s := by
  obtain ⟨allowed, effect, judged⟩ := exec_of_writesCommand command wf s
  rw [judged, judgeCommand_of_reset asserted]

/-- Neither a register write nor a command has an effect under the RESET pin (R170). -/
theorem exec_write_of_reset {x : Instr} {r : ReadOnlyReg} {v : Word} (wf : WellFormed x = true)
    (writes : x = .registerWriteIgnored r v ∨ x = .exbaseWrite v ∨ x = .retireWrite v ∨ writesCommand x = true) :
    exec x s = .next s := by
  rcases writes with rfl | rfl | rfl | command
  · rw [exec_registerWriteIgnored, if_pos asserted]
  · rw [exec_exbaseWrite, if_pos asserted]
  · rw [exec_retireWrite, if_pos asserted]
  · exact exec_command_of_reset asserted command wf

variable (law : ResetLaw s)
include law

theorem statusWord_of_reset : statusWord s = 0x4040#32 :=
  calc statusWord s = statusWord _ := congrArg statusWord (law asserted)
    _ = statusWord State.reset := rfl
    _ = 0x4040#32 := by decide

theorem exbaseWord_of_reset : exbaseWord s = 0#32 := congrArg exbaseWord (law asserted)

theorem retireWord_of_reset : retireWord s = 0#32 := congrArg retireWord (law asserted)

theorem events_of_reset : s.events = {} := congrArg State.events (law asserted)

theorem events_word_of_reset : s.events.word = 0#32 := by
  rw [events_of_reset asserted law]
  rfl

theorem busRead_of_reset : s.busRead = 0#32 := congrArg State.busRead (law asserted)

/-- A read of EVENTS finds no cause to clear, and the bus word is the reset value already. -/
theorem exec_eventsRead_of_reset : exec .eventsRead s = .next s := by
  rw [exec_eventsRead, events_word_of_reset asserted law, ← busRead_of_reset asserted law, ← events_of_reset asserted law]

end

/-- Settles O47: without RESET a read-only register ignores its write, as does RETIRE with the line closed; under the RESET pin
the reset law gives each register's word, and no write passes the pin. -/
theorem registerReadsAndIgnoredWrites : Obligations.RegisterReadsAndIgnoredWrites := by
  intro s r v
  refine ⟨fun awake => ?_, rfl, rfl, fun awake line => ?_, fun asserted law => ?_⟩
  · rw [exec_registerWriteIgnored, awake]
    rfl
  · rw [exec_retireWrite, awake, retireAccepted_of_closed line]
    rfl
  · exact ⟨exbaseWord_of_reset asserted law, rfl, retireWord_of_reset asserted law, statusWord_of_reset asserted law,
      events_word_of_reset asserted law, exec_eventsRead_of_reset asserted law,
      fun _ writes wf => exec_write_of_reset asserted wf writes⟩

end Sys2Proof.Machine
end

section
/-! What a command can do, once for every law: the primitive changes of the blocks, the takes and starvations of the Order
Sequencer taken whole, and the changes that only a command itself makes. -/

namespace Sys2Proof.Machine

variable {R : State → State → Prop}

/-! ### Takes and starvations taken whole -/

/-- A relation that holds over the primitive changes of the blocks, over a starvation and over a take. -/
structure Orderly (R : State → State → Prop) : Prop extends Calm R where
  starve : ∀ s r, R s (starve s r)
  take : ∀ s o late, R s (takeOrder s o late)

theorem Closed.orderly (C : Closed R) : Orderly R where
  toCalm := C.toCalm
  starve := starve_closed C
  take := takeOrder_closed C

theorem lateStart_orderly (C : Orderly R) (s : State) (o : Order) : R s (lateStart s o) :=
  C.ite (fun _ => C.take s o true) fun _ => C.trans (closeStretch_closed C.toCalm s) (C.take _ o true)

theorem reachEnd_orderly (C : Orderly R) (s : State) : R s (reachEnd s) := by
  unfold reachEnd
  split
  next => exact C.refl s
  next r _ =>
    have ended : R s { changeOrder s r.slot (fun x => { x with ended := true }) with cp := withdrawOrder s.cp } :=
      C.trans (C.quiet (changeOrder_quiet s _ _)) (C.quiet (setPlanner_quiet _ _ (withdrawOrder_ascends _)))
    dsimp only
    split
    next => exact C.trans ended (C.take _ _ _)
    next => exact C.trans ended (C.starve _ _)

theorem readValid_orderly (C : Orderly R) (s : State) (o : Order) : R s (readValid s o) := by
  unfold readValid
  split
  next => exact C.quiet (by constructor <;> first | rfl | exact id)
  next => exact lateStart_orderly C s o
  all_goals exact C.refl s

theorem confirmUnchanged_orderly (C : Orderly R) (s : State) : R s (confirmUnchanged s) := by
  unfold confirmUnchanged
  split
  next => exact C.quiet (by constructor <;> first | rfl | exact id)
  next => exact lateStart_orderly C s _
  next => exact C.refl s

theorem cutEffect_orderly (C : Orderly R) (s : State) (e : CutEntry) : R s (cutEffect s e) := by
  unfold cutEffect
  split
  next => exact reachEnd_orderly C s
  next => exact C.quiet (setPlanner_quiet _ _ (applyMark_ascends _ _))
  next => exact C.quiet (setPlanner_quiet _ (openSeam s.cp _) id)
  next => exact C.quiet (setPlanner_quiet _ (closeSeam s.cp _) id)

theorem meetCut_orderly (C : Orderly R) (s : State) : R s (meetCut s) := by
  unfold meetCut
  refine C.ite (fun _ => C.refl s) fun _ => C.trans ?_ (C.foldl (cutEffect_orderly C) _ _)
  exact C.trans (closeStretch_closed C.toCalm s) (C.quiet (setPlanner_quiet _ _ fun h => h.filter _))

theorem act_orderly (C : Orderly R) (s : State) (a : Actor) : R s (act s a) := by
  cases a with
  | detector => exact meetDetector_closed C.toCalm s
  | cut => exact meetCut_orderly C s
  | stations => exact meetStations_closed C.toCalm s
  | switches => exact meetSwitches_closed C.toCalm s
  | settles => exact meetSettles_closed C.toCalm s
  | closing => exact meetClosing_closed C.toCalm s
  | openings => exact meetOpenings_closed C.toCalm s
  | builds => exact meetBuilds_closed C.toCalm s
  | confirm => exact meetConfirm_closed C.toCalm s
  | printed => exact meetPrinted_closed C.toCalm s

theorem meetThresholds_orderly (C : Orderly R) (s : State) : R s (meetThresholds s) := by
  unfold meetThresholds
  split
  next => exact C.refl s
  next => exact act_orderly C s _
  next => exact C.trans (C.quiet (setDraws_quiet s _)) (C.foldl (act_orderly C) _ _)

/-! ### From an open line -/

theorem lineOpen_of_line {s t : State} (line : t.lc.line = s.lc.line) : lineOpen t = lineOpen s := by
  rw [lineOpen, lineOpen, line]

theorem lineOpen_of_ready {s : State} (line : s.lc.line = .ready) : lineOpen s = true := by simp [lineOpen, line]

/-- The line stays open. -/
def StaysOpen (s t : State) : Prop := lineOpen s = true → lineOpen t = true

/-- A starvation leaves the line READY (R37). -/
theorem starve_line (s : State) (r : InFlight) : (starve s r).lc.line = .ready := by
  have left (t : State) : t.lc.line = .ready → (applyTail (statusAfterStarvation t) r).lc.line = .ready := fun h =>
    (applyTail_closed keepsLine_calm _ r).trans ((statusAfterStarvation_quiet t).line.trans h)
  exact left _ rfl

theorem starve_open (s : State) (r : InFlight) : lineOpen (starve s r) = true := by
  simp [lineOpen, starve_line]

theorem lineOpen_of_calm {s t : State} (h : ∀ R : State → State → Prop, Calm R → R s t) : lineOpen t = lineOpen s :=
  lineOpen_of_line (h _ keepsLine_calm)

/-- What a take does after the line state is set keeps the line state. -/
theorem handNeighbours_line (s : State) (r : InFlight) : (reportTake (handNeighbours s r) r).lc.line = s.lc.line :=
  (reportTake_closed keepsLine_calm _ r).trans (handNeighbours_closed keepsLine_calm s r)

/-- A take leaves the line READY for a HALT, PRINTING for any other order (R36, R39). -/
theorem takeOrder_line (s : State) (o : Order) (late : Bool) :
    (takeOrder s o late).lc.line = if o.kind = .halt then .ready else .printing := by
  unfold takeOrder
  dsimp only
  by_cases halt : o.kind = .halt
  · rw [if_pos (by simp [halt]), if_pos halt]
    exact starve_line _ _
  · rw [if_neg (by simp [halt]), if_neg halt, (startSlotRead_quiet _).line, handNeighbours_line]
    have kind : (takenRecord s o late).order.kind = o.kind := rfl
    rw [enterOrder, if_neg (by simp [kind, halt])]
    rfl

theorem takeOrder_open (s : State) (o : Order) (late : Bool) : lineOpen (takeOrder s o late) = true := by
  rw [lineOpen, takeOrder_line]
  split <;> rfl

/-- `R` from a state whose line is open, the line staying open. -/
def FromOpen (R : State → State → Prop) (s t : State) : Prop := lineOpen s = true → R s t ∧ lineOpen t = true

theorem FromOpen.of_calm {s t : State} (C : Calm R) (h : ∀ R : State → State → Prop, Calm R → R s t) :
    FromOpen R s t :=
  fun opened => ⟨h R C, (lineOpen_of_calm h).trans opened⟩

/-- A calm relation is calm from an open line too. -/
theorem Calm.fromOpen (C : Calm R) : Calm (FromOpen R) where
  refl s := .of_calm C fun _ D => D.refl s
  trans a b opened :=
    have ⟨first, opened⟩ := a opened
    have ⟨second, opened⟩ := b opened
    ⟨C.trans first second, opened⟩
  quiet h := .of_calm C fun _ D => D.quiet h
  chan s i c h := .of_calm C fun _ D => D.chan s i c h
  lift s i c h k := .of_calm C fun _ D => D.lift s i c h k
  lower s i c h := .of_calm C fun _ D => D.lower s i c h
  engage s i c h := .of_calm C fun _ D => D.engage s i c h
  sync s := .of_calm C fun _ D => D.sync s
  target s i x c := .of_calm C fun _ D => D.target s i x c
  trim s i v h k := .of_calm C fun _ D => D.trim s i v h k
  correction s i v h k := .of_calm C fun _ D => D.correction s i v h k
  phase s i p h₁ h₂ h₃ h₄ := .of_calm C fun _ D => D.phase s i p h₁ h₂ h₃ h₄
  raise s c h := .of_calm C fun _ D => D.raise s c h
  fault s f := .of_calm C fun _ D => D.fault s f
  clear s cs h := .of_calm C fun _ D => D.clear s cs h

/-- A relation that holds over the primitive changes of the blocks, and over a starvation and a take in an open line. -/
structure Opened (R : State → State → Prop) : Prop extends Calm R where
  starve : ∀ s r, lineOpen s = true → R s (starve s r)
  take : ∀ s o late, lineOpen s = true → R s (takeOrder s o late)

theorem Closed.opened (C : Closed R) : Opened R where
  toCalm := C.toCalm
  starve s r _ := starve_closed C s r
  take s o late _ := takeOrder_closed C s o late

theorem Opened.orderly (C : Opened R) : Orderly (FromOpen R) where
  toCalm := C.toCalm.fromOpen
  starve s r opened := ⟨C.starve s r opened, starve_open s r⟩
  take s o late opened := ⟨C.take s o late opened, takeOrder_open s o late⟩

theorem Opened.meetThresholds (C : Opened R) {s : State} (opened : lineOpen s = true) : R s (meetThresholds s) :=
  (meetThresholds_orderly C.orderly s opened).1

/-- One µm of a print advance, for a relation that holds over the move of P and of the seam detector's travel (R1, R56). -/
theorem Opened.advanceOne (C : Opened R) {s : State} (opened : lineOpen s = true)
    (moved : R s { s with wt.p := s.wt.p + 1, cp := detectorTravel s.cp }) : R s (advanceOne s) :=
  C.trans moved (C.meetThresholds opened)

/-! ### The changes of a command -/

/-- The end of the access in hand at memory, at the timer and at the report ring (R159, R163, R164). -/
def moveWord (s : State) (h : InHand) (host : Option Word) : State :=
  markWrite { s with mem := accessMemory s.mem h host, xi.timer := .stopped } h.access.mark

/-- A relation that holds over every change that the command `c` can make. -/
structure Commands (c : Instr) (R : State → State → Prop) : Prop extends Opened R where
  abort : ∀ s, s.lc.line = .printing → R s (abortEntry s)
  /-- One µm of a print advance that the position limit leaves (R1, R3). -/
  advance : ∀ s, lineOpen s = true → s.wt.p < Config.positionLimit → R s (advanceOne s)
  /-- The travel of an oven advance that the position limit leaves, with its re-anchoring (R1, R3, R6). -/
  turn : ∀ s d, d ≤ Config.positionLimit - s.wt.q → R s (reanchor { s with wt.q := s.wt.q + d })
  printDebt : ∀ s n x, n ≤ s.wt.printDebt ∨ n ≤ Config.debtLimit → R s { s with wt.printDebt := n, wt.printReverse := x }
  ovenDebt : ∀ s n x, n ≤ s.wt.ovenDebt ∨ n ≤ Config.debtLimit → R s { s with wt.ovenDebt := n, wt.ovenReverse := x }
  limit : ∀ s, R s { s with wt.limitPosted := true }
  seamPin : ∀ s level, R s (setSeamPin s level)
  sensorPin : ∀ s i k b, R s (setSensor s i k b)
  zone : ∀ s z x, R s (s.setZone z x)
  reset : ∀ s cause, c = .reset cause → R s (resetPart s cause)
  release : ∀ s, s.pins.resetAsserted = true → c = .resetRelease →
    R s { s with pins.resetAsserted := false, clock := 0#32 }
  events : ∀ s e w, R s { s with events := e, busRead := w }
  /-- An access done with which its transaction leaves the port (R159). -/
  finish : ∀ s h host, c = .memoryAccessDone host → s.xi.inHand = some h → R s (freePort (moveWord s h host))
  /-- An access done and the next one begun, which does not end more records than were known to follow (R159). -/
  next : ∀ s h host g a rest, c = .memoryAccessDone host → s.xi.inHand = some h →
    recordEnds (a :: rest) ≤ recordEnds h.rest → R s (beginAccess (moveWord s h host) g a rest)
  dequeue : ∀ s t rest, s.xi.queue = t :: rest → R s { s with xi.queue := rest }
  /-- The first access of a transaction begun, with room in the ring for the records that it will end (R160, R163). -/
  begin : ∀ s h a rest, s.xi.inHand = none → s.xi.suspended = false →
    recordEnds (a :: rest) = 0 ∨ ringUsed s.xi + recordEnds (a :: rest) ≤ Config.ringSlots → R s (beginAccess s h a rest)
  /-- An access lost at its timeout (R161). -/
  lose : ∀ s h, c = .memoryAccessTimeout → s.xi.inHand = some h → R s (freePort (lostAccess s h))
  suspend : ∀ s f, s.xi.inHand = none → R s { s with xi.suspended := true, xi.held := some f, xi.queue := [] }
  reject : ∀ s reason item, s.lc.line = .loading → R s (rejectLoad s reason item)
  complete : ∀ s w, s.lc.line = .loading → profileFault w = none → R s (completeLoad s (profileOf w))
  endUnload : ∀ s, R s (endUnload s)
  load : ∀ s, s.lc.line = .unloaded → s.busy = false → R s (beginLoad s)
  unload : ∀ s, s.lc.line = .ready → s.busy = false → R s (unloadLine s)
  clearFault : ∀ s, lineOpen s = true → R s (clearFault s)
  exbase : ∀ s v, c = .exbaseWrite v → R s { s with exbase := v }
  retire : ∀ s h, retireAccepted s h = true → R s { s with xi.retired := h }

namespace Commands

variable {c : Instr} (C : Commands c R)
include C

theorem ite {s a b : State} {p : Prop} [Decidable p] (ha : p → R s a) (hb : ¬p → R s b) : R s (if p then a else b) :=
  C.toCalm.ite ha hb

/-! ### Encoder counts -/

theorem reachLimit (s : State) : R s (reachLimit s) := reachLimit_closed C.toCalm s (C.limit s)

theorem advanceBy (d : Nat) (s : State) (opened : lineOpen s = true) (within : d ≤ Config.positionLimit - s.wt.p) :
    R s (advanceBy d s) := by
  induction d generalizing s with
  | zero => exact C.refl s
  | succ d ih =>
    have stays : StaysOpen { s with wt.p := s.wt.p + 1, cp := detectorTravel s.cp } (advanceOne s) := fun h =>
      (meetThresholds_orderly C.toOpened.orderly _ h).2
    obtain ⟨p, -, -, -⟩ := travel_eq_iff.mp (advanceOne_travel s)
    change (advanceOne s).wt.p = s.wt.p + 1 at p
    exact C.trans (C.advance s opened (by omega)) (ih _ (stays opened) (by omega))

theorem printAdvance (s : State) (d : Nat) (opened : lineOpen s = true) (within : d ≤ Config.positionLimit - s.wt.p) :
    R s (printAdvance s d) := by
  have before {R : State → State → Prop} (D : Calm R) : R s (restartStandstill (endUnderrun s)) :=
    D.trans (endUnderrun_closed D s) (D.quiet (restartStandstill_quiet _))
  have moved := C.advanceBy d _ ((lineOpen_of_calm fun _ D => before D).trans opened)
    (by rw [(before board_calm).p]; exact within)
  exact C.trans (C.trans (before C.toCalm) moved)
    (C.trans (driveTargets_closed C.toCalm _) (deliverFestoon_closed C.toCalm _))

theorem limited {s t : State} {p : Prop} [Decidable p] (h : R s t) : R s (if p then Machine.reachLimit t else t) :=
  C.ite (fun _ => C.trans h (C.reachLimit t)) fun _ => h

theorem printAdvance_ite (s : State) (d : Nat) (opened : lineOpen s = true)
    (within : d ≤ Config.positionLimit - s.wt.p) : R s (if d = 0 then s else Machine.printAdvance s d) :=
  C.ite (fun _ => C.refl s) fun _ => C.printAdvance s d opened within

theorem printForward (s : State) (opened : lineOpen s = true) : R s (printForward s) :=
  C.limited (C.trans (C.printDebt s _ _ (.inl (Nat.sub_le _ _))) (C.printAdvance_ite _ _ opened (Nat.min_le_right _ _)))

theorem ovenAdvance (s : State) (d : Nat) (within : d ≤ Config.positionLimit - s.wt.q) : R s (ovenAdvance s d) :=
  C.trans (C.trans (C.turn s d within) (deliverFestoon_closed C.toCalm _))
    (C.trans (setbackAdvance_closed C.toCalm _) (horizonIfClear_closed C.toCalm _))

theorem ovenAdvance_ite (s : State) (d : Nat) (within : d ≤ Config.positionLimit - s.wt.q) :
    R s (if d = 0 then s else Machine.ovenAdvance s d) :=
  C.ite (fun _ => C.refl s) fun _ => C.ovenAdvance s d within

theorem ovenForward (s : State) : R s (ovenForward s) :=
  C.limited (C.trans (C.ovenDebt s _ _ (.inl (Nat.sub_le _ _))) (C.ovenAdvance_ite _ _ (Nat.min_le_right _ _)))

theorem reportReverse (s : State) (x : ReverseStretch) (code excess : Nat) : R s (reportReverse s x code excess) :=
  C.ite (fun _ => post_closed C.toCalm s _) fun _ => C.refl s

theorem reverseCount (s : State) (e : Encoder) :
    R s (match e with
      | .print => printReverseCount s
      | .oven => ovenReverseCount s) := by
  cases e with
  | print => exact C.trans (C.printDebt s _ _ (.inr (Nat.min_le_right _ _))) (C.reportReverse _ _ _ _)
  | oven => exact C.trans (C.ovenDebt s _ _ (.inr (Nat.min_le_right _ _))) (C.reportReverse _ _ _ _)

/-! ### Inputs -/

theorem seamChange (s : State) (level : Bool) : R s (seamChange s level) :=
  C.ite (fun _ => C.refl s) fun _ =>
    C.ite (fun _ => C.trans (C.seamPin s level) (C.quiet (judgeSeamLevel_quiet _ level))) fun _ => C.seamPin s level

theorem sensorChange (s : State) (i : Station) (k : Sensor) (b : Bool) : R s (sensorChange s i k b) :=
  C.ite (fun _ => C.refl s) fun _ => C.trans (C.sensorPin s i k b) (judgeSensor_closed C.toCalm _ i k b)

theorem postStale (s : State) (z : Zone) (x : ZoneState) (reason : Nat) : R s (postStale (s.setZone z x) z reason) :=
  C.trans (C.zone s z x) (post_closed C.toCalm _ _)

theorem takeFrame (s : State) (n : BitVec 8) (load : FrameLoad) : R s (takeFrame s n load) := by
  unfold Machine.takeFrame
  split
  next z t _ =>
    exact C.ite (fun _ => C.zone s z _) fun _ => C.trans (C.zone s z _) (post_closed C.toCalm _ _)
  next z _ => exact C.ite (fun _ => C.postStale s z _ 1) fun _ => C.refl s
  next => exact C.refl s

/-! ### The exchange interface -/

theorem takeInHand (s : State) (t : Transaction) (lose : Bool) (as : List Access) (idle : s.xi.inHand = none)
    (serves : s.xi.suspended = false) (room : recordEnds as = 0 ∨ ringUsed s.xi + recordEnds as ≤ Config.ringSlots) :
    R s (takeInHand s t lose as) := by
  cases as with
  | nil => exact C.refl s
  | cons a rest => exact C.begin s _ a rest idle serves room

end Commands

theorem recordEnds_append (as bs : List Access) : recordEnds (as ++ bs) = recordEnds as + recordEnds bs := by
  simp [recordEnds, List.filter_append]

/-- Accesses that end no record of the ring. -/
theorem recordEnds_of_plain {as : List Access} (h : ∀ a ∈ as, a.mark = .plain) : recordEnds as = 0 := by
  simpa [recordEnds, List.filter_eq_nil_iff] using h

theorem writesFrom_plain (offset : Nat) (ws : List Word) : ∀ a ∈ writesFrom offset ws, a.mark = .plain := by
  induction ws generalizing offset with
  | nil => nofun
  | cons w rest ih => exact List.forall_mem_cons.mpr ⟨rfl, ih _⟩

/-- A record has one write that ends it (R163). -/
theorem recordAccesses_ends (p : Posting) (seq : BitVec 16) {done : AccessMark} (ends : done ≠ .plain) :
    recordEnds (recordAccesses p seq done) = 1 := by
  rw [recordAccesses, recordEnds_append, recordEnds_of_plain (writesFrom_plain _ _)]
  simp [recordEnds, ends]

theorem resultAccesses_ends (slot : Slot) (words : List Word) : recordEnds (resultAccesses slot words) = 0 := by
  rw [resultAccesses, recordEnds_append, recordEnds_of_plain (writesFrom_plain _ _)]
  rfl

theorem mapAccesses_ends (serial : Nat) (words : List Word) : recordEnds (mapAccesses serial words) = 0 :=
  recordEnds_of_plain fun a mem => by
    obtain ⟨x, -, rfl⟩ := List.mem_map.mp mem
    rfl

theorem reads_ends {α : Type} (offset : α → Nat) (xs : List α) : recordEnds (xs.map fun x => readAt (offset x)) = 0 :=
  recordEnds_of_plain fun a mem => by
    obtain ⟨x, -, rfl⟩ := List.mem_map.mp mem
    rfl

namespace Commands

variable {c : Instr} (C : Commands c R)
include C

theorem serveReport (s : State) (p : Posting) (idle : s.xi.inHand = none) (serves : s.xi.suspended = false) :
    R s (serveReport s p) := by
  unfold Machine.serveReport
  refine C.ite (fun _ => C.quiet (loseReport_quiet s)) fun room => ?_
  refine C.ite (fun _ => ?_) fun _ => C.ite (fun pair => ?_) fun _ => ?_
  · refine C.takeInHand s _ _ _ idle serves (.inr ?_)
    rw [recordAccesses_ends _ _ (by decide)]
    omega
  · refine C.takeInHand s _ _ _ idle serves (.inr ?_)
    rw [recordEnds_append, recordAccesses_ends _ _ (by decide), recordAccesses_ends _ _ (by decide)]
    exact pair
  · refine C.takeInHand s _ _ _ idle serves (.inr ?_)
    rw [recordAccesses_ends _ _ (by decide)]
    omega

theorem takePlain (s : State) (t : Transaction) (lose : Bool) (as : List Access) (idle : s.xi.inHand = none)
    (serves : s.xi.suspended = false) (plain : recordEnds as = 0) : R s (Machine.takeInHand s t lose as) :=
  C.takeInHand s t lose as idle serves (.inl plain)

theorem serve (s : State) (t : Transaction) (idle : s.xi.inHand = none) (serves : s.xi.suspended = false) :
    R s (serve s t) := by
  unfold Machine.serve
  split
  next => exact C.takePlain s _ _ _ idle serves (reads_ends (fun i => 4 * i) _)
  next => exact C.takePlain s _ _ _ idle serves (by rfl)
  next => exact C.takePlain s _ _ _ idle serves (by rfl)
  next => exact C.takePlain s _ _ _ idle serves (by rfl)
  next => exact C.takePlain s _ _ _ idle serves (resultAccesses_ends _ _)
  next => exact C.takePlain s _ _ _ idle serves (resultAccesses_ends _ _)
  next => exact C.takePlain s _ _ _ idle serves (mapAccesses_ends _ _)
  next p => exact C.serveReport s p idle serves

theorem startTransaction (s : State) : R s (startTransaction s) := by
  unfold Machine.startTransaction
  refine C.ite (fun _ => C.refl s) fun free => ?_
  simp only [Bool.or_eq_true, not_or, Bool.not_eq_true, Option.isSome_eq_false_iff, Option.isNone_iff_eq_none] at free
  obtain ⟨idle, serves⟩ := free
  split
  next => exact C.refl s
  next t rest queued =>
    exact C.trans (C.trans (C.dequeue s t rest queued) (C.serve _ t idle serves)) (C.endUnload _)

/-! ### The end of an access -/

section Done

variable {s : State} {h : InHand} {host : Option Word} (done : c = .memoryAccessDone host) (held : s.xi.inHand = some h)
include done held

theorem nextPlain (g : InHand) (a : Access) (rest : List Access) (plain : recordEnds (a :: rest) = 0) :
    R s (beginAccess (moveWord s h host) g a rest) :=
  C.next s h host g a rest done held (plain ▸ Nat.zero_le _)

theorem slotReadNext (g : InHand) (slot : Slot) : R s (slotReadNext (moveWord s h host) g slot) := by
  have ended := C.finish s h host done held
  have emptied : R s (readEmpty (freePort (moveWord s h host))) := C.trans ended (C.quiet (readEmpty_quiet _))
  unfold Machine.slotReadNext
  split
  next => exact C.ite (fun _ => emptied) fun _ => C.nextPlain done held _ _ _ (by rfl)
  next =>
    have plain := reads_ends (fun k => slotOffset slot + k) (bodyOffsets (slotWord g slot 0x04))
    split
    next a rest body => exact C.nextPlain done held _ a rest (body ▸ plain)
    next => exact emptied
  next => exact C.nextPlain done held _ _ _ (by rfl)
  next =>
    refine C.ite (fun _ => emptied) fun _ => ?_
    split
    next o _ =>
      unfold readValid
      split
      next => exact C.trans ended (C.quiet (by constructor <;> first | rfl | exact id))
      next line =>
        have opened : lineOpen (freePort (moveWord s h host)) = true := lineOpen_of_ready line
        exact C.trans ended (lateStart_orderly C.toOpened.orderly _ o opened).1
      all_goals exact ended
    next => exact C.trans (C.nextPlain done held _ _ _ (by rfl)) (C.quiet (readEmpty_quiet _))
  next => exact C.trans ended (post_closed C.toCalm _ _)

theorem endConfirmRead (g : InHand) (slot : Slot) : R s (endConfirmRead (freePort (moveWord s h host)) g slot) := by
  have ended := C.finish s h host done held
  have changed : R s (confirmChanged (freePort (moveWord s h host))) := C.trans ended (C.quiet (confirmChanged_quiet _))
  unfold Machine.endConfirmRead
  split
  next o _ =>
    refine C.ite (fun _ => ?_) fun _ => changed
    unfold confirmUnchanged
    split
    next => exact C.trans ended (C.quiet (by constructor <;> first | rfl | exact id))
    next line _ =>
      have opened : lineOpen (freePort (moveWord s h host)) = true := lineOpen_of_ready line
      exact C.trans ended (lateStart_orderly C.toOpened.orderly _ _ opened).1
    next => exact ended
  next => exact changed

theorem endProfileRead (got : List (Nat × Word)) (line : s.lc.line = .loading) :
    R s (endProfileRead (freePort (moveWord s h host)) got) := by
  have loading : (freePort (moveWord s h host)).lc.line = .loading := by
    rw [freePort_lc, moveWord, markWrite_lc]
    exact line
  unfold Machine.endProfileRead
  dsimp only
  split
  next => exact C.trans (C.finish s h host done held) (C.reject _ _ _ loading)
  next fault => exact C.trans (C.finish s h host done held) (C.complete _ _ loading fault)

theorem accessesDone (g : InHand) : R s (accessesDone (moveWord s h host) g) := by
  have ended := C.finish s h host done held
  unfold Machine.accessesDone
  split
  next =>
    refine C.ite (fun line => C.endProfileRead done held g.got ?_) fun _ => ended
    rw [moveWord, markWrite_lc] at line
    exact eq_of_beq line
  next slot _ => exact C.slotReadNext done held g slot
  next slot _ => exact C.endConfirmRead done held g slot
  next => exact ended
  next => exact C.trans ended (endClose_closed C.toCalm _ _ _)
  next => exact ended
  next => exact C.trans ended (finishExit_closed C.toCalm _ _)
  next => exact C.ite (fun _ => C.trans ended (C.quiet (loseReport_quiet _))) fun _ => ended

theorem nextAccess (g : InHand) (rest : g.rest = h.rest) : R s (nextAccess (moveWord s h host) g) := by
  unfold Machine.nextAccess
  refine C.ite (fun _ => C.finish s h host done held) fun _ => ?_
  split
  next a more known => exact C.next s h host g a more done held (by rw [← known, rest])
  next => exact C.accessesDone done held g

end Done

omit C in
theorem gather_rest (m : Memory) (h : InHand) : (gather m h).rest = h.rest := by
  unfold gather
  split <;> rfl

theorem completeAccess (s : State) (host : Option Word) (done : c = .memoryAccessDone host) :
    R s (completeAccess s host) := by
  unfold Machine.completeAccess
  split
  next => exact C.refl s
  next h held => exact C.trans (C.nextAccess done held _ (gather_rest _ h)) (C.endUnload _)

theorem busFault (s : State) (h : InHand) (idle : s.xi.inHand = none) : R s (busFault s h) :=
  C.trans (C.suspend s _ idle) <| C.trans (C.quiet (dropCopy_quiet _)) <|
    C.trans (handEndedByFault_closed C.toCalm _ h) <|
      C.trans (C.toCalm.foldl (endedByFault_closed C.toCalm) _ _) (C.fault _ _)

theorem timeOutAccess (s : State) (timeout : c = .memoryAccessTimeout) : R s (timeOutAccess s) := by
  unfold Machine.timeOutAccess
  split
  next => exact C.refl s
  next h held =>
    refine C.ite (fun _ => ?_) fun _ => C.refl s
    have lost := C.lose s h timeout held
    have line : (freePort (lostAccess s h)).lc.line = s.lc.line := by rw [freePort_lc, lostAccess_lc]
    unfold loseAccess
    dsimp only
    split
    next => exact C.trans lost (C.busFault _ h rfl)
    next => exact C.trans lost (C.busFault _ h rfl)
    next loading => exact C.trans lost (C.reject _ _ _ (line.trans loading))
    next => exact C.trans lost (C.trans (handEndedByFault_closed C.toCalm _ h) (C.endUnload _))

/-! ### Commands -/

theorem refuseCommand (s : State) : R s (refuseCommand s) := C.quiet (by constructor <;> first | rfl | exact id)

theorem ignoreWrite (s : State) : R s (ignoreWrite s) := C.quiet (by constructor <;> first | rfl | exact id)

theorem done {s t : State} (h : R s t) : R s (doneCommand t) :=
  C.trans h (C.quiet (by constructor <;> first | rfl | exact id))

theorem judgeCommand {s : State} {allowed : Bool} {effect : State → State}
    (h : allowed = true → s.busy = false → R s (effect s)) : R s (judgeCommand s allowed effect) := by
  refine C.ite (fun _ => C.refl s) fun _ => C.ite (fun _ => C.refuseCommand s) fun accepted => ?_
  simp only [Bool.or_eq_true, Bool.not_eq_true', not_or, Bool.not_eq_true, Bool.not_eq_false] at accepted
  exact h accepted.2 accepted.1

theorem trimBy (s : State) (target : Option Station) (delta : Int) : R s (trimBy s target delta) := by
  unfold Machine.trimBy
  split
  next => exact storeTrim_closed C.toCalm s _ _ (clampTo_bounds _ _ (by decide)).1 (clampTo_bounds _ _ (by decide)).2
  next => exact C.refl s

theorem staleExpiry (s : State) (z : Zone) : R s (staleExpiry s z) :=
  C.ite (fun _ => C.postStale s z _ 0) fun _ => C.refl s

theorem lookAtSlot (s : State) : R s (lookAtSlot s) :=
  C.ite (fun _ => C.quiet (startSlotRead_quiet s)) fun _ => C.refl s

omit C in
theorem open_of_takes {s : State} (takes : takesEvents s = true) : lineOpen s = true := by
  simp only [takesEvents, Bool.and_eq_true] at takes
  exact takes.2

/-- A command's whole effect is one that the list of changes allows. -/
theorem exec {s t : State} (step : exec c s = .next t) : R s t := by
  cases c
  case commandCodeUndefined code =>
    simp only [Machine.exec, execCommandCodeUndefined] at step
    split at step
    next => cases step
    next =>
      obtain rfl := Host.Outcome.next.inj step
      exact C.judgeCommand nofun
  all_goals obtain rfl := Host.Outcome.next.inj step
  case printForwardCount => exact C.ite (fun takes => C.printForward s (open_of_takes takes)) fun _ => C.refl s
  case ovenForwardCount => exact C.ite (fun _ => C.ovenForward s) fun _ => C.refl s
  case reverseCount e => exact C.ite (fun _ => C.reverseCount s e) fun _ => C.refl s
  case seamLevelChange level => exact C.seamChange s level
  case stationSensorChange i k b => exact C.ite (fun _ => C.sensorPin s i k b) fun _ => C.sensorChange s i k b
  case markEdge => exact C.ite (fun _ => C.refl s) fun _ => readEdge_closed C.toCalm s
  case zoneFrame n load => exact C.ite (fun _ => C.takeFrame s n load) fun _ => C.refl s
  case reset cause => exact C.reset s cause rfl
  case resetRelease => exact C.ite (fun asserted => C.release s asserted rfl) fun _ => C.refl s
  case actuationTimerExpiry i => exact actuationExpiry_closed C.toCalm s i
  case evaluationTimerExpiry => exact evaluationExpiry_closed C.toCalm s
  case doseIntervalExpiry => exact doseExpiry_closed C.toCalm s
  case setbackTimerExpiry => exact setbackExpiry_closed C.toCalm s
  case standstillTimerExpiry => exact standstillExpiry_closed C.toCalm s
  case staleTimerExpiry z => exact C.staleExpiry s z
  case memoryAccessTimeout => exact C.timeOutAccess s rfl
  case memoryAccessDone host => exact C.completeAccess s host rfl
  case transactionStart => exact C.startTransaction s
  case closeOut => exact startExit_closed C.toCalm s
  case loadProfile => exact C.judgeCommand fun line free => C.load s (eq_of_beq line) free
  case unload => exact C.judgeCommand fun line free => C.unload s (eq_of_beq line) free
  case signal => exact C.judgeCommand fun _ _ => C.done (C.lookAtSlot s)
  case hold => exact C.judgeCommand fun _ _ => C.done (C.raise s .host nofun)
  case resume => exact C.judgeCommand fun _ _ => C.done (C.clear s _ rfl)
  case abortOrder => exact C.judgeCommand fun line _ => C.done (C.abort s (eq_of_beq line))
  case clearFault => exact C.judgeCommand fun opened _ => C.done (C.clearFault s opened)
  case liftSet set => exact C.judgeCommand fun _ _ => C.done (setManual_closed C.toCalm s set true)
  case liftClear set => exact C.judgeCommand fun _ _ => C.done (setManual_closed C.toCalm s set false)
  case trim st delta => exact C.judgeCommand fun _ _ => C.done (C.trimBy s _ _)
  case exbaseWrite v =>
    exact C.ite (fun _ => C.refl s) fun _ => C.ite (fun _ => C.exbase s v rfl) fun _ => C.ignoreWrite s
  case retireWrite v =>
    exact C.ite (fun _ => C.refl s) fun _ => C.ite (fun accepted => C.retire s _ accepted) fun _ => C.ignoreWrite s
  case eventsRead => exact C.events s _ _
  case registerWriteIgnored r v => exact C.ite (fun _ => C.refl s) fun _ => C.ignoreWrite s

end Commands

end Sys2Proof.Machine
end

section
/-! Laws that the line controller, the channels and the events do not touch; and what a completed load, an UNLOAD and a
CLEAR_FAULT leave, part by part. -/

namespace Sys2Proof.Machine

variable {R : State → State → Prop}

/-- A law is kept. -/
def Keeps (P : State → Prop) (s t : State) : Prop := P s → P t

/-! ### Relations that the line controller does not touch -/

/-- A relation that holds over every change of the line controller, of the channels, of the entry order and
of command busy. -/
structure OffLine (R : State → State → Prop) : Prop where
  refl : ∀ s, R s s
  trans : ∀ {s t u}, R s t → R t u → R s u
  quiet : ∀ {s t}, Quiet s t → R s t
  lc : ∀ s x, R s { s with lc := x }
  sc : ∀ s x, R s { s with sc := x }
  entry : ∀ s x, R s { s with os.entry := x }
  busy : ∀ s b, R s { s with busy := b }
  target : ∀ s i x c, R s (s.setPhase i { s.phase i with target := targetOf x c })
  trim : ∀ s i v, -Config.trimLimit ≤ v → v ≤ Config.trimLimit → R s (s.setPhase i { s.phase i with trim := v })
  correction : ∀ s i v, -(s.prof.correctionRange : Int) ≤ v → v ≤ (s.prof.correctionRange : Int) →
    R s (s.setPhase i { s.phase i with correction := v })
  phase : ∀ s i p, p.target = (s.phase i).target → p.trim = (s.phase i).trim → p.correction = (s.phase i).correction →
    p.base = (s.phase i).base → R s (s.setPhase i p)

namespace OffLine

theorem ite (_C : OffLine R) {s a b : State} {p : Prop} [Decidable p] (ha : p → R s a) (hb : ¬p → R s b) :
    R s (if p then a else b) := by
  split
  next h => exact ha h
  next h => exact hb h

variable (C : OffLine R)
include C

theorem events (s : State) (e : Events) : R s { s with events := e } :=
  C.quiet (by constructor <;> first | rfl | exact id)

theorem post (s : State) (b : ReportBody) : R s (post s b) := C.quiet (post_quiet s b)

theorem syncEngaged (s : State) : R s (syncEngaged s) := by
  rw [syncEngaged_eq]
  exact C.lc s _

theorem setChan (s : State) (i : Station) (c : Channel) : R s (s.setChan i c) := C.sc s _

theorem liftForHold (s : State) (i : Station) : R s (liftForHold s i) := by
  unfold Machine.liftForHold
  split
  next => exact C.trans (C.quiet (addStopMark_quiet s i)) (C.setChan _ i _)
  next => exact C.trans (C.quiet (addStopMark_quiet s i)) (C.setChan _ i _)
  next => exact C.setChan s i _
  all_goals exact C.refl s

theorem liftList (xs : List Station) (s : State) : R s (xs.foldl Machine.liftForHold s) := by
  induction xs generalizing s with
  | nil => exact C.refl s
  | cons i rest ih => exact C.trans (C.liftForHold s i) (ih _)

theorem liftAllForHold (s : State) : R s (liftAllForHold s) := C.trans (C.liftList _ s) (C.syncEngaged _)

theorem startHold (s : State) : R s { s with lc.holdStart := s.clock, events.hold := true } :=
  C.trans (C.lc s { s.lc with holdStart := s.clock })
    (C.events { s with lc.holdStart := s.clock } { s.events with hold := true })

theorem enterHold (s : State) : R s (enterHold s) := by
  have lifted := C.trans (C.lc s { s.lc with permit := false }) (C.liftAllForHold _)
  have started := C.startHold (Machine.liftAllForHold { s with lc.permit := false })
  unfold Machine.enterHold
  with_reducible exact C.trans lifted started

theorem holdEntry (s : State) (r : Option FaultReason) : R s (holdEntry s r) := C.trans (C.enterHold s) (C.post _ _)

theorem endCommand (s : State) : R s (endCommand s) :=
  C.trans (C.events s { s.events with cmdDone := true }) (C.busy _ false)

theorem judgePermit (s : State) : R s (judgePermit s) := C.lc s _

theorem holdExit (s : State) (cs : HoldSet) : R s (holdExit s cs) := C.trans (C.post s _) (C.judgePermit _)

theorem noteFault (s : State) (f : FaultReason) : R s (noteFault s f) :=
  C.trans (C.events s { s.events with fault := true }) (C.lc _ _)

theorem raiseCause (s : State) (c : HoldCause) (r : Option FaultReason) : R s (raiseCause s c r) := by
  unfold Machine.raiseCause
  refine C.ite (fun _ => C.refl s) fun _ => ?_
  have joined : R s { s with lc.holds := s.lc.holds.join (holdOf c) } := C.lc s _
  cases r with
  | none => exact C.trans joined (C.ite (fun _ => C.refl _) fun _ => C.holdEntry _ _)
  | some f => exact C.trans (C.trans joined (C.noteFault _ f)) (C.ite (fun _ => C.refl _) fun _ => C.holdEntry _ _)

theorem clearCauses (s : State) (cs : HoldSet) : R s (clearCauses s cs) :=
  C.trans (C.lc s _) (C.ite (fun _ => C.holdExit _ _) fun _ => C.refl _)

theorem closed : Closed R where
  refl := C.refl
  trans := C.trans
  quiet := C.quiet
  chan s i c _ := C.setChan s i c
  lift s i c _ _ := C.trans (C.setChan s i c) (C.syncEngaged _)
  lower s i c _ := C.trans (C.setChan s i c) (C.syncEngaged _)
  engage s i c _ := C.trans (C.setChan s i c) (C.syncEngaged _)
  sync := C.syncEngaged
  target := C.target
  trim := C.trim
  correction := C.correction
  phase := C.phase
  raise s c _ := C.raiseCause s c none
  fault s f := C.raiseCause s .fault (some f)
  clear s cs _ := C.clearCauses s cs
  line s _ _ := C.lc s _
  enter s i := C.entry s (some i)
  leave s := C.entry s none

/-- CLEAR_FAULT, for a relation that also holds over the end of a suspension. -/
theorem clearFault (free : ∀ s, R s { s with xi.suspended := false, xi.held := none }) (s : State) :
    R s (clearFault s) := by
  have cleared : R s (clearChannels (dropFault s)) := C.trans (C.lc s _) (clearChannels_closed C.closed.toCalm _)
  have stuck (t : State) : R t (raiseStuck t) :=
    C.ite (fun _ => C.trans (C.lc t _) (C.noteFault _ _)) fun _ => C.refl t
  have ended (t : State) : R t (endSuspension t) := by
    unfold endSuspension
    refine C.ite (fun _ => C.trans (free t) ?_) fun _ => C.refl t
    split
    next => exact C.trans (C.quiet (postAt_quiet _ _ _)) (testClose_closed C.closed.toCalm _)
    next => exact testClose_closed C.closed.toCalm _
  have judged (b : Bool) (t : State) : R t (judgeSet b t) :=
    C.ite (fun _ => C.ite (fun _ => C.refl t) fun _ => C.holdExit t _)
      fun _ => C.ite (fun _ => C.holdEntry t _) fun _ => C.refl t
  exact C.trans (C.trans cleared (stuck _)) (C.trans (ended _) (judged _ _))

/-- The completion of a load, from its first state with the line READY. -/
theorem completeLoad (s : State) (f : Profile) : R (filledLine s f) (completeLoad s f) := by
  have delivered : R (filledLine s f) (Machine.judgePermit (deliverFestoon (filledLine s f))) :=
    C.trans (deliverFestoon_closed C.closed.toCalm _) (C.judgePermit _)
  exact C.trans delivered (C.endCommand _)

end OffLine

theorem Keeps.trans {P : State → Prop} {s t u : State} (a : Keeps P s t) (b : Keeps P t u) : Keeps P s u := b ∘ a

/-! ### An UNLOAD, part by part -/

theorem handOver_eq (s : State) (t : Transaction) : ∃ x, handOver s t = { s with xi := x } := by
  unfold handOver
  split
  next => exact ⟨s.xi, rfl⟩
  next => exact ⟨_, rfl⟩

theorem abandon_eq (rs : List InFlight) (s : State) : ∃ x, rs.foldl abandonOrder s = { s with xi := x } := by
  induction rs generalizing s with
  | nil => exact ⟨s.xi, rfl⟩
  | cons r rest ih =>
    obtain ⟨x, first⟩ := handOver_eq s (.abandonWrite r.slot (resultWords r .abandoned))
    obtain ⟨y, more⟩ := ih (abandonOrder s r)
    refine ⟨y, ?_⟩
    rw [List.foldl_cons, more, abandonOrder, first]

theorem abandonOrders_eq (s : State) : ∃ x, abandonOrders s = { s with xi := x, os := resetSequencer } := by
  obtain ⟨x, abandoned⟩ := abandon_eq (s.os.table.filter fun r => !r.closing) s
  rw [abandonOrders, abandoned]
  exact ⟨_, rfl⟩

theorem reportRun_eq (s : State) (run : DefectRun) : ∃ x e d,
    reportRun s run = { s with co.run := none, xi := x, events := e, draws := d } := by
  rw [reportRun, post_eq]
  exact ⟨_, _, _, rfl⟩

theorem followRun_eq (s : State) (r : Segment) (d : DefectSet) : ∃ y x e n,
    followRun s r d = { s with co.run := y, xi := x, events := e, draws := n } := by
  unfold followRun
  split
  next =>
    split
    next => exact ⟨_, s.xi, s.events, s.draws, rfl⟩
    next => exact ⟨s.co.run, s.xi, s.events, s.draws, rfl⟩
  next run _ =>
    split
    next => exact ⟨_, s.xi, s.events, s.draws, rfl⟩
    next =>
      obtain ⟨x, e, n, reported⟩ := reportRun_eq s run
      dsimp only
      rw [reported]
      split
      next => exact ⟨_, x, e, n, rfl⟩
      next => exact ⟨none, x, e, n, rfl⟩

theorem tallySegment_eq (s : State) (r : Segment) (d : DefectSet) : ∃ y, tallySegment s r d = { s with os.table := y } := by
  unfold tallySegment
  split
  next => exact ⟨s.os.table, rfl⟩
  next => exact ⟨_, rfl⟩

/-- A segment counted leaves the map; of the rest, the tallies, the run and its report change (R138, R140). -/
theorem settleExit_eq (s : State) (r : Segment) : ∃ y o x e n,
    settleExit s r = { s with
      os.table := y, co.run := o, xi := x, events := e, draws := n, wt.map := s.wt.map.tail, co.waiting := none } := by
  obtain ⟨y, tallied⟩ := tallySegment_eq s r (verdictOf r)
  obtain ⟨o, x, e, n, followed⟩ := followRun_eq { s with os.table := y } r (verdictOf r)
  refine ⟨y, o, x, e, n, ?_⟩
  rw [settleExit, tallied, followed]

theorem dropFabric_eq (s : State) : ∃ y x e n,
    dropFabric s = { s with
      os.table := y, xi := x, events := e, draws := n, wt := resetTracker, co := resetCloseOut } := by
  unfold dropFabric
  split
  next r _ =>
    obtain ⟨y, o, x, e, n, settled⟩ := settleExit_eq s r
    refine ⟨y, x, e, n, ?_⟩
    rw [settled]
  next => exact ⟨s.os.table, s.xi, s.events, s.draws, rfl⟩

theorem closeLine_eq (s : State) : ∃ x e n,
    closeLine s = { s with
      lc := { resetLine with holdStart := s.lc.holdStart }, prof := noProfile, xi := x, events := e, draws := n } := by
  unfold closeLine unloadHoldOff
  split
  next =>
    rw [post_eq]
    exact ⟨_, _, _, rfl⟩
  next => exact ⟨s.xi, s.events, s.draws, rfl⟩

theorem endUnload_eq (s : State) : ∃ b x e, endUnload s = { s with busy := b, xi := x, events := e } := by
  unfold endUnload
  split
  next => exact ⟨_, _, _, rfl⟩
  next => exact ⟨s.busy, s.xi, s.events, rfl⟩

/-- An UNLOAD returns every block; of the registers, the pins and board memory only EVENTS and command busy change (R176). -/
theorem unloadLine_eq (s : State) : ∃ x e b n,
    unloadLine s = { s with
      lc := { resetLine with holdStart := s.lc.holdStart }, wt := resetTracker, cp := resetPlanner, os := resetSequencer
      sc := Vector.replicate 16 resetChannel, pu := resetPhaseUnit, mr := resetReader, ci := resetCure
      co := resetCloseOut, prof := noProfile, xi := x, events := e, busy := b, draws := n } := by
  obtain ⟨y, x, e, n, dropped⟩ := dropFabric_eq { s with busy := true }
  obtain ⟨x', abandoned⟩ := abandonOrders_eq (dropFabric { s with busy := true })
  obtain ⟨x₂, e₂, n₂, closed⟩ := closeLine_eq (resetBlocks (abandonOrders (dropFabric { s with busy := true })))
  obtain ⟨b, x₃, e₃, ended⟩ := endUnload_eq (closeLine (resetBlocks (abandonOrders (dropFabric { s with busy := true }))))
  refine ⟨x₃, e₃, b, n₂, ?_⟩
  rw [unloadLine, ended, closed, abandoned, dropped]
  rfl

end Sys2Proof.Machine
end

section
/-! What the parts of a command leave alone: the end of an access, a rejected load, a completed load, CLEAR_FAULT. -/

namespace Sys2Proof.Machine

/-! ### Accesses -/

/-- The end of an access touches board memory, the exchange interface and EVENTS (R159, R163). -/
theorem moveWord_eq (s : State) (h : InHand) (host : Option Word) : ∃ x e,
    moveWord s h host = { s with mem := accessMemory s.mem h host, xi := x, events := e } := by
  unfold moveWord markWrite
  split
  next => exact ⟨_, s.events, rfl⟩
  next => exact ⟨_, _, rfl⟩
  next => exact ⟨_, _, rfl⟩

/-- A lost access touches board memory alone, as a choice that no rule gives (R161). -/
theorem lostAccess_eq (s : State) (h : InHand) : ∃ m n, lostAccess s h = { s with mem := m, draws := n } := by
  unfold lostAccess
  split
  next => exact ⟨_, _, rfl⟩
  next => exact ⟨s.mem, s.draws, rfl⟩

theorem rejectLoad_eq (s : State) (reason item : Nat) : ∃ x e n,
    rejectLoad s reason item = { s with
      lc := { s.lc with line := .unloaded, permit := false }, busy := false, xi := x, events := e, draws := n } := by
  rw [rejectLoad, post_eq]
  exact ⟨_, _, _, rfl⟩

/-! ### Phase targets -/

theorem driveTarget_eq (s : State) (i : Station) : ∃ v, driveTarget s i = { s with pu.stations := v } := by
  unfold driveTarget
  split
  next => exact ⟨_, rfl⟩
  next => exact ⟨s.pu.stations, rfl⟩

theorem driveList_eq (xs : List Station) (s : State) : ∃ v, xs.foldl driveTarget s = { s with pu.stations := v } := by
  induction xs generalizing s with
  | nil => exact ⟨s.pu.stations, rfl⟩
  | cons i rest ih =>
    obtain ⟨v, first⟩ := driveTarget_eq s i
    obtain ⟨w, more⟩ := ih (driveTarget s i)
    refine ⟨w, ?_⟩
    rw [List.foldl_cons, more, first]

theorem driveTargets_eq (s : State) : ∃ v, driveTargets s = { s with pu.stations := v } := driveList_eq stationList s

theorem driveTargets_xi (s : State) : (driveTargets s).xi = s.xi := by
  obtain ⟨v, driven⟩ := driveTargets_eq s
  rw [driven]

/-! ### A completed load -/

/-- The table of a function of the stations gives its values back. -/
theorem get_stationTable {α : Type} (g : Station → α) (size : (stationList.map g).toArray.size = 16) (i : Station) :
    (⟨(stationList.map g).toArray, size⟩ : Vector α 16).get i = g i := by
  have at_index : ∀ j : Station, stationList[j.val]? = some j := by decide
  have found : (stationList.map g)[i.val]? = some (g i) := by rw [List.getElem?_map, at_index i, Option.map_some]
  have bound : i.val < (stationList.map g).length := i.isLt
  rw [List.getElem?_eq_getElem bound] at found
  exact Option.some.inj found

/-- The first state of a completed load with the line READY, part by part (R175). -/
theorem filledLine_eq (s : State) (f : Profile) : ∃ v x e n,
    filledLine s f = { s with
      prof := f, wt := loadedTracker f, cp := loadedPlanner s.pins.seamLevel, os := resetSequencer
      sc := ⟨⟨stationList.map (loadedChannel f)⟩, rfl⟩, pu := { resetPhaseUnit with stations := v }, mr := resetReader
      ci := loadedCure s, co := resetCloseOut, lc := { resetLine with line := .ready }, xi := x, events := e
      draws := n } := by
  unfold filledLine takeProfile
  obtain ⟨v, driven⟩ := driveTargets_eq { s with
    prof := f
    wt := loadedTracker f
    cp := loadedPlanner s.pins.seamLevel
    os := resetSequencer
    sc := ⟨⟨stationList.map (loadedChannel f)⟩, rfl⟩
    pu := { resetPhaseUnit with stations := ⟨⟨stationList.map (loadedPhase f)⟩, rfl⟩ }
    mr := resetReader
    ci := loadedCure s
    co := resetCloseOut
    lc := resetLine }
  rw [driven, post_eq]
  exact ⟨v, _, _, _, rfl⟩

theorem filledLine_chan (s : State) (f : Profile) (i : Station) : (filledLine s f).chan i = loadedChannel f i := by
  obtain ⟨v, x, e, n, filled⟩ := filledLine_eq s f
  rw [filled]
  exact get_stationTable (loadedChannel f) rfl i

theorem loadedChannel_idle (f : Profile) (i : Station) :
    (loadedChannel f i).state ≠ .lowering ∧ (loadedChannel f i).state ≠ .engaged := by
  unfold loadedChannel
  split <;> simp [resetChannel]

/-! ### CLEAR_FAULT -/

theorem reportRunOf_eq (s : State) (slot : Slot) (tag : Word) : ∃ y x e n,
    reportRunOf s slot tag = { s with co.run := y, xi := x, events := e, draws := n } := by
  unfold reportRunOf
  split
  next run _ =>
    split
    next =>
      obtain ⟨x, e, n, reported⟩ := reportRun_eq s run
      exact ⟨none, x, e, n, reported⟩
    next => exact ⟨s.co.run, s.xi, s.events, s.draws, rfl⟩
  next => exact ⟨s.co.run, s.xi, s.events, s.draws, rfl⟩

/-- A close begun touches the table of orders, the open run, the exchange interface, EVENTS and the draws (R48, R141). -/
theorem testClose_eq (s : State) : ∃ l y x e n,
    testClose s = { s with os.table := l, co.run := y, xi := x, events := e, draws := n } := by
  unfold testClose
  split
  next r _ =>
    obtain ⟨y, x, e, n, reported⟩ := reportRunOf_eq s r.slot r.order.tag
    unfold beginClose
    dsimp only
    rw [reported]
    obtain ⟨x', handed⟩ := handOver_eq
      (changeOrder { s with co.run := y, xi := x, events := e, draws := n } r.slot fun z => { z with closing := true })
      (.closeWrite r.slot (resultWords r (outcomeOf r))
        { tag := r.order.tag, lastSerial := r.lastSerial, outcome := outcomeOf r })
    rw [handed]
    exact ⟨_, y, x', e, n, rfl⟩
  next => exact ⟨s.os.table, s.co.run, s.xi, s.events, s.draws, rfl⟩

theorem postAt_eq (s : State) (b : ReportBody) (clk : Word) : ∃ x e n,
    postAt s b clk = { s with xi := x, events := e, draws := n } := by
  unfold postAt
  dsimp only
  split
  next => exact ⟨_, _, _, rfl⟩
  next => exact ⟨_, s.events, _, rfl⟩

/-- The end of a suspension touches no more than a report and a close (R48, R162). -/
theorem endSuspension_eq (s : State) : ∃ l y x e n,
    endSuspension s = { s with os.table := l, co.run := y, xi := x, events := e, draws := n } := by
  unfold endSuspension
  split
  next =>
    dsimp only
    split
    next f _ =>
      unfold reportBusFault
      obtain ⟨x, e, n, reported⟩ := postAt_eq { s with xi.suspended := false, xi.held := none }
        { kind := .busFault, tag := some (entryTag { s with xi.suspended := false, xi.held := none })
          station := some 0#32, serial := some (wordOfNat s.wt.nextSerial), first := some (wordOfNat f.offset)
          second := some (wordOfNat (bitOf f.write 0)) } f.clock
      rw [reported]
      obtain ⟨l, y, x', e', n', closed⟩ := testClose_eq { s with xi := x, events := e, draws := n }
      exact ⟨l, y, x', e', n', closed⟩
    next =>
      obtain ⟨l, y, x', e', n', closed⟩ := testClose_eq { s with xi.suspended := false, xi.held := none }
      exact ⟨l, y, x', e', n', closed⟩
  next => exact ⟨s.os.table, s.co.run, s.xi, s.events, s.draws, rfl⟩

end Sys2Proof.Machine
end

section
/-! The laws of the line: the hold law, the FAULT law and the law of the engaged indication over every command. -/

namespace Sys2Proof.Machine

/-! ### The law of holds -/

/-- No screen is LOWERING or ENGAGED. -/
def NoneDown (s : State) : Prop := ∀ i : Station, (s.chan i).state ≠ .lowering ∧ (s.chan i).state ≠ .engaged

/-- While a hold stands no screen is LOWERING or ENGAGED: the law of holds without its permit, which the permit rule gives. -/
def Lifted (s : State) : Prop := s.lc.holds.any = true → NoneDown s

theorem HoldLaw.lifted {s : State} (h : HoldLaw s) : Lifted s := fun stands => (h stands).2

theorem Lifted.holdLaw {s : State} (h : Lifted s) (rule : PermitRule s) : HoldLaw s := fun stands =>
  ⟨rule.off_of_held stands, h stands⟩

theorem Lifted.congr {s t : State} (holds : t.lc.holds = s.lc.holds) (sc : t.sc = s.sc) (h : Lifted s) : Lifted t := by
  intro stands i
  rw [State.chan, sc]
  exact h (holds ▸ stands) i

theorem NoneDown.setChan {s : State} {i : Station} {c : Channel} (h : NoneDown s)
    (up : c.state ≠ .lowering ∧ c.state ≠ .engaged) : NoneDown (s.setChan i c) := by
  intro j
  by_cases same : i = j
  · subst same
    rw [State.setChan_chan_self]
    exact up
  · rw [State.setChan_chan_of_ne _ _ _ _ same]
    exact h j

theorem Lifted.setChan {s : State} {i : Station} {c : Channel} (h : Lifted s)
    (up : s.lc.holds.any = true → c.state ≠ .lowering ∧ c.state ≠ .engaged) : Lifted (s.setChan i c) := fun stands =>
  (h stands).setChan (up stands)

theorem Lifted.sync {s : State} (h : Lifted s) : Lifted (syncEngaged s) :=
  h.congr (syncEngaged_sameLine s).holds (syncEngaged_sc s)

theorem holdEntry_lifted (s : State) (r : Option FaultReason) : Lifted (holdEntry s r) := fun _ => holdEntry_lifts s r

theorem HoldSet.minus_any {a b : HoldSet} (h : (a.minus b).any = true) : a.any = true := by
  cases any : a.any
  case true => rfl
  case false => exact absurd h (by simp [HoldSet.minus_any_of_none any b])

/-- A hold exit judges the permit and posts HOLD_OFF (R147). -/
theorem holdExit_eq (s : State) (cs : HoldSet) : ∃ x e n,
    holdExit s cs = { s with
      lc := { s.lc with permit := lineOpen s && !s.lc.holds.any }, xi := x, events := e, draws := n } := by
  rw [holdExit, post_eq]
  exact ⟨_, _, _, rfl⟩

/-- Causes cleared leave the set, and a permit that is judged anew at a hold exit alone (R145, R147). -/
theorem clearCauses_eq (s : State) (cs : HoldSet) : ∃ p x e n,
    clearCauses s cs = { s with
      lc := { s.lc with holds := s.lc.holds.minus cs, permit := p }, xi := x, events := e, draws := n } := by
  unfold clearCauses
  split
  next =>
    obtain ⟨x, e, n, exits⟩ := holdExit_eq { s with lc.holds := s.lc.holds.minus cs } (s.lc.holds.meet cs)
    rw [exits]
    exact ⟨_, x, e, n, rfl⟩
  next => exact ⟨s.lc.permit, s.xi, s.events, s.draws, rfl⟩

theorem clearCauses_holds (s : State) (cs : HoldSet) : (clearCauses s cs).lc.holds = s.lc.holds.minus cs := by
  obtain ⟨p, x, e, n, cleared⟩ := clearCauses_eq s cs
  rw [cleared]

theorem clearCauses_sc (s : State) (cs : HoldSet) : (clearCauses s cs).sc = s.sc := by
  obtain ⟨p, x, e, n, cleared⟩ := clearCauses_eq s cs
  rw [cleared]

theorem clearCauses_firstFault (s : State) (cs : HoldSet) : (clearCauses s cs).lc.firstFault = s.lc.firstFault := by
  obtain ⟨p, x, e, n, cleared⟩ := clearCauses_eq s cs
  rw [cleared]

theorem raiseCause_closed {s : State} (closed : lineOpen s = false) (c : HoldCause) (r : Option FaultReason) :
    raiseCause s c r = s := if_pos (by simp [closed])

/-- A cause raised in an open line joins the set; the set was not empty, or it is a hold entry (R145, R146, R152). -/
theorem raiseCause_open {s : State} (opened : lineOpen s = true) (c : HoldCause) (r : Option FaultReason) :
    ∃ f e t, t = { s with lc := { s.lc with holds := s.lc.holds.join (holdOf c), firstFault := f }, events := e } ∧
      raiseCause s c r = if s.lc.holds.any then t else holdEntry t r := by
  unfold raiseCause
  rw [if_neg (by simp [opened])]
  cases r with
  | none => exact ⟨s.lc.firstFault, s.events, _, rfl, rfl⟩
  | some f => exact ⟨some (s.lc.firstFault.getD f), { s.events with fault := true }, _, rfl, rfl⟩

theorem raiseCause_lifted {s : State} (h : Lifted s) (c : HoldCause) (r : Option FaultReason) :
    Lifted (raiseCause s c r) := by
  cases opened : lineOpen s
  case false =>
    rw [raiseCause_closed opened]
    exact h
  case true =>
    obtain ⟨f, e, t, joined, raised⟩ := raiseCause_open opened c r
    rw [raised]
    split
    next stands =>
      subst joined
      exact fun _ => h stands
    next => exact holdEntry_lifted t r

theorem lifted_calm : Calm (Keeps Lifted) where
  refl _ := id
  trans := Keeps.trans
  quiet q h := h.congr q.holds q.sc
  chan s i c kept h := h.setChan fun stands => by
    rcases kept with same | ⟨lowering, engaged, -⟩
    · rw [same]
      exact h stands i
    · exact ⟨lowering, engaged⟩
  lift s i c lowering engaged h := (h.setChan fun _ => ⟨lowering, engaged⟩).sync
  lower s i c clear h := (h.setChan fun stands => by rw [clear] at stands; cases stands).sync
  engage s i c lowering h := (h.setChan fun stands => absurd lowering (h stands i).1).sync
  sync s h := h.sync
  target _ _ _ _ h := h
  trim _ _ _ _ _ h := h
  correction _ _ _ _ _ h := h
  phase _ _ _ _ _ _ _ h := h
  raise s c _ h := raiseCause_lifted h c none
  fault s f h := raiseCause_lifted h .fault (some f)
  clear s cs _ h := fun stands i => by
    rw [State.chan, clearCauses_sc]
    exact h (HoldSet.minus_any (clearCauses_holds s cs ▸ stands)) i

/-! ### The FAULT law -/

theorem FaultLaw.congr {s t : State} (holds : t.lc.holds = s.lc.holds) (first : t.lc.firstFault = s.lc.firstFault)
    (h : FaultLaw s) : FaultLaw t := by
  rw [FaultLaw, holds, first]
  exact h

theorem FaultLaw.sameLine {s t : State} (same : SameLine s t) (h : FaultLaw s) : FaultLaw t :=
  h.congr same.holds same.firstFault

theorem raiseCause_faultLaw {s : State} (h : FaultLaw s) (c : HoldCause) (other : c ≠ .fault) :
    FaultLaw (raiseCause s c none) := by
  cases opened : lineOpen s
  case false =>
    rw [raiseCause, if_pos (by simp [opened])]
    exact h
  case true =>
    rw [FaultLaw, raiseCause_holds s c none opened, raiseCause_firstFault s c none opened]
    have kept : (s.lc.holds.join (holdOf c)).fault = s.lc.holds.fault := by
      cases c <;> first | exact Bool.or_false _ | exact absurd rfl other
    rw [kept]
    exact h

theorem raiseFault_faultLaw {s : State} (h : FaultLaw s) (f : FaultReason) : FaultLaw (raiseFault s f) := by
  cases opened : lineOpen s
  case false =>
    rw [raiseFault, raiseCause, if_pos (by simp [opened])]
    exact h
  case true =>
    rw [FaultLaw, raiseFault, raiseCause_holds s .fault _ opened, raiseCause_firstFault s .fault _ opened]
    exact Bool.or_true _

theorem faultLaw_calm : Calm (Keeps FaultLaw) where
  refl _ := id
  trans := Keeps.trans
  quiet q h := h.sameLine q.sameLine
  chan s i c _ h := h.sameLine (setChan_sameLine s i c)
  lift s i c _ _ h := h.sameLine (setChan_synced_sameLine s i c)
  lower s i c _ h := h.sameLine (setChan_synced_sameLine s i c)
  engage s i c _ h := h.sameLine (setChan_synced_sameLine s i c)
  sync s h := h.sameLine (syncEngaged_sameLine s)
  target _ _ _ _ h := h
  trim _ _ _ _ _ h := h
  correction _ _ _ _ _ h := h
  phase _ _ _ _ _ _ _ h := h
  raise s c other h := raiseCause_faultLaw h c other
  fault s f h := raiseFault_faultLaw h f
  clear s cs spared h := by
    rw [FaultLaw, clearCauses_holds, clearCauses_firstFault]
    exact (by simp [HoldSet.minus, spared] : (s.lc.holds.minus cs).fault = s.lc.holds.fault).trans h

/-! ### The law of the engaged indication -/

theorem anyEngaged_iff (s : State) : anyEngaged s = true ↔ ∃ i, (s.chan i).state = .engaged := by
  simp [anyEngaged, State.chan, mem_stationList]

/-- The standstill timer is stopped while the engaged indication is no (R150). -/
def IdleStopped (s : State) : Prop := s.lc.engaged = false → s.lc.standstill = .stopped

theorem EngagedLaw.congr {s t : State} (engaged : t.lc.engaged = s.lc.engaged)
    (standstill : s.lc.standstill = .stopped → t.lc.standstill = .stopped) (sc : t.sc = s.sc) (h : EngagedLaw s) :
    EngagedLaw t := by
  have chan (i : Station) : t.chan i = s.chan i := by rw [State.chan, sc, State.chan]
  refine ⟨?_, fun idle => standstill (h.2 (engaged ▸ idle))⟩
  simp only [chan, engaged]
  exact h.1

/-- Bringing the indication up to the channels makes the law, if the timer was stopped with no screen down (R68, R150). -/
theorem syncEngaged_law {s : State} (h : IdleStopped s) : EngagedLaw (syncEngaged s) := by
  refine ⟨?_, ?_⟩
  · simp only [syncEngaged_chan]
    rw [syncEngaged_eq]
    exact anyEngaged_iff s
  · rw [syncEngaged_eq]
    dsimp only
    intro none
    rw [none]
    split
    next same => exact h same.symm
    next => rfl

theorem EngagedLaw.setChan {s : State} {i : Station} {c : Channel} (h : EngagedLaw s)
    (same : c.state = .engaged ↔ (s.chan i).state = .engaged) : EngagedLaw (s.setChan i c) := by
  refine ⟨h.1.trans (exists_congr fun j => ?_), h.2⟩
  by_cases here : i = j
  · subst here
    rw [State.setChan_chan_self, same]
  · rw [State.setChan_chan_of_ne _ _ _ _ here]

theorem NoneDown.no_engaged {s : State} (h : NoneDown s) : ¬∃ i, (s.chan i).state = .engaged := fun ⟨i, e⟩ => (h i).2 e

theorem holdEntry_engagedLaw {s : State} (h : IdleStopped s) (r : Option FaultReason) : EngagedLaw (holdEntry s r) := by
  have enters := holdEntry_enters s r
  refine ⟨?_, fun _ => ?_⟩
  · rw [enters.line]
    exact iff_of_false Bool.false_ne_true (NoneDown.no_engaged (holdEntry_lifts s r))
  · rw [enters.line]
    cases engaged : s.lc.engaged
    case false => exact h engaged
    case true => rfl

theorem raiseCause_engagedLaw {s : State} (h : EngagedLaw s) (c : HoldCause) (r : Option FaultReason) :
    EngagedLaw (raiseCause s c r) := by
  cases opened : lineOpen s
  case false =>
    rw [raiseCause_closed opened]
    exact h
  case true =>
    obtain ⟨f, e, t, joined, raised⟩ := raiseCause_open opened c r
    have kept : EngagedLaw t := by
      subst joined
      exact h
    rw [raised]
    split
    next => exact kept
    next => exact holdEntry_engagedLaw kept.2 r

theorem holdExit_engagedLaw {s : State} (h : EngagedLaw s) (cs : HoldSet) : EngagedLaw (holdExit s cs) := by
  obtain ⟨x, e, n, exits⟩ := holdExit_eq s cs
  rw [exits]
  exact h

theorem engagedLaw_calm : Calm (Keeps EngagedLaw) where
  refl _ := id
  trans := Keeps.trans
  quiet q h := h.congr q.engaged q.standstill q.sc
  chan s i c kept h := h.setChan (by
    rcases kept with same | ⟨-, engaged, was⟩
    · rw [same]
    · exact iff_of_false engaged was)
  lift _ _ _ _ _ h := syncEngaged_law h.2
  lower _ _ _ _ h := syncEngaged_law h.2
  engage _ _ _ _ h := syncEngaged_law h.2
  sync _ h := syncEngaged_law h.2
  target _ _ _ _ h := h
  trim _ _ _ _ _ h := h
  correction _ _ _ _ _ h := h
  phase _ _ _ _ _ _ _ h := h
  raise s c _ h := raiseCause_engagedLaw h c none
  fault s f h := raiseCause_engagedLaw h .fault (some f)
  clear s cs _ h := by
    obtain ⟨p, x, e, n, cleared⟩ := clearCauses_eq s cs
    rw [cleared]
    exact h

/-! ### The three laws together -/

/-- The law of holds, the FAULT law and the law of the engaged indication are kept. -/
structure KeepsLineLaws (s t : State) : Prop where
  lifted : Lifted s → Lifted t
  fault : FaultLaw s → FaultLaw t
  engaged : EngagedLaw s → EngagedLaw t

theorem keepsLineLaws_calm : Calm KeepsLineLaws where
  refl _ := ⟨id, id, id⟩
  trans a b := ⟨b.lifted ∘ a.lifted, b.fault ∘ a.fault, b.engaged ∘ a.engaged⟩
  quiet q := ⟨lifted_calm.quiet q, faultLaw_calm.quiet q, engagedLaw_calm.quiet q⟩
  chan s i c h := ⟨lifted_calm.chan s i c h, faultLaw_calm.chan s i c h, engagedLaw_calm.chan s i c h⟩
  lift s i c h k := ⟨lifted_calm.lift s i c h k, faultLaw_calm.lift s i c h k, engagedLaw_calm.lift s i c h k⟩
  lower s i c h := ⟨lifted_calm.lower s i c h, faultLaw_calm.lower s i c h, engagedLaw_calm.lower s i c h⟩
  engage s i c h := ⟨lifted_calm.engage s i c h, faultLaw_calm.engage s i c h, engagedLaw_calm.engage s i c h⟩
  sync s := ⟨lifted_calm.sync s, faultLaw_calm.sync s, engagedLaw_calm.sync s⟩
  target _ _ _ _ := ⟨id, id, id⟩
  trim _ _ _ _ _ := ⟨id, id, id⟩
  correction _ _ _ _ _ := ⟨id, id, id⟩
  phase _ _ _ _ _ _ _ := ⟨id, id, id⟩
  raise s c h := ⟨lifted_calm.raise s c h, faultLaw_calm.raise s c h, engagedLaw_calm.raise s c h⟩
  fault s f := ⟨lifted_calm.fault s f, faultLaw_calm.fault s f, engagedLaw_calm.fault s f⟩
  clear s cs h := ⟨lifted_calm.clear s cs h, faultLaw_calm.clear s cs h, engagedLaw_calm.clear s cs h⟩

/-- What leaves the hold causes, the first fault reason, the engaged indication with its timer and the channels. -/
theorem KeepsLineLaws.of_same {s t : State} (holds : t.lc.holds = s.lc.holds)
    (first : t.lc.firstFault = s.lc.firstFault) (engaged : t.lc.engaged = s.lc.engaged)
    (standstill : t.lc.standstill = s.lc.standstill) (sc : t.sc = s.sc) : KeepsLineLaws s t :=
  ⟨Lifted.congr holds sc, FaultLaw.congr holds first, EngagedLaw.congr engaged (standstill ▸ id) sc⟩

theorem KeepsLineLaws.of_lc {s t : State} (lc : t.lc = s.lc) (sc : t.sc = s.sc) : KeepsLineLaws s t :=
  .of_same (by rw [lc]) (by rw [lc]) (by rw [lc]) (by rw [lc]) sc

theorem keepsLineLaws_closed : Closed KeepsLineLaws where
  toCalm := keepsLineLaws_calm
  line _ _ _ := .of_same rfl rfl rfl rfl rfl
  enter _ _ := .of_lc rfl rfl
  leave _ := .of_lc rfl rfl

/-- A state with an empty hold set, no fault reason, every screen up and the indication at rest has the laws. -/
theorem KeepsLineLaws.of_rest {s t : State} (holds : t.lc.holds = {}) (first : t.lc.firstFault = none)
    (engaged : t.lc.engaged = false) (standstill : t.lc.standstill = .stopped) (up : NoneDown t) : KeepsLineLaws s t where
  lifted _ := fun _ => up
  fault _ := by rw [FaultLaw, holds, first]; rfl
  engaged _ := ⟨iff_of_false (by simp [engaged]) up.no_engaged, fun _ => standstill⟩

theorem resetChannels_up {s : State} (sc : s.sc = Vector.replicate 16 resetChannel) : NoneDown s := by
  intro i
  have chan : s.chan i = resetChannel := by
    rw [State.chan, sc]
    exact Vector.getElem_replicate i.isLt
  rw [chan]
  exact ⟨nofun, nofun⟩

theorem completeLoad_keepsLineLaws (s : State) (f : Profile) : KeepsLineLaws s (completeLoad s f) := by
  have filled : KeepsLineLaws s (filledLine s f) :=
    .of_rest (by rw [filledLine_lc]; rfl) (by rw [filledLine_lc]; rfl) (by rw [filledLine_lc]; rfl)
      (by rw [filledLine_lc]; rfl) fun i => by rw [filledLine_chan]; exact loadedChannel_idle f i
  have delivered := keepsLineLaws_calm.trans filled (deliverFestoon_closed keepsLineLaws_calm _)
  have ended (t : State) : KeepsLineLaws t (endCommand (judgePermit t)) := .of_same rfl rfl rfl rfl rfl
  exact keepsLineLaws_calm.trans delivered (ended _)

theorem unloadLine_keepsLineLaws (s : State) : KeepsLineLaws s (unloadLine s) := by
  obtain ⟨x, e, b, n, unloaded⟩ := unloadLine_eq s
  rw [unloaded]
  exact .of_rest rfl rfl rfl rfl (resetChannels_up rfl)

theorem resetPart_keepsLineLaws (s : State) (cause : ResetCause) : KeepsLineLaws s (resetPart s cause) :=
  .of_rest rfl rfl rfl rfl (resetChannels_up rfl)

/-! ### CLEAR_FAULT -/

theorem faultChannel_noneDown {s : State} (h : NoneDown s) (i : Station) (r : StationFault) :
    NoneDown (faultChannel s i r) := by
  have faulted : NoneDown (s.setChan i
      { s.chan i with state := .faulted, reason := some r, pendingLower := false, timer := .stopped }) :=
    h.setChan ⟨nofun, nofun⟩
  intro j
  unfold faultChannel
  dsimp only
  rw [syncEngaged_chan, post_chan]
  exact faulted j

theorem clearChannel_noneDown {s : State} (h : NoneDown s) (i : Station) : NoneDown (clearChannel s i) := by
  unfold clearChannel
  split
  next =>
    have lifted : NoneDown (uncapture (s.setChan i { s.chan i with state := .lifted, reason := none }) i) :=
      NoneDown.setChan h ⟨nofun, nofun⟩
    dsimp only
    split
    next => exact faultChannel_noneDown lifted i _
    next => exact lifted
  next => exact h

theorem clearList_noneDown (xs : List Station) {s : State} (h : NoneDown s) : NoneDown (xs.foldl clearChannel s) := by
  induction xs generalizing s with
  | nil => exact h
  | cons i rest ih => exact ih (clearChannel_noneDown h i)

theorem raiseStuck_sc (s : State) : (raiseStuck s).sc = s.sc := by
  unfold raiseStuck
  split <;> rfl

/-- The four steps of CLEAR_FAULT before the set is judged. -/
def recovered (s : State) : State := endSuspension (raiseStuck (clearChannels (dropFault s)))

theorem clearFault_eq (s : State) : clearFault s = judgeSet s.lc.holds.any (recovered s) := rfl

theorem endSuspension_lc (s : State) : (endSuspension s).lc = s.lc := by
  obtain ⟨l, y, x, e, n, ended⟩ := endSuspension_eq s
  rw [ended]

theorem endSuspension_sc (s : State) : (endSuspension s).sc = s.sc := by
  obtain ⟨l, y, x, e, n, ended⟩ := endSuspension_eq s
  rw [ended]

theorem recovered_noneDown {s : State} (h : NoneDown s) : NoneDown (recovered s) := by
  intro i
  rw [State.chan, recovered, endSuspension_sc, raiseStuck_sc]
  exact clearList_noneDown stationList (s := dropFault s) h i

theorem raiseStuck_faultLaw {s : State} (h : FaultLaw s) : FaultLaw (raiseStuck s) := by
  unfold raiseStuck
  split
  next => rfl
  next => exact h

theorem recovered_faultLaw (s : State) : FaultLaw (recovered s) := by
  have dropped : FaultLaw (dropFault s) := rfl
  have stuck := raiseStuck_faultLaw (dropped.sameLine (clearChannels_sameLine (dropFault s)))
  exact stuck.congr (by rw [recovered, endSuspension_lc]) (by rw [recovered, endSuspension_lc])

theorem raiseStuck_engagedLaw {s : State} (h : EngagedLaw s) : EngagedLaw (raiseStuck s) := by
  unfold raiseStuck
  split <;> exact h

theorem recovered_engagedLaw {s : State} (h : EngagedLaw s) : EngagedLaw (recovered s) := by
  have stuck := raiseStuck_engagedLaw (clearChannels_closed engagedLaw_calm (dropFault s) h)
  exact stuck.congr (by rw [recovered, endSuspension_lc]) (by rw [recovered, endSuspension_lc]; exact id)
    (endSuspension_sc _)

theorem holdExit_noneDown {s : State} (h : NoneDown s) (cs : HoldSet) : NoneDown (holdExit s cs) := by
  obtain ⟨x, e, n, exits⟩ := holdExit_eq s cs
  rw [exits]
  exact h

theorem holdExit_faultLaw {s : State} (h : FaultLaw s) (cs : HoldSet) : FaultLaw (holdExit s cs) := by
  obtain ⟨x, e, n, exits⟩ := holdExit_eq s cs
  rw [exits]
  exact h

theorem judgeSet_lifted {s : State} (before : Bool) (h : before = true → NoneDown s) : Lifted (judgeSet before s) := by
  unfold judgeSet
  split
  next held =>
    split
    next => exact fun _ => h held
    next => exact fun _ => holdExit_noneDown (h held) _
  next =>
    split
    next => exact holdEntry_lifted s _
    next clear => exact fun stands => absurd stands clear

theorem judgeSet_faultLaw {s : State} (before : Bool) (h : FaultLaw s) : FaultLaw (judgeSet before s) := by
  unfold judgeSet
  split
  next =>
    split
    next => exact h
    next => exact holdExit_faultLaw h _
  next =>
    split
    next => exact h.congr (holdEntry_holds s _) (holdEntry_firstFault s _)
    next => exact h

theorem judgeSet_engagedLaw {s : State} (before : Bool) (h : EngagedLaw s) : EngagedLaw (judgeSet before s) := by
  unfold judgeSet
  split
  next =>
    split
    next => exact h
    next => exact holdExit_engagedLaw h _
  next =>
    split
    next => exact holdEntry_engagedLaw h.2 _
    next => exact h

theorem clearFault_keepsLineLaws (s : State) : KeepsLineLaws s (clearFault s) where
  lifted h := judgeSet_lifted _ fun held => recovered_noneDown (h held)
  fault _ := judgeSet_faultLaw _ (recovered_faultLaw s)
  engaged h := judgeSet_engagedLaw _ (recovered_engagedLaw h)

/-! ### Every command -/

theorem keepsLineLaws_commands (c : Instr) : Commands c KeepsLineLaws where
  toOpened := keepsLineLaws_closed.opened
  abort s _ := abortEntry_closed keepsLineLaws_closed s
  advance _ opened _ := keepsLineLaws_closed.opened.advanceOne opened (.of_lc rfl rfl)
  turn s d _ := by
    unfold reanchor
    split <;> exact .of_lc rfl rfl
  printDebt _ _ _ _ := .of_lc rfl rfl
  ovenDebt _ _ _ _ := .of_lc rfl rfl
  limit _ := .of_lc rfl rfl
  seamPin _ _ := .of_lc rfl rfl
  sensorPin _ _ k _ := by cases k <;> exact .of_lc rfl rfl
  zone _ _ _ := .of_lc rfl rfl
  reset s cause _ := resetPart_keepsLineLaws s cause
  release _ _ _ := .of_lc rfl rfl
  events _ _ _ := .of_lc rfl rfl
  finish s h host _ _ := by
    obtain ⟨x, e, moved⟩ := moveWord_eq s h host
    rw [moved]
    exact .of_lc rfl rfl
  next s h host g a rest _ _ _ := by
    obtain ⟨x, e, moved⟩ := moveWord_eq s h host
    rw [moved]
    exact .of_lc rfl rfl
  dequeue _ _ _ _ := .of_lc rfl rfl
  begin _ _ _ _ _ _ _ := .of_lc rfl rfl
  lose s h _ _ := by
    obtain ⟨m, n, lost⟩ := lostAccess_eq s h
    rw [lost]
    exact .of_lc rfl rfl
  suspend _ _ _ := .of_lc rfl rfl
  reject s reason item _ := by
    obtain ⟨x, e, n, rejected⟩ := rejectLoad_eq s reason item
    rw [rejected]
    exact .of_same rfl rfl rfl rfl rfl
  complete s w _ _ := completeLoad_keepsLineLaws s _
  endUnload s := by
    obtain ⟨b, x, e, ended⟩ := endUnload_eq s
    rw [ended]
    exact .of_lc rfl rfl
  load _ _ _ := .of_same rfl rfl rfl rfl rfl
  unload s _ _ := unloadLine_keepsLineLaws s
  clearFault s _ := clearFault_keepsLineLaws s
  exbase _ _ _ := .of_lc rfl rfl
  retire _ _ _ := .of_lc rfl rfl

/-- Settles O54: what a command can do keeps the three laws, and the permit rule is judged at every event. -/
theorem lineLawsKept : Obligations.LineLawsKept := by
  unfold Obligations.LineLawsKept
  intro c s t step
  have laws := (keepsLineLaws_commands c).exec step
  refine ⟨fun ⟨permit, hold, fault⟩ => ?_, laws.engaged⟩
  have rule : PermitRule t := (exec_judgesPermit step).permit permit
  exact ⟨rule, (laws.lifted hold.lifted).holdLaw rule, laws.fault fault⟩

end Sys2Proof.Machine
end

section
/-! The festoon, the offsets and phase targets, the positions and the debts over every command. -/

namespace Sys2Proof.Machine

/-! ### Festoon, positions and debts -/

/-- The law of the festoon and the ranges of the positions and debts are kept. -/
structure KeepsTravel (s t : State) : Prop where
  festoon : FestoonLaw s → FestoonLaw t
  position : PositionLaw s → PositionLaw t

theorem Board.keepsTravel {s t : State} (h : Board s t) : KeepsTravel s t where
  festoon law := by
    rw [FestoonLaw, Machine.festoon, h.k, h.p, h.q, h.prof]
    exact law
  position law := by
    rw [PositionLaw, h.p, h.q, h.printDebt, h.ovenDebt]
    exact law

theorem KeepsTravel.of_wt {s t : State} (wt : t.wt = s.wt) (prof : t.prof = s.prof) : KeepsTravel s t where
  festoon law := by
    rw [FestoonLaw, Machine.festoon, wt, prof]
    exact law
  position law := by
    rw [PositionLaw, wt]
    exact law

theorem KeepsTravel.trans {s t u : State} (a : KeepsTravel s t) (b : KeepsTravel t u) : KeepsTravel s u :=
  ⟨b.festoon ∘ a.festoon, b.position ∘ a.position⟩

theorem keepsTravel_offLine : OffLine KeepsTravel where
  refl _ := .of_wt rfl rfl
  trans := .trans
  quiet q := q.board.keepsTravel
  lc _ _ := .of_wt rfl rfl
  sc _ _ := .of_wt rfl rfl
  entry _ _ := .of_wt rfl rfl
  busy _ _ := .of_wt rfl rfl
  target _ _ _ _ := .of_wt rfl rfl
  trim _ _ _ _ _ := .of_wt rfl rfl
  correction _ _ _ _ _ := .of_wt rfl rfl
  phase _ _ _ _ _ _ _ := .of_wt rfl rfl

/-- A Web Tracker at its reset values, K apart, under a profile that takes K's place in the festoon. -/
theorem KeepsTravel.of_rest {s t : State} {k : Nat} (wt : t.wt = { resetTracker with k := k })
    (room : t.prof.tableExit ≤ k) : KeepsTravel s t where
  festoon _ := by
    rw [FestoonLaw, Machine.festoon, wt]
    simp only [resetTracker]
    omega
  position _ := by
    rw [PositionLaw, wt]
    exact ⟨Nat.zero_le _, Nat.zero_le _, Nat.zero_le _, Nat.zero_le _⟩

/-- Re-anchoring makes good what the festoon lacks (R6). -/
theorem reanchor_festoonLaw (s : State) : FestoonLaw (reanchor s) := by
  unfold reanchor deficit
  split
  next none =>
    rw [FestoonLaw]
    omega
  next =>
    simp only [FestoonLaw, festoon]
    omega

/-- An oven advance that the limit leaves (R3, R6). -/
theorem reanchor_keepsTravel (s : State) (d : Nat) (within : d ≤ Config.positionLimit - s.wt.q) :
    KeepsTravel s (reanchor { s with wt.q := s.wt.q + d }) where
  festoon _ := reanchor_festoonLaw _
  position law := by
    obtain ⟨p, q, printDebt, ovenDebt⟩ := travel_eq_iff.mp (reanchor_travel { s with wt.q := s.wt.q + d })
    obtain ⟨hp, hq, hprint, hoven⟩ := law
    rw [PositionLaw, p, q, printDebt, ovenDebt]
    refine ⟨hp, ?_, hprint, hoven⟩
    change s.wt.q + d ≤ Config.positionLimit
    omega

theorem completeLoad_keepsTravel (s : State) (f : Profile) : KeepsTravel s (completeLoad s f) := by
  have filled : KeepsTravel s (filledLine s f) := by
    obtain ⟨v, x, e, n, filled⟩ := filledLine_eq s f
    rw [filled]
    exact .of_rest rfl (Nat.le_add_left _ _)
  exact filled.trans (keepsTravel_offLine.completeLoad s f)

theorem unloadLine_keepsTravel (s : State) : KeepsTravel s (unloadLine s) := by
  obtain ⟨x, e, b, n, unloaded⟩ := unloadLine_eq s
  rw [unloaded]
  exact .of_rest (k := 0) rfl (Nat.le_refl _)

theorem keepsTravel_commands (c : Instr) : Commands c KeepsTravel where
  toOpened := keepsTravel_offLine.closed.opened
  abort s _ := abortEntry_closed keepsTravel_offLine.closed s
  advance s opened ahead := keepsTravel_offLine.closed.opened.advanceOne opened
    { festoon := fun law => by
        simp only [FestoonLaw, Machine.festoon] at law ⊢
        omega
      position := fun ⟨_, q, print, oven⟩ => ⟨ahead, q, print, oven⟩ }
  turn s d within := reanchor_keepsTravel s d within
  printDebt s n x bound :=
    ⟨id, fun ⟨p, q, print, oven⟩ => ⟨p, q, bound.elim (fun less => less.trans print) id, oven⟩⟩
  ovenDebt s n x bound :=
    ⟨id, fun ⟨p, q, print, oven⟩ => ⟨p, q, print, bound.elim (fun less => less.trans oven) id⟩⟩
  limit _ := ⟨id, id⟩
  seamPin _ _ := .of_wt rfl rfl
  sensorPin _ _ k _ := by cases k <;> exact .of_wt rfl rfl
  zone _ _ _ := .of_wt rfl rfl
  reset _ _ _ := .of_rest (k := 0) rfl (Nat.le_refl _)
  release _ _ _ := .of_wt rfl rfl
  events _ _ _ := .of_wt rfl rfl
  finish s h host _ _ := by
    obtain ⟨x, e, moved⟩ := moveWord_eq s h host
    rw [moved]
    exact .of_wt rfl rfl
  next s h host g a rest _ _ _ := by
    obtain ⟨x, e, moved⟩ := moveWord_eq s h host
    rw [moved]
    exact .of_wt rfl rfl
  dequeue _ _ _ _ := .of_wt rfl rfl
  begin _ _ _ _ _ _ _ := .of_wt rfl rfl
  lose s h _ _ := by
    obtain ⟨m, n, lost⟩ := lostAccess_eq s h
    rw [lost]
    exact .of_wt rfl rfl
  suspend _ _ _ := .of_wt rfl rfl
  reject s reason item _ := by
    obtain ⟨x, e, n, rejected⟩ := rejectLoad_eq s reason item
    rw [rejected]
    exact .of_wt rfl rfl
  complete s w _ _ := completeLoad_keepsTravel s _
  endUnload s := by
    obtain ⟨b, x, e, ended⟩ := endUnload_eq s
    rw [ended]
    exact .of_wt rfl rfl
  load _ _ _ := .of_wt rfl rfl
  unload s _ _ := unloadLine_keepsTravel s
  clearFault s _ := keepsTravel_offLine.clearFault (fun _ => .of_wt rfl rfl) s
  exbase _ _ _ := .of_wt rfl rfl
  retire _ _ _ := .of_wt rfl rfl

/-! ### Offsets and phase targets -/

/-- The ranges of one station's offsets and target under a correction range (R89). -/
def PhaseInRange (range : Nat) (p : PhaseStation) : Prop :=
  p.target < 65536 ∧ (-(range : Int) ≤ p.correction ∧ p.correction ≤ (range : Int)) ∧
    (-Config.trimLimit ≤ p.trim ∧ p.trim ≤ Config.trimLimit)

theorem offsetLaw_iff (s : State) : OffsetLaw s ↔ ∀ i : Station, PhaseInRange s.prof.correctionRange (s.phase i) := Iff.rfl

theorem OffsetLaw.setPhase {s : State} {i : Station} {p : PhaseStation} (law : OffsetLaw s)
    (inRange : PhaseInRange s.prof.correctionRange p) : OffsetLaw (s.setPhase i p) := by
  rw [offsetLaw_iff]
  intro j
  by_cases same : i = j
  · subst same
    rw [State.setPhase_phase_self]
    exact inRange
  · rw [State.setPhase_phase_of_ne _ _ _ _ same]
    exact law j

theorem OffsetLaw.congr {s t : State} (stations : t.pu.stations = s.pu.stations) (prof : t.prof = s.prof)
    (law : OffsetLaw s) : OffsetLaw t := by
  intro i
  rw [State.phase, stations, prof]
  exact law i

/-- A phase target is a fraction of 65,536 (R86). -/
theorem targetOf_lt (x : Int) (c : Nat) : targetOf x c < 65536 := by
  unfold targetOf
  rcases Nat.eq_zero_or_pos c with zero | pos
  · simp [zero]
  · have below : x % (c : Int) < c := Int.emod_lt_of_pos _ (by omega)
    have quotient : x % (c : Int) * 65536 / (c : Int) < 65536 := Int.ediv_lt_of_lt_mul (by omega) (by omega)
    omega

theorem keepsOffset_offLine : OffLine (Keeps OffsetLaw) where
  refl _ := id
  trans := Keeps.trans
  quiet q law := law.congr q.stations q.prof
  lc _ _ := id
  sc _ _ := id
  entry _ _ := id
  busy _ _ := id
  target s i x c law := law.setPhase ⟨targetOf_lt x c, (law i).2⟩
  trim s i v low high law := law.setPhase ⟨(law i).1, (law i).2.1, low, high⟩
  correction s i v low high law := law.setPhase ⟨(law i).1, ⟨low, high⟩, (law i).2.2⟩
  phase s i p target trim correction _ law := law.setPhase (by
    rw [PhaseInRange, target, trim, correction]
    exact law i)

/-- Offsets of 0 and a target of 0 are in range under every correction range. -/
theorem phaseInRange_of_zero {range : Nat} {p : PhaseStation} (target : p.target = 0) (correction : p.correction = 0)
    (trim : p.trim = 0) : PhaseInRange range p := by
  rw [PhaseInRange, target, correction, trim]
  exact ⟨by decide, ⟨by omega, by omega⟩, by decide⟩

theorem filledLine_offsetLaw (s : State) (f : Profile) : OffsetLaw (filledLine s f) := by
  have driven : OffsetLaw (takeProfile s f) := by
    refine driveTargets_closed keepsOffset_offLine.closed.toCalm _ ?_
    rw [offsetLaw_iff]
    intro i
    have loaded := get_stationTable (loadedPhase f) rfl i
    rw [State.phase, loaded, loadedPhase]
    split <;> exact phaseInRange_of_zero rfl rfl rfl
  exact driven.congr (by rw [filledLine, post_pu]) (by rw [filledLine, post_prof])

theorem completeLoad_offsetLaw (s : State) (f : Profile) : OffsetLaw (completeLoad s f) :=
  keepsOffset_offLine.completeLoad s f (filledLine_offsetLaw s f)

theorem resetPhases_offsetLaw {s : State} (pu : s.pu = resetPhaseUnit) : OffsetLaw s := by
  rw [offsetLaw_iff]
  intro i
  have phase : s.phase i = resetPhaseStation := by
    rw [State.phase, pu]
    exact Vector.getElem_replicate i.isLt
  rw [phase]
  exact phaseInRange_of_zero rfl rfl rfl

theorem keepsOffset_commands (c : Instr) : Commands c (Keeps OffsetLaw) where
  toOpened := keepsOffset_offLine.closed.opened
  abort s _ := abortEntry_closed keepsOffset_offLine.closed s
  advance _ opened _ := keepsOffset_offLine.closed.opened.advanceOne opened id
  turn s d _ := by
    unfold reanchor
    split <;> exact id
  printDebt _ _ _ _ := id
  ovenDebt _ _ _ _ := id
  limit _ := id
  seamPin _ _ := id
  sensorPin _ _ k _ := by cases k <;> exact id
  zone _ _ _ := id
  reset _ _ _ _ := resetPhases_offsetLaw rfl
  release _ _ _ := id
  events _ _ _ := id
  finish s h host _ _ := by
    obtain ⟨x, e, moved⟩ := moveWord_eq s h host
    rw [moved]
    exact id
  next s h host g a rest _ _ _ := by
    obtain ⟨x, e, moved⟩ := moveWord_eq s h host
    rw [moved]
    exact id
  dequeue _ _ _ _ := id
  begin _ _ _ _ _ _ _ := id
  lose s h _ _ := by
    obtain ⟨m, n, lost⟩ := lostAccess_eq s h
    rw [lost]
    exact id
  suspend _ _ _ := id
  reject s reason item _ := by
    obtain ⟨x, e, n, rejected⟩ := rejectLoad_eq s reason item
    rw [rejected]
    exact id
  complete s w _ _ _ := completeLoad_offsetLaw s _
  endUnload s := by
    obtain ⟨b, x, e, ended⟩ := endUnload_eq s
    rw [ended]
    exact id
  load _ _ _ := id
  unload s _ _ _ := by
    obtain ⟨x, e, b, n, unloaded⟩ := unloadLine_eq s
    rw [unloaded]
    exact resetPhases_offsetLaw rfl
  clearFault s _ := keepsOffset_offLine.clearFault (fun _ => id) s
  exbase _ _ _ := id
  retire _ _ _ := id

/-- Settles O56, each law by what a command can do to the state. -/
theorem festoonOffsetAndPositionLawsKept : Obligations.FestoonOffsetAndPositionLawsKept := by
  unfold Obligations.FestoonOffsetAndPositionLawsKept
  intro c s t step
  have travels := (keepsTravel_commands c).exec step
  exact ⟨travels.festoon, (keepsOffset_commands c).exec step, travels.position⟩

end Sys2Proof.Machine
end

section
/-! The report ring, board memory, EXBASE and the suspension of the exchange interface over every command. -/

namespace Sys2Proof.Machine

/-! ### The ring -/

/-- How many records one write ends. -/
def endsOf (a : Access) : Nat := if a.mark = .plain then 0 else 1

theorem recordEnds_cons (a : Access) (as : List Access) : recordEnds (a :: as) = endsOf a + recordEnds as := by
  unfold recordEnds endsOf
  by_cases plain : a.mark = .plain
  · simp [plain]
  · simp [plain, Nat.add_comm]

theorem endsAhead_idle {x : ExchangeInterface} (idle : x.inHand = none) : endsAhead x = 0 := by
  unfold endsAhead
  rw [idle]

theorem endsAhead_held {x : ExchangeInterface} {h : InHand} (held : x.inHand = some h) :
    endsAhead x = endsOf h.access + recordEnds h.rest := by
  unfold endsAhead
  rw [held]
  exact recordEnds_cons _ _

/-- One record more takes one slot at most. -/
theorem ringUsed_succ (w r : BitVec 16) : (w + 1#16 - r).toNat ≤ (w - r).toNat + 1 := by bv_omega

/-- An accepted retire count frees what it retires (R165). -/
theorem ringUsed_retired {w r h : BitVec 16} (accepted : (h - r).toNat ≤ (w - r).toNat) :
    (w - h).toNat ≤ (w - r).toNat := by bv_omega

/-- The end of an access moves the ring by the record that it ends, and leaves the queue and the suspension (R163). -/
theorem moveWord_xi (s : State) (h : InHand) (host : Option Word) :
    ringUsed (moveWord s h host).xi ≤ ringUsed s.xi + endsOf h.access ∧
      (moveWord s h host).xi.suspended = s.xi.suspended := by
  unfold moveWord markWrite endsOf
  cases h.access.mark with
  | plain => exact ⟨Nat.le_refl _, rfl⟩
  | recordDone => exact ⟨ringUsed_succ _ _, rfl⟩
  | gapDone => exact ⟨ringUsed_succ _ _, rfl⟩

/-! ### The ring and the suspension -/

/-- The room of the ring and the law of a suspended interface are kept. -/
structure KeepsExchange (s t : State) : Prop where
  ring : RingRoom s → RingRoom t
  suspension : SuspensionLaw s → SuspensionLaw t

theorem KeepsExchange.of_xi {s t : State} (xi : t.xi = s.xi) : KeepsExchange s t where
  ring room := by
    rw [RingRoom, xi]
    exact room
  suspension law := by
    rw [SuspensionLaw, xi]
    exact law

theorem KeepsExchange.trans {s t u : State} (a : KeepsExchange s t) (b : KeepsExchange t u) : KeepsExchange s u :=
  ⟨b.ring ∘ a.ring, b.suspension ∘ a.suspension⟩

theorem Quiet.keepsExchange {s t : State} (q : Quiet s t) : KeepsExchange s t where
  ring room := by
    rw [RingRoom, ringUsed, q.written, q.retired, q.ahead]
    exact room
  suspension := q.suspension

theorem keepsExchange_offLine : OffLine KeepsExchange where
  refl _ := .of_xi rfl
  trans := .trans
  quiet := Quiet.keepsExchange
  lc _ _ := .of_xi rfl
  sc _ _ := .of_xi rfl
  entry _ _ := .of_xi rfl
  busy _ _ := .of_xi rfl
  target _ _ _ _ := .of_xi rfl
  trim _ _ _ _ _ := .of_xi rfl
  correction _ _ _ _ _ := .of_xi rfl
  phase _ _ _ _ _ _ _ := .of_xi rfl

/-- An exchange interface at its reset values, a waiting queue apart. -/
theorem KeepsExchange.of_reset {s t : State} {q : List Transaction} (xi : t.xi = { resetExchange with queue := q }) :
    KeepsExchange s t where
  ring _ := by
    rw [RingRoom, xi]
    change (0#16 - 0#16).toNat + 0 ≤ Config.ringSlots
    decide
  suspension _ := suspensionLaw_of_not (by rw [xi]; exact Bool.false_ne_true)

/-- No suspended interface has a transaction in hand. -/
theorem SuspensionLaw.serves {s : State} {h : InHand} (law : SuspensionLaw s) (held : s.xi.inHand = some h) :
    ¬s.xi.suspended = true := fun suspended => by
  obtain ⟨-, idle, -⟩ := law suspended
  rw [held] at idle
  cases idle

theorem finish_keepsExchange {s : State} {h : InHand} (host : Option Word) (held : s.xi.inHand = some h) :
    KeepsExchange s (freePort (moveWord s h host)) := by
  obtain ⟨moved, suspended⟩ := moveWord_xi s h host
  refine ⟨fun room => ?_, fun law => suspensionLaw_of_not ?_⟩
  · rw [RingRoom, endsAhead_held held] at room
    rw [RingRoom, endsAhead_idle rfl]
    change ringUsed (moveWord s h host).xi + 0 ≤ Config.ringSlots
    omega
  · change ¬(moveWord s h host).xi.suspended = true
    rw [suspended]
    exact law.serves held

theorem next_keepsExchange {s : State} {h : InHand} (host : Option Word) (held : s.xi.inHand = some h) (g : InHand)
    {a : Access} {rest : List Access} (known : recordEnds (a :: rest) ≤ recordEnds h.rest) :
    KeepsExchange s (beginAccess (moveWord s h host) g a rest) := by
  obtain ⟨moved, suspended⟩ := moveWord_xi s h host
  refine ⟨fun room => ?_, fun law => suspensionLaw_of_not ?_⟩
  · rw [RingRoom, endsAhead_held held] at room
    change ringUsed (moveWord s h host).xi + recordEnds (a :: rest) ≤ Config.ringSlots
    omega
  · change ¬(moveWord s h host).xi.suspended = true
    rw [suspended]
    exact law.serves held

theorem begin_keepsExchange {s : State} (h : InHand) {a : Access} {rest : List Access} (serves : s.xi.suspended = false)
    (fits : recordEnds (a :: rest) = 0 ∨ ringUsed s.xi + recordEnds (a :: rest) ≤ Config.ringSlots) :
    KeepsExchange s (beginAccess s h a rest) where
  ring room := by
    rw [RingRoom] at room
    change ringUsed s.xi + recordEnds (a :: rest) ≤ Config.ringSlots
    omega
  suspension _ := suspensionLaw_of_not (by
    change ¬s.xi.suspended = true
    rw [serves]
    exact Bool.false_ne_true)

theorem lose_keepsExchange {s : State} {h : InHand} (held : s.xi.inHand = some h) :
    KeepsExchange s (freePort (lostAccess s h)) := by
  obtain ⟨m, n, lost⟩ := lostAccess_eq s h
  rw [lost]
  refine ⟨fun room => ?_, fun law => suspensionLaw_of_not (law.serves held)⟩
  exact Nat.le_of_add_right_le room

theorem endUnload_keepsExchange (s : State) : KeepsExchange s (endUnload s) := by
  unfold endUnload
  split
  next => exact .of_reset (q := []) rfl
  next => exact .of_xi rfl

theorem rejectLoad_keepsExchange (s : State) (reason item : Nat) : KeepsExchange s (rejectLoad s reason item) :=
  .trans (.trans (t := setLine s .unloaded) (.of_xi rfl) (post_quiet _ _).keepsExchange) (.of_xi rfl)

theorem takeProfile_xi (s : State) (f : Profile) : (takeProfile s f).xi = s.xi := by
  unfold takeProfile
  rw [driveTargets_xi]

theorem completeLoad_keepsExchange (s : State) (f : Profile) : KeepsExchange s (completeLoad s f) := by
  have taken : KeepsExchange s { takeProfile s f with lc.line := .ready } := .of_xi (by simp only [takeProfile_xi])
  exact (taken.trans (post_quiet _ _).keepsExchange).trans (keepsExchange_offLine.completeLoad s f)

theorem dropFabric_keepsExchange (s : State) : KeepsExchange s (dropFabric s) := by
  unfold dropFabric
  split
  next r _ => exact .trans (settleExit_closed keepsExchange_offLine.closed.toCalm s r) (.of_xi rfl)
  next => exact .of_xi rfl

theorem abandonOrders_keepsExchange (s : State) : KeepsExchange s (abandonOrders s) := by
  have abandoned := keepsExchange_offLine.closed.toCalm.foldl (f := abandonOrder)
    (fun t r => (handOver_quiet t _).keepsExchange) (s.os.table.filter fun r => !r.closing) s
  exact .trans (abandoned.trans (discardReads_quiet _).keepsExchange) (.of_xi rfl)

theorem closeLine_keepsExchange (s : State) : KeepsExchange s (closeLine s) := by
  have posted : KeepsExchange s (unloadHoldOff s) := by
    unfold unloadHoldOff
    split
    next => exact (post_quiet _ _).keepsExchange
    next => exact .of_xi rfl
  exact posted.trans (.of_xi rfl)

theorem unloadLine_keepsExchange (s : State) : KeepsExchange s (unloadLine s) :=
  have dropped : KeepsExchange s (dropFabric { s with busy := true }) :=
    .trans (t := { s with busy := true }) (.of_xi rfl) (dropFabric_keepsExchange _)
  have reset (t : State) : KeepsExchange t (resetBlocks t) := .of_xi rfl
  (dropped.trans (abandonOrders_keepsExchange _)).trans <|
    (reset _).trans ((closeLine_keepsExchange _).trans (endUnload_keepsExchange _))

theorem retire_keepsExchange {s : State} {h : BitVec 16} (accepted : retireAccepted s h = true) :
    KeepsExchange s { s with xi.retired := h } := by
  simp only [retireAccepted, Bool.and_eq_true, decide_eq_true_eq] at accepted
  have freed := ringUsed_retired accepted.2
  refine ⟨fun room => ?_, id⟩
  rw [RingRoom, ringUsed] at room ⊢
  change (s.xi.written - h).toNat + endsAhead s.xi ≤ Config.ringSlots
  omega

theorem keepsExchange_commands (c : Instr) : Commands c KeepsExchange where
  toOpened := keepsExchange_offLine.closed.opened
  abort s _ := abortEntry_closed keepsExchange_offLine.closed s
  advance _ opened _ := keepsExchange_offLine.closed.opened.advanceOne opened (.of_xi rfl)
  turn s d _ := by
    unfold reanchor
    split <;> exact .of_xi rfl
  printDebt _ _ _ _ := .of_xi rfl
  ovenDebt _ _ _ _ := .of_xi rfl
  limit _ := .of_xi rfl
  seamPin _ _ := .of_xi rfl
  sensorPin _ _ k _ := by cases k <;> exact .of_xi rfl
  zone _ _ _ := .of_xi rfl
  reset _ _ _ := .of_reset (q := []) rfl
  release _ _ _ := .of_xi rfl
  events _ _ _ := .of_xi rfl
  finish _ _ host _ held := finish_keepsExchange host held
  next _ _ host g _ _ _ held known := next_keepsExchange host held g known
  dequeue s t rest queued := ⟨id, fun law => suspensionLaw_of_not fun suspended => by
    obtain ⟨empty, -, -⟩ := law suspended
    rw [queued] at empty
    cases empty⟩
  begin _ h _ _ _ serves fits := begin_keepsExchange h serves fits
  lose _ _ _ held := lose_keepsExchange held
  suspend _ _ idle := ⟨id, fun _ _ => ⟨rfl, idle, rfl⟩⟩
  reject s reason item _ := rejectLoad_keepsExchange s reason item
  complete s w _ _ := completeLoad_keepsExchange s _
  endUnload := endUnload_keepsExchange
  load _ _ _ := .of_reset rfl
  unload s _ _ := unloadLine_keepsExchange s
  clearFault s _ := keepsExchange_offLine.clearFault
    (fun t => ⟨id, fun _ => suspensionLaw_of_not (s := { t with xi.suspended := false, xi.held := none }) nofun⟩) s
  exbase _ _ _ := .of_xi rfl
  retire _ _ accepted := retire_keepsExchange accepted

/-! ### Board memory and EXBASE -/

/-- Board memory keeps its form; only the end of a memory access writes it, and only an EXBASE write or a reset moves EXBASE. -/
structure KeepsStores (c : Instr) (s t : State) : Prop where
  form : MemoryLaw s → MemoryLaw t
  mem : (∀ host, c ≠ .memoryAccessDone host) → c ≠ .memoryAccessTimeout → t.mem = s.mem
  exbase : (∀ v, c ≠ .exbaseWrite v) → (∀ r, c ≠ .reset r) → t.exbase = s.exbase

variable {c : Instr}

theorem KeepsStores.of_same {s t : State} (mem : t.mem = s.mem) (exbase : t.exbase = s.exbase) : KeepsStores c s t where
  form law := by
    rw [MemoryLaw, mem]
    exact law
  mem _ _ := mem
  exbase _ _ := exbase

theorem KeepsStores.trans {s t u : State} (a : KeepsStores c s t) (b : KeepsStores c t u) : KeepsStores c s u where
  form := b.form ∘ a.form
  mem done timeout := (b.mem done timeout).trans (a.mem done timeout)
  exbase write reset := (b.exbase write reset).trans (a.exbase write reset)

theorem keepsStores_offLine : OffLine (KeepsStores c) where
  refl _ := .of_same rfl rfl
  trans := .trans
  quiet q := .of_same q.mem q.exbase
  lc _ _ := .of_same rfl rfl
  sc _ _ := .of_same rfl rfl
  entry _ _ := .of_same rfl rfl
  busy _ _ := .of_same rfl rfl
  target _ _ _ _ := .of_same rfl rfl
  trim _ _ _ _ _ := .of_same rfl rfl
  correction _ _ _ _ _ := .of_same rfl rfl
  phase _ _ _ _ _ _ _ := .of_same rfl rfl

theorem accessMemory_wf {m : Memory} (form : Memory.wf m = true) (h : InHand) (host : Option Word) :
    Memory.wf (accessMemory m h host) = true := by
  unfold accessMemory
  split
  next => exact writeWord_wf _ _ _ form
  next => exact writeWord_wf _ _ _ form
  next => exact form

theorem lostAccess_form {s : State} (law : MemoryLaw s) (h : InHand) : MemoryLaw (lostAccess s h) := by
  unfold lostAccess
  split
  next w _ =>
    rw [MemoryLaw]
    dsimp only
    split
    next => exact writeWord_wf _ _ _ law
    next => exact law
  next => exact law

/-- What the end of an access leaves at memory and EXBASE. -/
theorem KeepsStores.of_done {s t : State} {h : InHand} {host : Option Word} (done : c = .memoryAccessDone host)
    (mem : t.mem = accessMemory s.mem h host) (exbase : t.exbase = s.exbase) : KeepsStores c s t where
  form law := by
    rw [MemoryLaw, mem]
    exact accessMemory_wf law h host
  mem other _ := absurd done (other host)
  exbase _ _ := exbase

theorem keepsStores_commands (c : Instr) : Commands c (KeepsStores c) where
  toOpened := keepsStores_offLine.closed.opened
  abort s _ := abortEntry_closed keepsStores_offLine.closed s
  advance _ opened _ := keepsStores_offLine.closed.opened.advanceOne opened (.of_same rfl rfl)
  turn s d _ := by
    unfold reanchor
    split <;> exact .of_same rfl rfl
  printDebt _ _ _ _ := .of_same rfl rfl
  ovenDebt _ _ _ _ := .of_same rfl rfl
  limit _ := .of_same rfl rfl
  seamPin _ _ := .of_same rfl rfl
  sensorPin _ _ k _ := by cases k <;> exact .of_same rfl rfl
  zone _ _ _ := .of_same rfl rfl
  reset s cause reset := ⟨id, fun _ _ => rfl, fun _ other => absurd reset (other cause)⟩
  release _ _ _ := .of_same rfl rfl
  events _ _ _ := .of_same rfl rfl
  finish s h host done _ := by
    obtain ⟨x, e, moved⟩ := moveWord_eq s h host
    rw [moved]
    exact .of_done done rfl rfl
  next s h host g a rest done _ _ := by
    obtain ⟨x, e, moved⟩ := moveWord_eq s h host
    rw [moved]
    exact .of_done done rfl rfl
  dequeue _ _ _ _ := .of_same rfl rfl
  begin _ _ _ _ _ _ _ := .of_same rfl rfl
  lose s h timeout _ := by
    refine ⟨fun law => lostAccess_form law h, fun _ other => absurd timeout other, fun _ _ => ?_⟩
    obtain ⟨m, n, lost⟩ := lostAccess_eq s h
    rw [lost]
    rfl
  suspend _ _ _ := .of_same rfl rfl
  reject s reason item _ := by
    obtain ⟨x, e, n, rejected⟩ := rejectLoad_eq s reason item
    rw [rejected]
    exact .of_same rfl rfl
  complete s w _ _ := by
    have filled : KeepsStores c s (filledLine s (profileOf w)) := by
      obtain ⟨v, x, e, n, filled⟩ := filledLine_eq s (profileOf w)
      rw [filled]
      exact .of_same rfl rfl
    exact filled.trans (keepsStores_offLine.completeLoad s _)
  endUnload s := by
    obtain ⟨b, x, e, ended⟩ := endUnload_eq s
    rw [ended]
    exact .of_same rfl rfl
  load _ _ _ := .of_same rfl rfl
  unload s _ _ := by
    obtain ⟨x, e, b, n, unloaded⟩ := unloadLine_eq s
    rw [unloaded]
    exact .of_same rfl rfl
  clearFault s _ := keepsStores_offLine.clearFault (fun _ => .of_same rfl rfl) s
  exbase s v write := ⟨id, fun _ _ => rfl, fun other _ => absurd write (other v)⟩
  retire _ _ _ := .of_same rfl rfl

/-- Settles O57: the exchange interface and the stores over what a command can do. -/
theorem ringAndMemoryLawsKept : Obligations.RingAndMemoryLawsKept := by
  unfold Obligations.RingAndMemoryLawsKept
  intro c s t step
  have exchange := (keepsExchange_commands c).exec step
  have stores := (keepsStores_commands c).exec step
  refine ⟨fun room => ⟨exchange.ring room, Nat.le_of_add_right_le (exchange.ring room)⟩, stores.form,
    exchange.suspension, fun done timeout a => ?_, stores.exbase⟩
  rw [stores.mem done timeout]

end Sys2Proof.Machine
end

section
/-! The web map and the length cause of a cut over every command. -/

namespace Sys2Proof.Machine

/-! ### The length cause lies ahead -/

/-- The length cause lies ahead of P (R8). -/
def LengthAhead (s : State) : Prop :=
  0 < s.prof.segmentLength ∧ s.wt.p < s.wt.lastCut + s.prof.segmentLength

theorem Board.lengthAhead {s t : State} (b : Board s t) (h : LengthAhead s) : LengthAhead t := by
  obtain ⟨long, ahead⟩ := h
  rw [LengthAhead, b.prof, b.p]
  exact ⟨long, Nat.lt_of_lt_of_le ahead (Nat.add_le_add_right b.cut _)⟩

theorem lengthAhead_offLine : OffLine (Keeps LengthAhead) where
  refl _ := id
  trans := Keeps.trans
  quiet q := q.board.lengthAhead
  lc _ _ := id
  sc _ _ := id
  entry _ _ := id
  busy _ _ := id
  target _ _ _ _ := id
  trim _ _ _ _ _ := id
  correction _ _ _ _ _ := id
  phase _ _ _ _ _ _ _ := id

/-- A closed stretch leaves P at the last cut (R8, R9). -/
theorem closeStretch_cut (s : State) : (closeStretch s).wt.p ≤ (closeStretch s).wt.lastCut := by
  have recorded (ahead : s.wt.lastCut < s.wt.p) : s.wt.p ≤ (recordStretch s).wt.lastCut := by
    unfold recordStretch
    split
    next => exact (refuseRecord_closed board_calm { s with wt.lastCut := s.wt.p }).cut
    next =>
      rw [makeRecord_wt]
  unfold closeStretch
  split
  next behind => exact behind
  next ahead =>
    dsimp only
    have ahead := Nat.lt_of_not_le ahead
    have met (t : State) (x : Stretch) : Board t (meetStations (addStretch t x)) :=
      board_calm.trans (addStretch_closed board_calm t x) (meetStations_closed board_calm _)
    rw [(met _ _).p, (recordStretch_closed board_calm s ahead).p]
    exact (recorded ahead).trans (met _ _).cut

/-- The cut actor leaves the length cause ahead of P. -/
theorem meetCut_lengthAhead {s : State} (long : 0 < s.prof.segmentLength) : LengthAhead (meetCut s) := by
  unfold meetCut
  split
  next none =>
    simp only [cutDue, Bool.not_eq_true', Bool.or_eq_false_iff, decide_eq_false_iff_not, Nat.not_le] at none
    exact ⟨long, none.1⟩
  next =>
    refine (board_calm.foldl (cutEffect_closed board_closed) _ _).lengthAhead ?_
    have closed := closeStretch_closed board_calm s
    have cut := closeStretch_cut s
    refine ⟨closed.prof ▸ long, ?_⟩
    change (closeStretch s).wt.p < (closeStretch s).wt.lastCut + (closeStretch s).prof.segmentLength
    rw [closed.prof]
    omega

theorem mem_insertActor (key : Actor → Nat) (a x : Actor) (as : List Actor) :
    x ∈ insertActor key a as ↔ x = a ∨ x ∈ as := by
  induction as with
  | nil => simp [insertActor]
  | cons b rest ih =>
    unfold insertActor
    split
    next =>
      simp only [List.mem_cons, ih]
      tauto
    next => simp only [List.mem_cons]

/-- The free order of the actors due names each of them (R1; log entry 6). -/
theorem mem_orderOfActors (draw : Nat) (x : Actor) (due : List Actor) : x ∈ orderOfActors draw due ↔ x ∈ due := by
  have sorted (as acc : List Actor) :
      x ∈ as.foldl (fun acc a => insertActor (fun y => Config.tieKey draw y.code) a acc) acc ↔ x ∈ as ∨ x ∈ acc := by
    induction as generalizing acc with
    | nil => simp
    | cons a rest ih =>
      rw [List.foldl_cons, ih, mem_insertActor, List.mem_cons]
      tauto
  rw [orderOfActors, sorted]
  simp

/-- Any run of the actors that has the cut actor in it leaves the length cause ahead of P. -/
theorem acts_lengthAhead {as : List Actor} (cut : Actor.cut ∈ as) {s : State} (long : 0 < s.prof.segmentLength) :
    LengthAhead (as.foldl act s) := by
  induction as generalizing s with
  | nil => cases cut
  | cons a rest ih =>
    have acted := act_closed board_closed s a
    rcases List.mem_cons.mp cut with here | later
    · subst here
      exact (board_calm.foldl (act_closed board_closed) rest _).lengthAhead (meetCut_lengthAhead long)
    · exact ih later (acted.prof ▸ long)

/-- Every threshold met at one µm: the length cause is due, and the cut is made, or it lies ahead (R1, R8). -/
theorem meetThresholds_lengthAhead {s : State} (long : 0 < s.prof.segmentLength) : LengthAhead (meetThresholds s) := by
  by_cases due : cutDue s = true
  · have listed : Actor.cut ∈ actorList.filter (actorDue s) := List.mem_filter.mpr ⟨by decide, due⟩
    unfold meetThresholds
    split
    next none =>
      rw [none] at listed
      cases listed
    next a only =>
      rw [only] at listed
      exact acts_lengthAhead (as := [a]) listed long
    next => exact acts_lengthAhead ((mem_orderOfActors _ _ _).mpr listed) long
  · refine meetThresholds_closed lengthAhead_offLine.closed s ⟨long, ?_⟩
    simp only [cutDue, Bool.not_eq_true, Bool.or_eq_false_iff, decide_eq_false_iff_not, Nat.not_le] at due
    exact due.1

/-! ### The web map -/

theorem mapLaw_offLine : OffLine (Keeps MapLaw) where
  refl _ := id
  trans := Keeps.trans
  quiet q := q.map
  lc _ _ := id
  sc _ _ := id
  entry _ _ := id
  busy _ _ := id
  target _ _ _ _ := id
  trim _ _ _ _ _ := id
  correction _ _ _ _ _ := id
  phase _ _ _ _ _ _ _ := id

theorem serialsRun_empty : SerialsRun 1 [] := ⟨by simp, Nat.zero_lt_one, by norm_num⟩

/-- An empty map with the first serial still to be given (R11, R19). -/
theorem mapLaw_of_empty {s : State} {k : Nat} (wt : s.wt = { resetTracker with k := k }) : MapLaw s := by
  rw [MapLaw, wt]
  exact ⟨Nat.zero_le _, serialsRun_empty, by simp [resetTracker], Nat.zero_le _⟩

/-- The law of the web map with the length cause ahead of P in an open line. -/
def MapLaws (s : State) : Prop := MapLaw s ∧ CutAhead s

/-- The length cause stays ahead where no count is taken and the line, if it was shut, stays shut. -/
theorem CutAhead.of_lengthAhead {s t : State} (opens : lineOpen t = true → lineOpen s = true)
    (ahead : LengthAhead s → LengthAhead t) (h : CutAhead s) : CutAhead t := fun opened => ahead (h (opens opened))

theorem keepsMapLaws_of {s t : State} (map : Keeps MapLaw s t) (ahead : Keeps LengthAhead s t)
    (line : t.lc.line = s.lc.line) : Keeps MapLaws s t := fun ⟨law, cut⟩ =>
  ⟨map law, cut.of_lengthAhead (fun opened => (lineOpen_of_line line).symm.trans opened) ahead⟩

/-- From an open line the line state is free. -/
theorem keepsMapLaws_of_open {s t : State} (opened : lineOpen s = true) (map : Keeps MapLaw s t)
    (ahead : Keeps LengthAhead s t) : Keeps MapLaws s t := fun ⟨law, cut⟩ =>
  ⟨map law, cut.of_lengthAhead (fun _ => opened) ahead⟩

/-- A shut line asks nothing of the length cause. -/
theorem keepsMapLaws_of_shut {s t : State} (map : Keeps MapLaw s t) (shut : lineOpen t = false) :
    Keeps MapLaws s t := fun ⟨law, _⟩ => ⟨map law, fun opened => by rw [shut] at opened; cases opened⟩

theorem mapLaws_of_calm {s t : State} (h : ∀ R : State → State → Prop, Calm R → R s t) : Keeps MapLaws s t :=
  keepsMapLaws_of (h _ mapLaw_offLine.closed.toCalm) (h _ lengthAhead_offLine.closed.toCalm) (h _ keepsLine_calm)

theorem keepsMapLaws_calm : Calm (Keeps MapLaws) where
  refl _ := id
  trans := Keeps.trans
  quiet q := mapLaws_of_calm fun _ C => C.quiet q
  chan s i c h := mapLaws_of_calm fun _ C => C.chan s i c h
  lift s i c h k := mapLaws_of_calm fun _ C => C.lift s i c h k
  lower s i c h := mapLaws_of_calm fun _ C => C.lower s i c h
  engage s i c h := mapLaws_of_calm fun _ C => C.engage s i c h
  sync s := mapLaws_of_calm fun _ C => C.sync s
  target s i x c := mapLaws_of_calm fun _ C => C.target s i x c
  trim s i v h k := mapLaws_of_calm fun _ C => C.trim s i v h k
  correction s i v h k := mapLaws_of_calm fun _ C => C.correction s i v h k
  phase s i p a b c d := mapLaws_of_calm fun _ C => C.phase s i p a b c d
  raise s c h := mapLaws_of_calm fun _ C => C.raise s c h
  fault s f := mapLaws_of_calm fun _ C => C.fault s f
  clear s cs h := mapLaws_of_calm fun _ C => C.clear s cs h

theorem keepsMapLaws_opened : Opened (Keeps MapLaws) where
  toCalm := keepsMapLaws_calm
  starve s r opened := keepsMapLaws_of_open opened (starve_closed mapLaw_offLine.closed s r)
    (starve_closed lengthAhead_offLine.closed s r)
  take s o late opened := keepsMapLaws_of_open opened (takeOrder_closed mapLaw_offLine.closed s o late)
    (takeOrder_closed lengthAhead_offLine.closed s o late)

/-- One µm of a print advance: the length cause was ahead of P, so P reaches it at most (R1, R8). -/
theorem advanceOne_mapLaws (s : State) (opened : lineOpen s = true) : Keeps MapLaws s (advanceOne s) := by
  rintro ⟨⟨room, serials, records, -⟩, cut⟩
  obtain ⟨long, ahead⟩ := cut opened
  have moved : MapLaw { s with wt.p := s.wt.p + 1, cp := detectorTravel s.cp } := ⟨room, serials, records, ahead⟩
  have met : LengthAhead (advanceOne s) := meetThresholds_lengthAhead (s := { s with
    wt.p := s.wt.p + 1, cp := detectorTravel s.cp }) long
  exact ⟨meetThresholds_closed mapLaw_offLine.closed _ moved, fun _ => met⟩

/-- A profile that passes the check has a segment length (R173, item 1). -/
theorem segmentLength_pos {w : Nat → Word} (passed : profileFault w = none) : 0 < (profileOf w).segmentLength := by
  have first : fieldRangeFault w = none := by
    cases item : fieldRangeFault w with
    | none => rfl
    | some n =>
      unfold profileFault at passed
      simp only [item, tagFault, Option.map_some] at passed
      cases passed
  have general : generalRanges.findSome? (fun (i, lo, hi) => if outside (w i).toNat lo hi then some i else none) = none := by
    unfold fieldRangeFault at first
    simp only [Option.orElse_eq_orElse, Option.orElse_eq_or, Option.or_eq_none_iff] at first
    exact first.1
  have length := List.findSome?_eq_none_iff.mp general (0x02, 50, 1000) (by decide)
  simp only [outside, ite_eq_right_iff, reduceCtorEq, imp_false, Bool.or_eq_true, decide_eq_true_eq, not_or, not_lt] at length
  change 0 < (w 0x02).toNat * 1000
  omega

theorem completeLoad_mapLaws (s : State) {w : Nat → Word} (passed : profileFault w = none) :
    Keeps MapLaws s (completeLoad s (profileOf w)) := by
  intro _
  obtain ⟨v, x, e, n, filled⟩ := filledLine_eq s (profileOf w)
  refine ⟨mapLaw_offLine.completeLoad s _ ?_, fun _ => lengthAhead_offLine.completeLoad s _ ?_⟩
  · rw [filled]
    exact mapLaw_of_empty rfl
  · rw [filled]
    have long := segmentLength_pos passed
    exact ⟨long, Nat.lt_of_lt_of_eq long (Nat.zero_add _).symm⟩

theorem mapLaws_commands (c : Instr) : Commands c (Keeps MapLaws) where
  toOpened := keepsMapLaws_opened
  abort s line := keepsMapLaws_of_open (by simp [lineOpen, line]) (abortEntry_closed mapLaw_offLine.closed s)
    (abortEntry_closed lengthAhead_offLine.closed s)
  advance s opened _ := advanceOne_mapLaws s opened
  turn s d _ := by
    unfold reanchor
    split <;> exact id
  printDebt _ _ _ _ := id
  ovenDebt _ _ _ _ := id
  limit _ := id
  seamPin _ _ := id
  sensorPin _ _ k _ := by cases k <;> exact id
  zone _ _ _ := id
  reset s cause _ := keepsMapLaws_of_shut (fun _ => mapLaw_of_empty (k := 0) rfl) rfl
  release _ _ _ := id
  events _ _ _ := id
  finish s h host _ _ := by
    obtain ⟨x, e, moved⟩ := moveWord_eq s h host
    rw [moved]
    exact id
  next s h host g a rest _ _ _ := by
    obtain ⟨x, e, moved⟩ := moveWord_eq s h host
    rw [moved]
    exact id
  dequeue _ _ _ _ := id
  begin _ _ _ _ _ _ _ := id
  lose s h _ _ := by
    obtain ⟨m, n, lost⟩ := lostAccess_eq s h
    rw [lost]
    exact id
  suspend _ _ _ := id
  reject s reason item _ := by
    obtain ⟨x, e, n, rejected⟩ := rejectLoad_eq s reason item
    rw [rejected]
    exact keepsMapLaws_of_shut id rfl
  complete s w _ passed := completeLoad_mapLaws s passed
  endUnload s := by
    obtain ⟨b, x, e, ended⟩ := endUnload_eq s
    rw [ended]
    exact id
  load _ _ _ := keepsMapLaws_of_shut id rfl
  unload s _ _ := by
    obtain ⟨x, e, b, n, unloaded⟩ := unloadLine_eq s
    rw [unloaded]
    exact keepsMapLaws_of_shut (fun _ => mapLaw_of_empty (k := 0) rfl) rfl
  clearFault s opened := keepsMapLaws_of_open opened (mapLaw_offLine.clearFault (fun _ => id) s)
    (lengthAhead_offLine.clearFault (fun _ => id) s)
  exbase _ _ _ := id
  retire _ _ _ := id

/-- Settles O58, with the length cause ahead of P as the invariant that bounds the open stretch. -/
theorem mapLawKept : Obligations.MapLawKept := by
  unfold Obligations.MapLawKept
  intro c s t step law _ ahead
  exact (mapLaws_commands c).exec step ⟨law, ahead⟩

end Sys2Proof.Machine
end

section
/-! The reset values under the RESET pin, and the entry order with the line state, over every command. -/

namespace Sys2Proof.Machine

/-! ### The RESET pin -/

/-- The pin rises at a reset alone. -/
def PinFalls (c : Instr) (s t : State) : Prop :=
  (∀ r, c ≠ .reset r) → t.pins.resetAsserted = true → s.pins.resetAsserted = true

theorem pinFalls_offLine {c : Instr} : OffLine (PinFalls c) where
  refl _ _ := id
  trans a b other := a other ∘ b other
  quiet q _ := q.pins ▸ id
  lc _ _ _ := id
  sc _ _ _ := id
  entry _ _ _ := id
  busy _ _ _ := id
  target _ _ _ _ _ := id
  trim _ _ _ _ _ _ := id
  correction _ _ _ _ _ _ := id
  phase _ _ _ _ _ _ _ _ := id

theorem pinFalls_commands (c : Instr) : Commands c (PinFalls c) where
  toOpened := pinFalls_offLine.closed.opened
  abort s _ := abortEntry_closed pinFalls_offLine.closed s
  advance _ opened _ := pinFalls_offLine.closed.opened.advanceOne opened fun _ => id
  turn s d _ := by
    unfold reanchor
    split <;> exact fun _ => id
  printDebt _ _ _ _ _ := id
  ovenDebt _ _ _ _ _ := id
  limit _ _ := id
  seamPin _ _ _ := id
  sensorPin _ _ k _ := by cases k <;> exact fun _ => id
  zone _ _ _ _ := id
  reset _ cause reset other := absurd reset (other cause)
  release _ _ _ _ := nofun
  events _ _ _ _ := id
  finish s h host _ _ := by
    obtain ⟨x, e, moved⟩ := moveWord_eq s h host
    rw [moved]
    exact fun _ => id
  next s h host g a rest _ _ _ := by
    obtain ⟨x, e, moved⟩ := moveWord_eq s h host
    rw [moved]
    exact fun _ => id
  dequeue _ _ _ _ _ := id
  begin _ _ _ _ _ _ _ _ := id
  lose s h _ _ := by
    obtain ⟨m, n, lost⟩ := lostAccess_eq s h
    rw [lost]
    exact fun _ => id
  suspend _ _ _ _ := id
  reject s reason item _ := by
    obtain ⟨x, e, n, rejected⟩ := rejectLoad_eq s reason item
    rw [rejected]
    exact fun _ => id
  complete s w _ _ := by
    have filled : PinFalls c s (filledLine s (profileOf w)) := by
      obtain ⟨v, x, e, n, filled⟩ := filledLine_eq s (profileOf w)
      rw [filled]
      exact fun _ => id
    exact pinFalls_offLine.trans filled (pinFalls_offLine.completeLoad s _)
  endUnload s := by
    obtain ⟨b, x, e, ended⟩ := endUnload_eq s
    rw [ended]
    exact fun _ => id
  load _ _ _ _ := id
  unload s _ _ := by
    obtain ⟨x, e, b, n, unloaded⟩ := unloadLine_eq s
    rw [unloaded]
    exact fun _ => id
  clearFault s _ := pinFalls_offLine.clearFault (fun _ _ => id) s
  exbase _ _ _ _ := id
  retire _ _ _ _ := id

/-! ### Commands under the RESET pin -/

theorem wellFormed_of_next {c : Instr} {s t : State} (step : exec c s = .next t) : WellFormed c = true := by
  cases c
  case commandCodeUndefined code =>
    change (if codeNamesCommand code then _ else _) = _ at step
    split at step
    next => exact nomatch step
    next unnamed => simpa [WellFormed] using unnamed
  all_goals rfl

section
variable {s : State} (asserted : s.pins.resetAsserted = true)
include asserted

theorem takesEvents_of_reset : takesEvents s = false := by rw [takesEvents, asserted, Bool.not_true, Bool.false_and]

variable (law : ResetLaw s)
include law

theorem mr_of_reset : s.mr = resetReader := congrArg State.mr (law asserted)

theorem ci_of_reset : s.ci = resetCure := congrArg State.ci (law asserted)

theorem xi_of_reset : s.xi = resetExchange := congrArg State.xi (law asserted)

theorem chan_of_reset (i : Station) : s.chan i = resetChannel := by
  rw [State.chan, (congrArg State.sc (law asserted) : s.sc = Vector.replicate 16 resetChannel)]
  exact Vector.getElem_replicate i.isLt

theorem zone_of_reset (z : Zone) : s.zone z = resetZone := by
  rw [State.zone, ci_of_reset asserted law]
  exact Vector.getElem_replicate z.isLt

/-- No timer runs, so none expires (R177). -/
theorem expiries_of_reset : (∀ i, actuationExpiry s i = s) ∧ evaluationExpiry s = s ∧ doseExpiry s = s ∧
    setbackExpiry s = s ∧ standstillExpiry s = s ∧ ∀ z, staleExpiry s z = s := by
  have standstill : s.lc.standstill = .stopped := congrArg (fun x => x.lc.standstill) (law asserted)
  refine ⟨fun i => if_neg ?_, if_neg ?_, if_neg ?_, if_neg ?_, if_neg ?_, fun z => if_neg ?_⟩
  · rw [chan_of_reset asserted law i]
    exact Bool.false_ne_true
  · rw [mr_of_reset asserted law]
    exact Bool.false_ne_true
  · rw [ci_of_reset asserted law]
    exact Bool.false_ne_true
  · rw [ci_of_reset asserted law]
    exact Bool.false_ne_true
  · rw [standstill]
    exact Bool.false_ne_true
  · rw [zone_of_reset asserted law z]
    exact Bool.false_ne_true

/-- Nothing waits and nothing is in hand, so the memory port and the close-out rest (R177). -/
theorem port_of_reset : timeOutAccess s = s ∧ (∀ host, completeAccess s host = s) ∧ startTransaction s = s ∧
    startExit s = s := by
  have xi := xi_of_reset asserted law
  have map : s.wt.map = [] := congrArg (fun x => x.wt.map) (law asserted)
  have waiting : s.co.waiting = none := congrArg (fun x => x.co.waiting) (law asserted)
  refine ⟨?_, fun host => ?_, ?_, ?_⟩
  · rw [timeOutAccess, xi]
    rfl
  · rw [completeAccess, xi]
    rfl
  · rw [startTransaction, xi]
    rfl
  · rw [startExit, waiting, map]

/-- Under the RESET pin a command moves the input pins at most, and a release ends it (R170, R177). -/
theorem exec_of_reset {c : Instr} {t : State} (other : ∀ r, c ≠ .reset r) (step : exec c s = .next t)
    (still : t.pins.resetAsserted = true) : t = { s with pins := t.pins } := by
  have same (h : exec c s = .next s) : t = { s with pins := t.pins } := by
    obtain rfl := Host.Outcome.next.inj (step.symm.trans h)
    rfl
  have closed := takesEvents_of_reset asserted
  obtain ⟨actuation, evaluation, dose, setback, standstill, stale⟩ := expiries_of_reset asserted law
  obtain ⟨timeout, done, start, close⟩ := port_of_reset asserted law
  by_cases command : writesCommand c = true
  · exact same (exec_command_of_reset asserted command (wellFormed_of_next step))
  cases c
  case printForwardCount => exact same (exec_count_discarded closed).1
  case ovenForwardCount => exact same (exec_count_discarded closed).2.1
  case reverseCount e => exact same ((exec_count_discarded closed).2.2 e)
  case seamLevelChange level =>
    obtain rfl := Host.Outcome.next.inj step
    unfold seamChange
    rw [closed]
    split <;> rfl
  case stationSensorChange i k b =>
    obtain rfl := Host.Outcome.next.inj step
    rw [if_pos asserted]
    cases k <;> rfl
  case markEdge => exact same (congrArg Host.Outcome.next (if_pos asserted))
  case zoneFrame n load => exact same (congrArg Host.Outcome.next (if_neg (by simp [closed])))
  case reset cause => exact absurd rfl (other cause)
  case resetRelease =>
    obtain rfl := Host.Outcome.next.inj step
    rw [if_pos asserted] at still
    cases still
  case actuationTimerExpiry i => exact same (congrArg Host.Outcome.next (actuation i))
  case evaluationTimerExpiry => exact same (congrArg Host.Outcome.next evaluation)
  case doseIntervalExpiry => exact same (congrArg Host.Outcome.next dose)
  case setbackTimerExpiry => exact same (congrArg Host.Outcome.next setback)
  case standstillTimerExpiry => exact same (congrArg Host.Outcome.next standstill)
  case staleTimerExpiry z => exact same (congrArg Host.Outcome.next (stale z))
  case memoryAccessTimeout => exact same (congrArg Host.Outcome.next timeout)
  case memoryAccessDone host => exact same (congrArg Host.Outcome.next (done host))
  case transactionStart => exact same (congrArg Host.Outcome.next start)
  case closeOut => exact same (congrArg Host.Outcome.next close)
  case exbaseWrite v => exact same (congrArg Host.Outcome.next (if_pos asserted))
  case retireWrite v => exact same (congrArg Host.Outcome.next (if_pos asserted))
  case eventsRead => exact same (exec_eventsRead_of_reset asserted law)
  case registerWriteIgnored r v => exact same (congrArg Host.Outcome.next (if_pos asserted))
  all_goals exact absurd rfl command

end

theorem resetLaw_kept {c : Instr} {s t : State} (step : exec c s = .next t) (law : ResetLaw s) : ResetLaw t := by
  by_cases reset : ∃ r, c = .reset r
  · obtain ⟨r, rfl⟩ := reset
    obtain rfl := Host.Outcome.next.inj step
    exact fun _ => rfl
  · intro still
    have other : ∀ r, c ≠ .reset r := fun r same => reset ⟨r, same⟩
    have asserted := (pinFalls_commands c).exec step other still
    have moved := exec_of_reset asserted law other step still
    rw [moved, law asserted]

/-! ### The entry order -/

/-- The line state, the entry order and command busy are the same. -/
structure SameEntry (s t : State) : Prop where
  line : t.lc.line = s.lc.line
  entry : t.os.entry = s.os.entry
  busy : t.busy = s.busy

theorem SameEntry.trans {s t u : State} (a : SameEntry s t) (b : SameEntry t u) : SameEntry s u :=
  ⟨b.line.trans a.line, b.entry.trans a.entry, b.busy.trans a.busy⟩

theorem LineOnly.sameEntry {s t : State} (h : LineOnly s t) (line : t.lc.line = s.lc.line) : SameEntry s t :=
  ⟨line, congrArg OrderSequencer.entry h.os, h.busy⟩

theorem syncEngaged_sameEntry (s : State) : SameEntry s (syncEngaged s) :=
  (syncEngaged_lineOnly s).sameEntry (syncEngaged_sameLine s).line

theorem setChan_sameEntry (s : State) (i : Station) (c : Channel) : SameEntry s (s.setChan i c) := ⟨rfl, rfl, rfl⟩

theorem setChan_synced_sameEntry (s : State) (i : Station) (c : Channel) : SameEntry s (syncEngaged (s.setChan i c)) :=
  (setChan_sameEntry s i c).trans (syncEngaged_sameEntry _)

theorem raiseCause_sameEntry (s : State) (c : HoldCause) (r : Option FaultReason) : SameEntry s (raiseCause s c r) :=
  (raiseCause_lineOnly s c r).sameEntry (raiseCause_line s c r)

theorem sameEntry_calm : Calm SameEntry where
  refl _ := ⟨rfl, rfl, rfl⟩
  trans := .trans
  quiet q := ⟨q.line, q.entry, q.busy⟩
  chan s i c _ := setChan_sameEntry s i c
  lift s i c _ _ := setChan_synced_sameEntry s i c
  lower s i c _ := setChan_synced_sameEntry s i c
  engage s i c _ := setChan_synced_sameEntry s i c
  sync s := syncEngaged_sameEntry s
  target _ _ _ _ := ⟨rfl, rfl, rfl⟩
  trim _ _ _ _ _ := ⟨rfl, rfl, rfl⟩
  correction _ _ _ _ _ := ⟨rfl, rfl, rfl⟩
  phase _ _ _ _ _ _ _ := ⟨rfl, rfl, rfl⟩
  raise s c _ := raiseCause_sameEntry s c none
  fault s f := raiseCause_sameEntry s .fault (some f)
  clear s cs _ := (clearCauses_lineOnly s cs).sameEntry (clearCauses_line s cs)

theorem SameEntry.law {s t : State} (same : SameEntry s t) (law : EntryLaw s) : EntryLaw t := by
  rw [EntryLaw, same.line, same.entry, same.busy]
  exact law

theorem entryLaw_calm : Calm (Keeps EntryLaw) where
  refl _ := id
  trans := Keeps.trans
  quiet q := (sameEntry_calm.quiet q).law
  chan s i c h := (sameEntry_calm.chan s i c h).law
  lift s i c h k := (sameEntry_calm.lift s i c h k).law
  lower s i c h := (sameEntry_calm.lower s i c h).law
  engage s i c h := (sameEntry_calm.engage s i c h).law
  sync s := (sameEntry_calm.sync s).law
  target s i x c := (sameEntry_calm.target s i x c).law
  trim s i v h k := (sameEntry_calm.trim s i v h k).law
  correction s i v h k := (sameEntry_calm.correction s i v h k).law
  phase s i p a b c d := (sameEntry_calm.phase s i p a b c d).law
  raise s c h := (sameEntry_calm.raise s c h).law
  fault s f := (sameEntry_calm.fault s f).law
  clear s cs h := (sameEntry_calm.clear s cs h).law

/-- In an open line no command is under way (R185). -/
theorem EntryLaw.free {s : State} (law : EntryLaw s) (opened : lineOpen s = true) : s.busy = false := by
  cases busy : s.busy with
  | false => rfl
  | true =>
    exfalso
    rcases law.2.2 busy with line | line
    · simp [lineOpen, line] at opened
    · simp [lineOpen, line] at opened

/-- The law of a line that is READY without an entry order. -/
theorem entryLaw_of_ready {s : State} (line : s.lc.line = .ready) (entry : s.os.entry = none) (free : s.busy = false) :
    EntryLaw s := by
  rw [EntryLaw, line, entry, free]
  exact ⟨⟨nofun, nofun⟩, nofun, nofun⟩

theorem entryLaw_of_printing {s : State} (line : s.lc.line = .printing) (entry : s.os.entry.isSome = true)
    (free : s.busy = false) : EntryLaw s := by
  rw [EntryLaw, line, free]
  exact ⟨iff_of_true rfl entry, nofun, nofun⟩

theorem entryLaw_of_unloaded {s : State} (line : s.lc.line = .unloaded) (entry : s.os.entry = none) : EntryLaw s := by
  rw [EntryLaw, line, entry]
  exact ⟨⟨nofun, nofun⟩, nofun, fun _ => .inr rfl⟩

theorem EntryLaw.entry_none {s : State} (law : EntryLaw s) (idle : s.lc.line ≠ .printing) : s.os.entry = none := by
  cases entry : s.os.entry with
  | none => rfl
  | some i => exact absurd (law.1.mpr (by rw [entry]; rfl)) idle

/-- A starvation leaves no entry order (R37). -/
theorem starve_entry (s : State) (r : InFlight) : (starve s r).os.entry = none := by
  have left (t : State) (gone : t.os.entry = none) : (applyTail (statusAfterStarvation t) r).os.entry = none :=
    (applyTail_closed sameEntry_calm _ r).entry.trans ((statusAfterStarvation_quiet t).entry.trans gone)
  exact left (setLine { s with os.entry := none, cp := plainAttributes s.cp } .ready) rfl

theorem starve_entryLaw (s : State) (r : InFlight) (opened : lineOpen s = true) : Keeps EntryLaw s (starve s r) := fun law =>
  entryLaw_of_ready (starve_line s r) (starve_entry s r)
    ((starve_closed board_closed s r).busy.trans (law.free opened))

/-- A take of an order other than a HALT leaves it the entry order (R36). -/
theorem takeOrder_entry {s : State} {o : Order} (late : Bool) (prints : o.kind ≠ .halt) :
    (takeOrder s o late).os.entry = some s.os.next := by
  have handed (r : InFlight) (t : State) : (reportTake (handNeighbours t r) r).os.entry = t.os.entry :=
    (reportTake_closed sameEntry_calm _ r).entry.trans (handNeighbours_closed sameEntry_calm t r).entry
  unfold takeOrder
  dsimp only
  rw [if_neg (by simp [prints]), (startSlotRead_quiet _).entry, handed, enterOrder]
  split <;> rfl

/-- A HALT's take leaves no entry order (R39). -/
theorem takeOrder_halt_entry {s : State} {o : Order} (late : Bool) (halt : o.kind = .halt) :
    (takeOrder s o late).os.entry = none := by
  unfold takeOrder
  dsimp only
  rw [if_pos (by simp [halt]), endHalt]
  exact starve_entry _ _

theorem takeOrder_entryLaw (s : State) (o : Order) (late : Bool) (opened : lineOpen s = true) :
    Keeps EntryLaw s (takeOrder s o late) := by
  intro law
  have free := (takeOrder_closed board_closed s o late).busy.trans (law.free opened)
  have line := takeOrder_line s o late
  by_cases halt : o.kind = .halt
  · exact entryLaw_of_ready (line.trans (if_pos halt)) (takeOrder_halt_entry late halt) free
  · exact entryLaw_of_printing (line.trans (if_neg halt)) (by rw [takeOrder_entry late halt]; rfl) free

theorem entryLaw_opened : Opened (Keeps EntryLaw) where
  toCalm := entryLaw_calm
  starve := starve_entryLaw
  take := takeOrder_entryLaw

theorem abortEntry_entryLaw (s : State) (line : s.lc.line = .printing) : Keeps EntryLaw s (abortEntry s) := by
  intro law
  have opened : lineOpen s = true := by simp [lineOpen, line]
  have free := (abortEntry_closed board_closed s).busy.trans (law.free opened)
  unfold abortEntry at free ⊢
  split
  next => exact law
  next r found =>
    rw [found] at free
    have left (t : State) : (setLine { discardReads (leaveEntry t) with os.status := .empty } .ready).os.entry = none := rfl
    exact entryLaw_of_ready rfl (left _) free

theorem judgeSet_sameEntry (before : Bool) (s : State) : SameEntry s (judgeSet before s) := by
  unfold judgeSet
  split
  next =>
    split
    next => exact sameEntry_calm.refl s
    next =>
      obtain ⟨x, e, n, exits⟩ := holdExit_eq s { fault := true }
      rw [exits]
      exact ⟨rfl, rfl, rfl⟩
  next =>
    split
    next => exact (holdEntry_lineOnly s _).sameEntry (holdEntry_line s _)
    next => exact sameEntry_calm.refl s

theorem clearFault_sameEntry (s : State) : SameEntry s (clearFault s) := by
  have cleared : SameEntry s (clearChannels (dropFault s)) :=
    .trans (t := dropFault s) ⟨rfl, rfl, rfl⟩ (clearChannels_closed sameEntry_calm _)
  have stuck (t : State) : SameEntry t (raiseStuck t) := by
    unfold raiseStuck
    split <;> exact ⟨rfl, rfl, rfl⟩
  have ended (t : State) : SameEntry t (endSuspension t) := by
    obtain ⟨l, y, x, e, n, ended⟩ := endSuspension_eq t
    rw [ended]
    exact ⟨rfl, rfl, rfl⟩
  exact (cleared.trans (stuck _)).trans ((ended _).trans (judgeSet_sameEntry _ _))

theorem completeLoad_entryLaw (s : State) (f : Profile) : EntryLaw (completeLoad s f) := by
  obtain ⟨v, x, e, n, filled⟩ := filledLine_eq s f
  have delivered := deliverFestoon_closed sameEntry_calm (filledLine s f)
  have ended (t : State) (line : t.lc.line = .ready) (entry : t.os.entry = none) :
      EntryLaw (endCommand (judgePermit t)) := entryLaw_of_ready line entry rfl
  rw [completeLoad_eq]
  refine ended _ (delivered.line.trans ?_) (delivered.entry.trans ?_)
  · rw [filled]
  · rw [filled]
    rfl

theorem endUnload_entryLaw (s : State) : Keeps EntryLaw s (endUnload s) := by
  intro law
  unfold endUnload
  split
  next served =>
    simp only [Bool.and_eq_true] at served
    have line : s.lc.line = .unloaded := eq_of_beq served.1.1.1
    exact entryLaw_of_unloaded line (law.entry_none (by rw [line]; nofun))
  next => exact law

theorem entryLaw_commands (c : Instr) : Commands c (Keeps EntryLaw) where
  toOpened := entryLaw_opened
  abort := abortEntry_entryLaw
  advance _ opened _ := entryLaw_opened.advanceOne opened id
  turn s d _ := by
    unfold reanchor
    split <;> exact id
  printDebt _ _ _ _ := id
  ovenDebt _ _ _ _ := id
  limit _ := id
  seamPin _ _ := id
  sensorPin _ _ k _ := by cases k <;> exact id
  zone _ _ _ := id
  reset _ _ _ _ := entryLaw_of_unloaded rfl rfl
  release _ _ _ := id
  events _ _ _ := id
  finish s h host _ _ := by
    obtain ⟨x, e, moved⟩ := moveWord_eq s h host
    rw [moved]
    exact id
  next s h host g a rest _ _ _ := by
    obtain ⟨x, e, moved⟩ := moveWord_eq s h host
    rw [moved]
    exact id
  dequeue _ _ _ _ := id
  begin _ _ _ _ _ _ _ := id
  lose s h _ _ := by
    obtain ⟨m, n, lost⟩ := lostAccess_eq s h
    rw [lost]
    exact id
  suspend _ _ _ := id
  reject s reason item line law := by
    have idle := law.entry_none (by rw [line]; nofun)
    obtain ⟨x, e, n, rejected⟩ := rejectLoad_eq s reason item
    rw [rejected]
    exact entryLaw_of_unloaded rfl idle
  complete s w _ _ _ := completeLoad_entryLaw s _
  endUnload := endUnload_entryLaw
  load s line _ law := by
    have idle := law.entry_none (by rw [line]; nofun)
    exact ⟨⟨nofun, fun some => by rw [show (beginLoad s).os.entry = none from idle] at some; cases some⟩, fun _ => rfl,
      fun _ => .inl rfl⟩
  unload s _ _ _ := by
    obtain ⟨x, e, b, n, unloaded⟩ := unloadLine_eq s
    rw [unloaded]
    exact entryLaw_of_unloaded rfl rfl
  clearFault s _ := (clearFault_sameEntry s).law
  exbase _ _ _ := id
  retire _ _ _ := id

/-- Settles O59: under the pin no command moves more than the input pins; and the entry order follows the line state through
what a command can do. -/
theorem resetAndEntryLawsKept : Obligations.ResetAndEntryLawsKept := by
  unfold Obligations.ResetAndEntryLawsKept
  intro c s t step
  exact ⟨resetLaw_kept step, (entryLaw_commands c).exec step⟩

end Sys2Proof.Machine
end

section
/-! The order of the pending cut list over every command; a new end's ORDER_END and marks; the edges of a seam. -/

namespace Sys2Proof.Machine

/-! ### Every command keeps the order -/

theorem cutsAscend_of_empty {c : CutPlanner} (pending : c.pending = []) : CutsAscend c := by
  rw [CutsAscend, pending]
  exact List.Pairwise.nil

theorem detectorTravel_pending (c : CutPlanner) : (detectorTravel c).pending = c.pending := by
  unfold detectorTravel
  split <;> rfl

/-- The pending cut list of a state is in order. -/
def CutsInOrder (s : State) : Prop := CutsAscend s.cp

theorem cutsInOrder_offLine : OffLine (Keeps CutsInOrder) where
  refl _ := id
  trans := Keeps.trans
  quiet q := q.cuts
  lc _ _ := id
  sc _ _ := id
  entry _ _ := id
  busy _ _ := id
  target _ _ _ _ := id
  trim _ _ _ _ _ := id
  correction _ _ _ _ _ := id
  phase _ _ _ _ _ _ _ := id

theorem cutsInOrder_commands (c : Instr) : Commands c (Keeps CutsInOrder) where
  toOpened := cutsInOrder_offLine.closed.opened
  abort s _ := abortEntry_closed cutsInOrder_offLine.closed s
  advance s opened _ := cutsInOrder_offLine.closed.opened.advanceOne opened fun law => by
    rw [CutsInOrder, CutsAscend, detectorTravel_pending]
    exact law
  turn s d _ := by
    unfold reanchor
    split <;> exact id
  printDebt _ _ _ _ := id
  ovenDebt _ _ _ _ := id
  limit _ := id
  seamPin _ _ := id
  sensorPin _ _ k _ := by cases k <;> exact id
  zone _ _ _ := id
  reset _ _ _ _ := cutsAscend_of_empty rfl
  release _ _ _ := id
  events _ _ _ := id
  finish s h host _ _ := by
    obtain ⟨x, e, moved⟩ := moveWord_eq s h host
    rw [moved]
    exact id
  next s h host g a rest _ _ _ := by
    obtain ⟨x, e, moved⟩ := moveWord_eq s h host
    rw [moved]
    exact id
  dequeue _ _ _ _ := id
  begin _ _ _ _ _ _ _ := id
  lose s h _ _ := by
    obtain ⟨m, n, lost⟩ := lostAccess_eq s h
    rw [lost]
    exact id
  suspend _ _ _ := id
  reject s reason item _ := by
    obtain ⟨x, e, n, rejected⟩ := rejectLoad_eq s reason item
    rw [rejected]
    exact id
  complete s w _ _ _ := by
    refine cutsInOrder_offLine.completeLoad s _ ?_
    obtain ⟨v, x, e, n, filled⟩ := filledLine_eq s (profileOf w)
    rw [filled]
    exact cutsAscend_of_empty rfl
  endUnload s := by
    obtain ⟨b, x, e, ended⟩ := endUnload_eq s
    rw [ended]
    exact id
  load _ _ _ := id
  unload s _ _ _ := by
    obtain ⟨x, e, b, n, unloaded⟩ := unloadLine_eq s
    rw [unloaded]
    exact cutsAscend_of_empty rfl
  clearFault s _ := cutsInOrder_offLine.clearFault (fun _ => id) s
  exbase _ _ _ := id
  retire _ _ _ := id

/-! ### Where an entry is put -/

/-- An entry is put behind those at or before its position, and before the first beyond it (R52). -/
theorem insertCut_split (e : CutEntry) (l : List CutEntry) : ∃ x z, l = x ++ z ∧ insertCut e l = x ++ e :: z ∧
    ∀ a ∈ x, a.position ≤ e.position := by
  induction l with
  | nil => exact ⟨[], [], rfl, rfl, nofun⟩
  | cons c rest ih =>
    unfold insertCut
    split
    next before =>
      obtain ⟨x, z, split, put, behind⟩ := ih
      exact ⟨c :: x, z, by rw [split, List.cons_append], by rw [put, List.cons_append],
        List.forall_mem_cons.mpr ⟨before, behind⟩⟩
    next => exact ⟨[], c :: rest, rfl, rfl, nofun⟩

/-- Entries at or before the position are passed over. -/
theorem insertCut_append {e : CutEntry} {x : List CutEntry} (behind : ∀ a ∈ x, a.position ≤ e.position)
    (w : List CutEntry) : insertCut e (x ++ w) = x ++ insertCut e w := by
  induction x with
  | nil => rfl
  | cons a rest ih =>
    obtain ⟨here, later⟩ := List.forall_mem_cons.mp behind
    rw [List.cons_append, insertCut, if_pos here, ih later, List.cons_append]

theorem filter_insertCut_of_false {q : CutEntry → Bool} {e : CutEntry} (other : q e = false) (l : List CutEntry) :
    (insertCut e l).filter q = l.filter q := by
  obtain ⟨x, z, split, put, -⟩ := insertCut_split e l
  rw [put, split, List.filter_append, List.filter_append, List.filter_cons_of_neg (by simp [other])]

theorem filter_insertCut_of_none {q : CutEntry → Bool} {e : CutEntry} (chosen : q e = true) {l : List CutEntry}
    (none : l.filter q = []) : (insertCut e l).filter q = [e] := by
  obtain ⟨x, z, split, put, -⟩ := insertCut_split e l
  rw [split, List.filter_append, List.append_eq_nil_iff] at none
  rw [put, List.filter_append, none.1, List.filter_cons_of_pos chosen, none.2, List.nil_append]

/-! ### The marks of a new end -/

/-- The entries of mark table record `k` in a cut list. -/
def entriesOf (k : Nat) (l : List CutEntry) : List CutEntry := l.filter fun e => e.kind == .zoneMark k

/-- The record's own entry, if it is PENDING and lies between P and the end (R54). -/
def ownEntry (p finish k : Nat) (m : Option MarkRecord) : List CutEntry :=
  match m with
  | some m =>
    if m.applied = false ∧ p < m.position ∧ m.position < finish then [{ kind := .zoneMark k, position := m.position }]
    else []
  | none => []

theorem markEntered_iff (l : List CutEntry) (k : Nat) : markEntered l k = true ↔ entriesOf k l ≠ [] := by
  simp [markEntered, entriesOf]

/-- What one record does to the list when the marks are entered. -/
def enterMark (p finish i : Nat) (m : MarkRecord) (l : List CutEntry) : List CutEntry :=
  if !m.applied && !markEntered l i && decide (p < m.position) && decide (m.position < finish)
    then insertCut { kind := .zoneMark i, position := m.position } l else l

theorem enterMarks_cons (p finish i : Nat) (m : MarkRecord) (rest : List MarkRecord) (l : List CutEntry) :
    enterMarks p finish i (m :: rest) l = enterMarks p finish (i + 1) rest (enterMark p finish i m l) := rfl

theorem filter_enterMark_of_false {q : CutEntry → Bool} {i : Nat} (other : ∀ position, q ⟨.zoneMark i, position⟩ = false)
    (p finish : Nat) (m : MarkRecord) (l : List CutEntry) : (enterMark p finish i m l).filter q = l.filter q := by
  unfold enterMark
  split
  next => exact filter_insertCut_of_false (other _) l
  next => rfl

theorem entriesOf_enterMark_self (p finish i : Nat) (m : MarkRecord) (l : List CutEntry) :
    entriesOf i (enterMark p finish i m l) =
      if entriesOf i l = [] then ownEntry p finish i (some m) else entriesOf i l := by
  by_cases entered : entriesOf i l = []
  · have absent : markEntered l i = false := by
      rw [← Bool.not_eq_true, markEntered_iff]
      exact not_not.mpr entered
    rw [if_pos entered, ownEntry]
    unfold enterMark
    by_cases due : m.applied = false ∧ p < m.position ∧ m.position < finish
    · rw [if_pos (by simp [absent, due]), if_pos due]
      exact filter_insertCut_of_none (q := fun e => e.kind == .zoneMark i) (beq_self_eq_true _) entered
    · rw [if_neg (by simpa [absent, and_assoc] using due), if_neg due]
      exact entered
  · have present : markEntered l i = true := (markEntered_iff l i).mpr entered
    rw [if_neg entered, enterMark, if_neg (by simp [present])]

/-- Marks from record `i` on leave every entry but theirs as it was. -/
theorem filter_enterMarks_of_false {q : CutEntry → Bool} {i : Nat}
    (other : ∀ j position, i ≤ j → q ⟨.zoneMark j, position⟩ = false) (p finish : Nat) (ms : List MarkRecord)
    (l : List CutEntry) : (enterMarks p finish i ms l).filter q = l.filter q := by
  induction ms generalizing i l with
  | nil => rfl
  | cons m rest ih =>
    rw [enterMarks_cons, ih fun j position beyond => other j position (by omega),
      filter_enterMark_of_false fun position => other i position (Nat.le_refl i)]

/-- The entries of record `k` after the marks from `i` on are entered: those it had, or its own (R54). -/
theorem entriesOf_enterMarks {i k : Nat} (from_i : i ≤ k) (p finish : Nat) (ms : List MarkRecord) (l : List CutEntry) :
    entriesOf k (enterMarks p finish i ms l) =
      if entriesOf k l = [] then ownEntry p finish k ms[k - i]? else entriesOf k l := by
  induction ms generalizing i l with
  | nil =>
    change entriesOf k l = if entriesOf k l = [] then [] else entriesOf k l
    split
    next none => exact none
    next => rfl
  | cons m rest ih =>
    rw [enterMarks_cons]
    rcases Nat.eq_or_lt_of_le from_i with here | later
    · subst here
      have passed : entriesOf i (enterMarks p finish (i + 1) rest (enterMark p finish i m l)) =
          entriesOf i (enterMark p finish i m l) :=
        filter_enterMarks_of_false (fun j position beyond => by
          have apart : j ≠ i := by omega
          simp [apart]) p finish rest _
      rw [passed, entriesOf_enterMark_self, Nat.sub_self]
      rfl
    · have kept : entriesOf k (enterMark p finish i m l) = entriesOf k l :=
        filter_enterMark_of_false (fun position => by
          have apart : i ≠ k := by omega
          simp [apart]) p finish m l
      have index : (m :: rest)[k - i]? = rest[k - (i + 1)]? := by
        rw [show k - i = k - (i + 1) + 1 by omega]
        rfl
      rw [ih later, kept, index]

/-! ### A new end -/

/-- The pending list of a new end before its ORDER_END joins it. -/
def markedFor (c : CutPlanner) (p finish : Nat) : List CutEntry :=
  enterMarks p finish 0 c.marks (c.pending.filter (keptBefore finish))

theorem planEnd_pending (c : CutPlanner) (p finish : Nat) : (planEnd c p finish).pending =
    if p < finish then insertCut { kind := .orderEnd, position := finish } (markedFor c p finish)
    else markedFor c p finish := rfl

theorem filter_planEnd_of_false {q : CutEntry → Bool} (c : CutPlanner) (p finish : Nat)
    (other : q { kind := .orderEnd, position := finish } = false) :
    (planEnd c p finish).pending.filter q = (markedFor c p finish).filter q := by
  rw [planEnd_pending]
  split
  next => exact filter_insertCut_of_false other _
  next => rfl

/-- Neither the ORDER_END nor a zone mark: the seam edges stay in their order (R55). -/
theorem planEnd_edges (c : CutPlanner) (p finish : Nat) :
    ((planEnd c p finish).pending.filter fun e => !isOrderEnd e && !isZoneMark e) =
      c.pending.filter fun e => !isOrderEnd e && !isZoneMark e := by
  rw [filter_planEnd_of_false c p finish rfl, markedFor, filter_enterMarks_of_false (fun _ _ _ => rfl), List.filter_filter]
  refine List.filter_congr fun e _ => ?_
  cases kind : e.kind <;> simp [keptBefore, isOrderEnd, isZoneMark, kind]

/-- The one ORDER_END of a new end ahead of P (R40, R53). -/
theorem planEnd_orderEnd (c : CutPlanner) (p finish : Nat) :
    (planEnd c p finish).pending.filter isOrderEnd =
      if p < finish then [{ kind := .orderEnd, position := finish }] else [] := by
  have none : (markedFor c p finish).filter isOrderEnd = [] := by
    rw [markedFor, filter_enterMarks_of_false (fun _ _ _ => rfl), List.filter_filter, List.filter_eq_nil_iff]
    intro e _
    cases kind : e.kind <;> simp [keptBefore, isOrderEnd, kind]
  rw [planEnd_pending]
  split
  next => exact filter_insertCut_of_none rfl none
  next => exact none

/-- The entries of a mark after a new end: those that lie before it, or its own (R40, R54). -/
theorem planEnd_entriesOf (c : CutPlanner) (p finish k : Nat) :
    entriesOf k (planEnd c p finish).pending =
      if (c.pending.filter fun e => e.kind == .zoneMark k && decide (e.position < finish)) = [] then
        ownEntry p finish k c.marks[k]?
      else c.pending.filter fun e => e.kind == .zoneMark k && decide (e.position < finish) := by
  have kept : entriesOf k (c.pending.filter (keptBefore finish)) =
      c.pending.filter fun e => e.kind == .zoneMark k && decide (e.position < finish) := by
    rw [entriesOf, List.filter_filter]
    refine List.filter_congr fun e _ => ?_
    cases kind : e.kind <;> simp [keptBefore, isOrderEnd, isZoneMark, kind]
  rw [entriesOf, filter_planEnd_of_false c p finish rfl]
  change entriesOf k (markedFor c p finish) = _
  rw [markedFor, entriesOf_enterMarks (Nat.zero_le k), kept, Nat.sub_zero]

theorem mem_entriesOf {e : CutEntry} {k : Nat} {l : List CutEntry} : e ∈ entriesOf k l ↔ e ∈ l ∧ e.kind = .zoneMark k := by
  simp [entriesOf]

theorem mem_ownEntry {e : CutEntry} {p finish k : Nat} {m : Option MarkRecord} (h : e ∈ ownEntry p finish k m) :
    e.position < finish := by
  unfold ownEntry at h
  split at h
  next m =>
    split at h
    next due =>
      obtain rfl := List.mem_singleton.mp h
      exact due.2.2
    next => cases h
  next => cases h

/-- Every mark entered lies before the new end (R40). -/
theorem planEnd_marks_before {c : CutPlanner} {p finish k : Nat} {e : CutEntry} (kind : e.kind = .zoneMark k)
    (mem : e ∈ (planEnd c p finish).pending) : e.position < finish := by
  have own : e ∈ entriesOf k (planEnd c p finish).pending := mem_entriesOf.mpr ⟨mem, kind⟩
  rw [planEnd_entriesOf] at own
  split at own
  next => exact mem_ownEntry own
  next =>
    obtain ⟨-, chosen⟩ := List.mem_filter.mp own
    simp only [Bool.and_eq_true, decide_eq_true_eq] at chosen
    exact chosen.2

/-- A mark entered before stays exactly if it lies before the new end (R40). -/
theorem planEnd_keeps_mark {c : CutPlanner} {p finish k : Nat} {e : CutEntry} (kind : e.kind = .zoneMark k)
    (mem : e ∈ c.pending) : e ∈ (planEnd c p finish).pending ↔ e.position < finish := by
  refine ⟨planEnd_marks_before kind, fun before => ?_⟩
  have kept : e ∈ c.pending.filter fun e => e.kind == .zoneMark k && decide (e.position < finish) :=
    List.mem_filter.mpr ⟨mem, by simp [kind, before]⟩
  have own : e ∈ entriesOf k (planEnd c p finish).pending := by
    rw [planEnd_entriesOf, if_neg (List.ne_nil_of_mem kept)]
    exact kept
  exact (mem_entriesOf.mp own).1

/-- A PENDING record between P and the new end has its entry (R54). -/
theorem planEnd_enters_mark {c : CutPlanner} {p finish k : Nat} {m : MarkRecord} (record : c.marks[k]? = some m)
    (waiting : m.applied = false) (ahead : p < m.position) (before : m.position < finish) :
    ∃ e ∈ (planEnd c p finish).pending, e.kind = .zoneMark k := by
  have some_entry : entriesOf k (planEnd c p finish).pending ≠ [] := by
    rw [planEnd_entriesOf]
    split
    next =>
      rw [record, ownEntry, if_pos ⟨waiting, ahead, before⟩]
      exact List.cons_ne_nil _ _
    next some => exact some
  obtain ⟨e, mem⟩ := List.exists_mem_of_ne_nil _ some_entry
  exact ⟨e, mem_entriesOf.mp mem⟩

theorem planEnd_orderEnd_iff {c : CutPlanner} {p finish : Nat} {e : CutEntry} (kind : e.kind = .orderEnd) :
    e ∈ (planEnd c p finish).pending ↔ p < finish ∧ e.position = finish := by
  have chosen : e ∈ (planEnd c p finish).pending ↔ e ∈ (planEnd c p finish).pending.filter isOrderEnd := by
    rw [List.mem_filter]
    simp [isOrderEnd, kind]
  obtain ⟨k, position⟩ := e
  change k = .orderEnd at kind
  subst kind
  rw [chosen, planEnd_orderEnd]
  split
  next ahead => simp [ahead]
  next passed => simp [passed]

theorem planEnd_edge_iff {c : CutPlanner} {p finish : Nat} {e : CutEntry}
    (edge : ∃ n, e.kind = .seamStart n ∨ e.kind = .seamEnd n) : e ∈ (planEnd c p finish).pending ↔ e ∈ c.pending := by
  have other : (!isOrderEnd e && !isZoneMark e) = true := by
    obtain ⟨n, kind | kind⟩ := edge <;> simp [isOrderEnd, isZoneMark, kind]
  have chosen (l : List CutEntry) : e ∈ l ↔ e ∈ l.filter fun e => !isOrderEnd e && !isZoneMark e := by
    rw [List.mem_filter, other]
    simp
  rw [chosen, planEnd_edges, ← chosen]

/-! ### The edges of a seam -/

/-- A queued seam has its SEAM_START before its SEAM_END, also at one position (R55). -/
theorem queueSeam_pending (c : CutPlanner) (seam : Nat) {zoneStart zoneEnd : Nat} (zone : zoneStart ≤ zoneEnd) :
    ∃ x y z, c.pending = x ++ (y ++ z) ∧
      (queueSeam c seam zoneStart zoneEnd).pending = x ++ { kind := .seamStart seam, position := zoneStart } ::
        (y ++ { kind := .seamEnd seam, position := zoneEnd } :: z) := by
  obtain ⟨x, w, split, started, behind⟩ := insertCut_split { kind := .seamStart seam, position := zoneStart } c.pending
  obtain ⟨y, z, split', ended, -⟩ := insertCut_split { kind := .seamEnd seam, position := zoneEnd } w
  refine ⟨x, y, z, by rw [split, split'], ?_⟩
  change insertCut _ (insertCut _ c.pending) = _
  rw [started, insertCut_append fun a mem => (behind a mem).trans zone, insertCut, if_pos zone, ended]

/-- An extension moves the SEAM_END of its seam alone (R55, R58). -/
theorem extendSeam_pending (c : CutPlanner) (seam zoneEnd : Nat) :
    ∃ x z, (c.pending.filter fun e => e.kind != .seamEnd seam) = x ++ z ∧
      (extendSeam c seam zoneEnd).pending = x ++ { kind := .seamEnd seam, position := zoneEnd } :: z := by
  have others : (c.pending.filter fun e => !isSeamEndOf seam e) = c.pending.filter fun e => e.kind != .seamEnd seam := by
    refine List.filter_congr fun e _ => ?_
    cases kind : e.kind <;> simp [isSeamEndOf, kind, bne]
  obtain ⟨x, z, split, put, -⟩ := insertCut_split { kind := .seamEnd seam, position := zoneEnd }
    (c.pending.filter fun e => !isSeamEndOf seam e)
  exact ⟨x, z, others.symm.trans split, put⟩

/-- Settles O9: the order by what a command can do, and the lists entry by entry. -/
theorem planningKeepsTheCutOrder : Obligations.PlanningKeepsTheCutOrder := by
  unfold Obligations.PlanningKeepsTheCutOrder
  refine ⟨fun c s t step => (cutsInOrder_commands c).exec step, ?_, fun c seam zoneStart zoneEnd =>
    ⟨queueSeam_pending c seam, extendSeam_pending c seam zoneEnd⟩⟩
  rintro c p finish u rfl
  refine ⟨rfl, fun e => planEnd_orderEnd_iff, fun e => planEnd_edge_iff, fun e k => planEnd_keeps_mark,
    fun e k => planEnd_marks_before, fun k m => planEnd_enters_mark, planEnd_edges c p finish, planEnd_orderEnd c p finish, ?_⟩
  rintro k kept rfl
  have entries := planEnd_entriesOf c p finish k
  exact ⟨fun some => entries.trans (if_neg some), fun none => entries.trans (if_pos none)⟩

end Sys2Proof.Machine
end

section
/-! PROOF. The register window, the queue of commands, refusals, the debts, and the blocks whose meaning is one equation:
seam detector levels, zone frames, setback timer, SIGNAL. -/

namespace Sys2Proof.Machine

/-! ### Shared rules -/

theorem timerDue_iff (t : Timer) (ms : Nat) (clk : Word) : timerDue t ms clk = true ↔ Due t ms clk := by
  cases t with
  | stopped => simp [timerDue, Due]
  | running since => 
    simp only [timerDue, Due, decide_eq_true_eq, Timer.running.injEq, exists_eq_left']
    rfl

/-- The effect of a timer that is due. -/
theorem ite_timerDue_pos {α : Type} {t : Timer} {ms : Nat} {clk : Word} (due : Due t ms clk) (a b : α) :
    (if timerDue t ms clk then a else b) = a := if_pos ((timerDue_iff t ms clk).2 due)

theorem ite_timerDue_neg {α : Type} {t : Timer} {ms : Nat} {clk : Word} (due : ¬Due t ms clk) (a b : α) :
    (if timerDue t ms clk then a else b) = b := if_neg fun h => due ((timerDue_iff t ms clk).1 h)

theorem judgeCommand_accepted {s : State} (reset : s.pins.resetAsserted = false) (idle : s.busy = false) {allowed : Bool}
    (h : allowed = true) (effect : State → State) : judgeCommand s allowed effect = effect s := by
  simp [judgeCommand, reset, idle, h]

theorem judgeCommand_refused {s : State} (reset : s.pins.resetAsserted = false) {allowed : Bool}
    (h : s.busy = true ∨ allowed = false) (effect : State → State) : judgeCommand s allowed effect = refuseCommand s := by
  rcases h with h | h <;> simp [judgeCommand, reset, h]

/-- A command that the host may give and READY and PRINTING accept has its effect (R171). -/
theorem judgeCommand_open {s : State} (may : Commandable s) (effect : State → State) :
    judgeCommand s (lineOpen s) effect = effect s := by
  obtain ⟨reset, idle, line⟩ := may
  exact judgeCommand_accepted reset idle line effect

/-! ### The queue of commands -/

/-- Settles O1: a step is the command in front, or the tick of an empty queue. -/
theorem stepRunsTheFrontCommand : Obligations.StepRunsTheFrontCommand := by
  unfold Obligations.StepRunsTheFrontCommand
  refine ⟨fun c s rest front => by simp [step, front], fun s idle => ⟨fun reset => ?_, fun reset => ?_⟩⟩ <;>
    simp [step, idle, tick, reset]

/-- The three fields of a word written to COMMAND (R184). -/
theorem commandFields {w : Word} {code : BitVec 8} {station : BitVec 5} {unused : BitVec 3} {operand : BitVec 16}
    (layout : w.toNat = code.toNat + 2 ^ 8 * station.toNat + 2 ^ 13 * unused.toNat + 2 ^ 16 * operand.toNat) :
    w.extractLsb' 0 8 = code ∧ w.extractLsb' 8 5 = station ∧ w.extractLsb' 16 16 = operand := by
  have := code.isLt; have := station.isLt; have := unused.isLt; have := operand.isLt
  refine ⟨?_, ?_, ?_⟩ <;> apply BitVec.eq_of_toNat_eq <;>
    simp only [BitVec.extractLsb'_toNat, layout, Nat.shiftRight_eq_div_pow] <;> omega

/-- A code that names no command is read as undefined (R184). -/
theorem commandOfWord_undefined {w : Word} {code : BitVec 8} (field : w.extractLsb' 0 8 = code)
    (unnamed : code = 0#8 ∨ 10 < code.toNat) : commandOfWord w = .commandCodeUndefined code := by
  rcases unnamed with rfl | beyond
  · simp [commandOfWord, field]
  · obtain ⟨k, value⟩ : ∃ k, code.toNat = k + 11 := ⟨code.toNat - 11, by omega⟩
    simp [commandOfWord, field, value]

theorem commandOfWord_writes (w : Word) : WellFormed (commandOfWord w) = true ∧ writesCommand (commandOfWord w) = true := by
  by_cases named : (w.extractLsb' 0 8).toNat = 0 ∨ 10 < (w.extractLsb' 0 8).toNat
  · have undefined := commandOfWord_undefined (w := w) rfl (named.imp (fun h => BitVec.eq_of_toNat_eq (by simpa using h)) id)
    rw [undefined]
    refine ⟨?_, rfl⟩
    simp only [WellFormed, codeNamesCommand, Bool.not_eq_true', Bool.and_eq_false_iff, decide_eq_false_iff_not]
    omega
  · unfold commandOfWord
    generalize (w.extractLsb' 0 8).toNat = n at *
    have range : 1 ≤ n ∧ n ≤ 10 := by omega
    obtain ⟨least, greatest⟩ := range
    interval_cases n <;> exact ⟨rfl, rfl⟩

theorem step_withFetchWord (s : State) (w : Word) : step (s.withFetchWord 32 w.toNat) = exec (commandOfWord w) s := by
  simp [State.withFetchWord, decodeTableWord, step]

/-- Settles O49: the fields of the word, and the front command's meaning. -/
theorem commandWordsAreRead : Obligations.CommandWordsAreRead := by
  unfold Obligations.CommandWordsAreRead
  intro w code station unused operand layout
  obtain ⟨field, number, value⟩ := commandFields layout
  obtain ⟨wf, writes⟩ := commandOfWord_writes w
  have spelled (n : BitVec 8) (h : code = n) : w.extractLsb' 0 8 = n := field.trans h
  refine ⟨wf, writes, ?_, ?_, ?_, ?_, ?_, ?_, ?_, ?_, ?_, ?_, commandOfWord_undefined field, ?_, fun s => step_withFetchWord s w⟩
  iterate 10
    · intro h
      simp [commandOfWord, spelled _ h, number, value]
  · simp [decodeTableWord]

/-! ### The state after power-on -/

theorem reset_engagedLaw : EngagedLaw State.reset := ⟨by decide, fun _ => rfl⟩

/-- Settles O60: every law is a fact about the reset values. -/
theorem resetMeetsTheLaws : Obligations.ResetMeetsTheLaws := by
  unfold Obligations.ResetMeetsTheLaws
  have lines : LineLaws State.reset := ⟨rfl, fun held => absurd held (by decide), rfl⟩
  have offsets : OffsetLaw State.reset := by
    unfold OffsetLaw
    decide
  have map : MapLaw State.reset := mapLaw_of_empty (k := 0) rfl
  have entry : EntryLaw State.reset := ⟨by decide, by decide, by decide⟩
  have content : FestoonLaw State.reset := by
    unfold FestoonLaw
    decide
  have room : RingRoom State.reset := Nat.zero_le _
  have ring : RingLaw State.reset := Nat.zero_le _
  refine ⟨lines, content, offsets, ⟨by decide, by decide, by decide, by decide⟩, room, ring, rfl, map, ?_, ?_,
    fun h => ?_, entry, reset_engagedLaw, fun h => absurd h (by decide)⟩
  · exact cutsAscend_of_empty rfl
  · exact fun h => absurd h (by decide)
  · exact absurd h (by decide)

/-! ### Debts (R1, R2) -/

theorem payDebt_of_le {r debt : Nat} (paid : r ≤ debt) : payDebt r debt = (debt - r, 0) := by
  simp [payDebt, Nat.sub_eq_zero_of_le paid]

theorem travelLeft_zero (position : Nat) : travelLeft position 0 = 0 := Nat.zero_min _

theorem printForward_pays {s : State} (paid : s.prof.printResolution ≤ s.wt.printDebt) :
    printForward s = { s with wt.printDebt := s.wt.printDebt - s.prof.printResolution, wt.printReverse := .none } := by
  simp [printForward, payDebt_of_le paid, travelLeft_zero]

theorem ovenForward_pays {s : State} (paid : s.prof.ovenResolution ≤ s.wt.ovenDebt) :
    ovenForward s = { s with wt.ovenDebt := s.wt.ovenDebt - s.prof.ovenResolution, wt.ovenReverse := .none } := by
  simp [ovenForward, payDebt_of_le paid, travelLeft_zero]

theorem stretchAfter_within (x : ReverseStretch) : stretchAfter x false = if x = .limited then .limited else .open := by
  cases x <;> rfl

theorem reportReverse_within (s : State) (x : ReverseStretch) (code : Nat) : reportReverse s x code 0 = s :=
  if_neg fun h => absurd h.1 (by decide)

/-- REVERSE_LIMIT, at the first discarding count (R2). -/
theorem reportReverse_discards (s : State) (x : ReverseStretch) (code : Nat) {excess : Nat} (discards : 0 < excess) :
    reportReverse s x code excess = if x = .limited then s
      else afterReport s
        { kind := .reverseLimit, tag := Config.unstatedField s.draws 0, station := 0#32, serial := 0#32, clock := s.clock,
          first := wordOfNat code, second := wordOfNat excess } := by
  unfold reportReverse
  by_cases limited : x = .limited
  · rw [if_neg fun h => h.2 limited, if_pos limited]
  · rw [if_pos ⟨discards, limited⟩, if_neg limited, post_eq]
    rfl

theorem printReverseCount_within {s : State} (within : s.wt.printDebt + s.prof.printResolution ≤ Config.debtLimit) :
    printReverseCount s = { s with
      wt.printDebt := s.wt.printDebt + s.prof.printResolution
      wt.printReverse := if s.wt.printReverse = .limited then .limited else .open } := by
  simp [printReverseCount, Nat.sub_eq_zero_of_le within, Nat.min_eq_left within, reportReverse_within, stretchAfter_within]

theorem ovenReverseCount_within {s : State} (within : s.wt.ovenDebt + s.prof.ovenResolution ≤ Config.debtLimit) :
    ovenReverseCount s = { s with
      wt.ovenDebt := s.wt.ovenDebt + s.prof.ovenResolution
      wt.ovenReverse := if s.wt.ovenReverse = .limited then .limited else .open } := by
  simp [ovenReverseCount, Nat.sub_eq_zero_of_le within, Nat.min_eq_left within, reportReverse_within, stretchAfter_within]

theorem printReverseCount_discards {s : State} (beyond : Config.debtLimit < s.wt.printDebt + s.prof.printResolution) :
    printReverseCount s = reportReverse { s with wt.printDebt := Config.debtLimit, wt.printReverse := .limited }
      s.wt.printReverse 0 (s.wt.printDebt + s.prof.printResolution - Config.debtLimit) := by
  simp [printReverseCount, Nat.min_eq_right beyond.le, stretchAfter, Nat.sub_pos_of_lt beyond]

theorem ovenReverseCount_discards {s : State} (beyond : Config.debtLimit < s.wt.ovenDebt + s.prof.ovenResolution) :
    ovenReverseCount s = reportReverse { s with wt.ovenDebt := Config.debtLimit, wt.ovenReverse := .limited }
      s.wt.ovenReverse 1 (s.wt.ovenDebt + s.prof.ovenResolution - Config.debtLimit) := by
  simp [ovenReverseCount, Nat.min_eq_right beyond.le, stretchAfter, Nat.sub_pos_of_lt beyond]

/-- Settles O3, by the two encoders' debts within the limit and beyond it. -/
theorem countsMoveTheDebts : Obligations.CountsMoveTheDebts := by
  unfold Obligations.CountsMoveTheDebts
  intro s takes
  rw [exec_printForwardCount, exec_ovenForwardCount, exec_reverseCount_print, exec_reverseCount_oven]
  simp only [if_pos takes]
  refine ⟨fun paid => ?_, fun paid => ?_, fun within => ?_, fun beyond => ?_, fun within => ?_, fun beyond => ?_⟩
  · rw [printForward_pays paid]
  · rw [ovenForward_pays paid]
  · rw [printReverseCount_within within]
  · rw [printReverseCount_discards beyond, reportReverse_discards _ _ _ (Nat.sub_pos_of_lt beyond)]
    exact ⟨_, rfl⟩
  · rw [ovenReverseCount_within within]
  · rw [ovenReverseCount_discards beyond, reportReverse_discards _ _ _ (Nat.sub_pos_of_lt beyond)]
    exact ⟨_, rfl⟩

/-! ### Seam detector levels, zone frames, the setback timer -/

theorem exec_seamLevelChange (level : Bool) (s : State) : exec (.seamLevelChange level) s = .next (seamChange s level) := rfl

theorem exec_zoneFrame (n : BitVec 8) (load : FrameLoad) (s : State) :
    exec (.zoneFrame n load) s = .next (if takesEvents s then takeFrame s n load else s) := rfl

theorem detectorDue_iff (s : State) :
    detectorDue s = true ↔ (s.cp.detector = .rising ∨ s.cp.detector = .clearing) ∧ 2000 ≤ s.cp.travel := by
  simp only [detectorDue, Bool.and_eq_true, Bool.or_eq_true, beq_iff_eq, decide_eq_true_eq]
  exact Iff.rfl

theorem meetDetector_of_due {s : State} (due : detectorDue s = true) :
    meetDetector s = match s.cp.detector with
      | .rising => announceSeam { s with cp.detector := .latched } s.cp.risePosition
      | .clearing => { s with cp.detector := .idle }
      | .idle | .latched => s := by
  rw [meetDetector, due]
  rfl

/-- Settles O10: R56's table by the detector's state and the new level. -/
theorem seamDetectorFollowsTheLevel : Obligations.SeamDetectorFollowsTheLevel := by
  unfold Obligations.SeamDetectorFollowsTheLevel
  intro s
  simp only [exec_seamLevelChange]
  refine ⟨fun takes low => ?_, fun takes high => ?_, fun shut level => ?_, detectorDue_iff s, fun early => ?_,
    fun rising travel => ?_, fun clearing travel => ?_⟩
  · cases state : s.cp.detector <;> simp [seamChange, low, takes, judgeSeamLevel, setSeamPin, state]
  · cases state : s.cp.detector <;> simp [seamChange, high, takes, judgeSeamLevel, setSeamPin, state]
  · by_cases held : s.pins.seamLevel = level
    · subst held
      simp [seamChange]
    · simp [seamChange, held, shut, setSeamPin]
  · simp [meetDetector, early]
  · rw [meetDetector_of_due ((detectorDue_iff s).2 ⟨.inl rising, travel⟩), rising]
  · rw [meetDetector_of_due ((detectorDue_iff s).2 ⟨.inr clearing, travel⟩), clearing]

theorem frameZone_of_number {s : State} {n : Nat} {z : Zone} (number : n = z.val + 1) (known : n ≤ s.prof.zones.length) :
    frameZone s n = some z := by
  have first : ∀ z : Zone, zoneList.find? (fun x => zoneNo x == z.val + 1) = some z := by decide
  rw [frameZone, if_neg (Nat.not_lt.2 known), number, first]

theorem frameZone_of_outside {s : State} {n : Nat} (outside : n = 0 ∨ s.prof.zones.length < n) : frameZone s n = none := by
  rcases outside with rfl | beyond
  · simp [frameZone, zoneNo]
  · simp [frameZone, beyond]

theorem validFrame_eq (s : State) (z : Zone) (x : Nat) :
    validFrame s z x = if (s.zone z).fresh = true then
        s.setZone z { temperature := min x 3000, fresh := true, timer := .running s.clock }
      else
        afterReport (s.setZone z { temperature := min x 3000, fresh := true, timer := .running s.clock })
          { kind := .zoneFresh, tag := 0#32, station := wordOfNat (z.val + 1), serial := 0#32, clock := s.clock,
            first := wordOfNat (min x 3000), second := if 3000 < x then 1#32 else 0#32 } := by
  unfold validFrame
  refine if_congr Iff.rfl rfl ?_
  rw [post_eq]
  by_cases high : 3000 < x <;> simp [postingOf, high, bitOf, Config.peakLimit, zoneNo, runTimer, wordOfNat]

theorem postStale_eq (s : State) (z : Zone) (reason : Nat) :
    postStale s z reason = afterReport s
      { kind := .zoneStale, tag := 0#32, station := wordOfNat (z.val + 1), serial := 0#32, clock := s.clock,
        first := wordOfNat reason, second := wordOfNat (s.zone z).temperature } := by
  rw [postStale, post_eq]
  rfl

/-- A zone made STALE keeps its temperature, and ZONE_STALE shows it (R116, R117). -/
theorem postStale_setZone (s : State) (z : Zone) (reason : Nat) :
    postStale (s.setZone z { s.zone z with fresh := false, timer := .stopped }) z reason =
      afterReport (s.setZone z { s.zone z with fresh := false, timer := .stopped })
        { kind := .zoneStale, tag := 0#32, station := wordOfNat (z.val + 1), serial := 0#32, clock := s.clock,
          first := wordOfNat reason, second := wordOfNat (s.zone z).temperature } := by
  rw [postStale_eq, State.setZone_zone_self]
  rfl

/-- Settles O23: a frame by its zone and load, the stale timer by its interval. -/
theorem zonesFollowFramesAndTimer : Obligations.ZonesFollowFramesAndTimer := by
  unfold Obligations.ZonesFollowFramesAndTimer
  intro s
  refine ⟨fun n => ⟨fun z x takes number known => ?_, fun unread load => ?_, ?_⟩, fun z => ⟨fun early => ?_, fun due => ?_⟩⟩
  · rw [exec_zoneFrame, exec_zoneFrame, if_pos takes, if_pos takes]
    simp only [takeFrame, frameZone_of_number number known]
    refine ⟨congrArg _ (validFrame_eq s z x.toNat), congrArg _ ?_⟩
    rw [faultFrame, postStale_setZone]
    rfl
  · rw [exec_zoneFrame]
    split
    next takes =>
      have outside : n.toNat = 0 ∨ s.prof.zones.length < n.toNat := by
        rcases unread with shut | rfl | beyond
        · rw [shut] at takes
          cases takes
        · exact .inl rfl
        · exact .inr beyond
      simp only [takeFrame, frameZone_of_outside outside]
    next => rfl
  · rw [exec_zoneFrame]
    split
    next =>
      unfold takeFrame
      split
      next same => cases same
      next same => cases same
      next => rfl
    next => rfl
  · exact congrArg _ (ite_timerDue_neg early _ _)
  · refine congrArg _ ((ite_timerDue_pos due _ _).trans ?_)
    rw [postStale_setZone]
    rfl

/-- Settles O26. -/
theorem setbackTimerAssertsSetback : Obligations.SetbackTimerAssertsSetback := by
  unfold Obligations.SetbackTimerAssertsSetback
  refine fun s => ⟨fun early => congrArg _ (ite_timerDue_neg early _ _), fun due => ?_⟩
  refine congrArg _ ((ite_timerDue_pos due _ _).trans ?_)
  rw [post_eq]
  rfl

/-! ### Bits and fields of a word -/

theorem bitOf_eq (b : Bool) (i : Nat) : bitOf b i = b.toNat * 2 ^ i := by
  cases b <;> simp [bitOf]

theorem wordOfNat_bit {n i : Nat} {b : Bool} (small : i < 32) (bit : n / 2 ^ i % 2 = b.toNat) :
    (wordOfNat n).getLsbD i = b := by
  rw [wordOfNat, BitVec.getLsbD_ofNat, Nat.testBit_eq_decide_div_mod_eq, bit]
  cases b <;> simp [small]

theorem wordOfNat_field {n lo len : Nat} (small : n < 2 ^ 32) :
    ((wordOfNat n).extractLsb' lo len).toNat = n / 2 ^ lo % 2 ^ len := by
  rw [wordOfNat, BitVec.extractLsb'_toNat, BitVec.toNat_ofNat, Nat.mod_eq_of_lt small, Nat.shiftRight_eq_div_pow]

/-! ### Registers (R165, R167, R169, R184) -/

theorem exbaseValid_iff (v : Word) : exbaseValid v = true ↔ v.toNat % 4096 = 0 ∧ v.toNat ≤ 0xFFFE9000 := by
  simp only [exbaseValid, Bool.and_eq_true, beq_iff_eq, decide_eq_true_eq]
  exact Iff.rfl

theorem retireAccepted_iff (s : State) (h : BitVec 16) :
    retireAccepted s h = true ↔
      lineOpen s = true ∧ (h - s.xi.retired).toNat ≤ (s.xi.written - s.xi.retired).toNat := by
  simp only [retireAccepted, Bool.and_eq_true, decide_eq_true_eq]

/-- The seven causes of EVENTS in their bits, and nothing above them (R184). -/
theorem eventsWord_bits (e : Events) :
    e.word.getLsbD 0 = e.report ∧ e.word.getLsbD 1 = e.gap ∧ e.word.getLsbD 2 = e.hold ∧ e.word.getLsbD 3 = e.fault ∧
      e.word.getLsbD 4 = e.cmdDone ∧ e.word.getLsbD 5 = e.cmdRefused ∧ e.word.getLsbD 6 = e.writeIgnored ∧
      e.word.toNat < 128 := by
  have := e.report.toNat_le; have := e.gap.toNat_le; have := e.hold.toNat_le; have := e.fault.toNat_le
  have := e.cmdDone.toNat_le; have := e.cmdRefused.toNat_le; have := e.writeIgnored.toNat_le
  simp only [Events.word, bitOf_eq]
  refine ⟨?_, ?_, ?_, ?_, ?_, ?_, ?_, ?_⟩
  iterate 7
    · exact wordOfNat_bit (by decide) (by omega)
  · rw [wordOfNat, BitVec.toNat_ofNat]
    omega

/-- Settles O46: EXBASE, RETIRE and EVENTS by their acceptance. -/
theorem registerAccessesAreJudged : Obligations.RegisterAccessesAreJudged := by
  unfold Obligations.RegisterAccessesAreJudged
  intro s v
  refine ⟨fun reset => ?_, _, exec_eventsRead s, rfl, rfl, eventsWord_bits s.events⟩
  simp only [exec_exbaseWrite, exec_retireWrite, reset, Bool.false_eq_true, if_false]
  refine ⟨fun line idle aligned below => ?_, fun turned => ?_, fun line within => ?_, fun turned => ?_⟩
  · simp [line, idle, (exbaseValid_iff v).2 ⟨aligned, below⟩]
  · refine congrArg _ (if_neg fun taken => ?_)
    simp only [Bool.and_eq_true, beq_iff_eq, Bool.not_eq_true', exbaseValid_iff] at taken
    obtain ⟨⟨line, idle⟩, aligned, below⟩ := taken
    rcases turned with h | h | h | h
    · exact h line
    · exact Bool.noConfusion (idle.symm.trans h)
    · exact h aligned
    · omega
  · simp [(retireAccepted_iff s _).2 ⟨line, within⟩]
  · refine congrArg _ (if_neg fun taken => ?_)
    obtain ⟨line, within⟩ := (retireAccepted_iff s _).1 taken
    rcases turned with shut | beyond
    · exact Bool.noConfusion (shut.symm.trans line)
    · omega

theorem lineCode_eq (s : State) :
    lineCode s = match s.lc.line, s.os.entry with
      | .printing, some i => i.val
      | .unloaded, _ => if s.busy then 65 else 64
      | .loading, _ => 66
      | _, _ => 67 := by
  unfold lineCode
  cases s.lc.line <;> cases s.os.entry <;> rfl

theorem lineCode_lt (s : State) : lineCode s < 128 := by
  unfold lineCode
  repeat' split
  all_goals omega

theorem faultCode_lt (r : Option FaultReason) : faultCode r < 8 := by
  unfold faultCode
  split <;> decide

theorem festoonUnits_lt (s : State) : festoonUnits s < 65536 := by
  unfold festoonUnits Config.festoonShown
  split <;> omega

/-- Settles O50: the fields of STATUS do not overlap, so each is read off the sum. -/
theorem statusShowsTheLine : Obligations.StatusShowsTheLine := by
  unfold Obligations.StatusShowsTheLine
  intro s
  have := lineCode_lt s; have := faultCode_lt s.lc.firstFault; have := festoonUnits_lt s
  have := s.lc.holds.host.toNat_le; have := s.lc.holds.order.toNat_le; have := s.lc.holds.festoon.toNat_le
  have := s.lc.holds.standstill.toNat_le; have := s.ci.setback.toNat_le
  have := (decide (0 < s.xi.lost)).toNat_le
  have units : (if lineOpen s then min (festoon s / 10000).toNat 65535 else 0) = festoonUnits s := rfl
  rw [units]
  simp only [statusWord, bitOf_eq]
  refine ⟨Eq.trans ?_ (lineCode_eq s), ?_, ?_, ?_, ?_, ?_, ?_, ?_, ?_⟩
  · rw [wordOfNat_field (by omega)]
    omega
  iterate 4
    · exact wordOfNat_bit (by decide) (by omega)
  · rw [wordOfNat_field (by omega)]
    omega
  iterate 2
    · exact wordOfNat_bit (by decide) (by omega)
  · rw [wordOfNat_field (by omega)]
    omega

/-! ### Refusals (R171) and SIGNAL (R32) -/

theorem trimStation_of_number {st : BitVec 5} {i : Station} (number : st.toNat = i.val + 1) : trimStation st = some i := by
  have first : ∀ i : Station, stationList.find? (fun x => stationNo x == i.val + 1) = some i := by decide
  rw [trimStation, number, first]

theorem trimStation_of_outside {st : BitVec 5} (outside : st = 0#5 ∨ 16 < st.toNat) : trimStation st = none := by
  refine List.find?_eq_none.2 fun i _ => ?_
  have : st.toNat = 0 ∨ 16 < st.toNat := outside.imp (fun h => by rw [h]; rfl) id
  rw [beq_iff_eq, stationNo]
  omega

/-- A TRIM has no target where its number names no station in service (R171). -/
theorem trimTarget_none {s : State} {st : BitVec 5}
    (astray : st = 0#5 ∨ 16 < st.toNat ∨ ∃ i : Station, st.toNat = i.val + 1 ∧ (s.stationCfg i).inService = false) :
    trimTarget s st = none := by
  rw [← or_assoc] at astray
  rcases astray with outside | ⟨i, number, idle⟩
  · rw [trimTarget, trimStation_of_outside outside]
    rfl
  · simp [trimTarget, trimStation_of_number number, idle]

/-- With the line closed only LOAD_PROFILE can be accepted (R171). -/
theorem exec_refused_of_closed {s : State} (reset : s.pins.resetAsserted = false) (closed : lineOpen s = false) {c : Instr}
    (command : writesCommand c = true) (wf : WellFormed c = true) (other : c ≠ .loadProfile) :
    exec c s = .next (refuseCommand s) := by
  have shut := closed
  simp only [lineOpen, Bool.or_eq_false_iff] at shut
  obtain ⟨unready, unprinting⟩ := shut
  have refused (allowed : Bool) (h : allowed = false) (effect : State → State) :
      Host.Outcome.next (judgeCommand s allowed effect) = (.next (refuseCommand s) : Host.Outcome State Fault Refusal) :=
    congrArg _ (judgeCommand_refused reset (.inr h) effect)
  cases c with
  | loadProfile => exact absurd rfl other
  | unload => exact refused _ unready _
  | abortOrder => exact refused _ unprinting _
  | signal | hold | resume | clearFault | liftSet | liftClear => exact refused _ closed _
  | trim st d => exact refused _ (by rw [closed, Bool.false_and]) _
  | commandCodeUndefined code =>
    have unnamed : codeNamesCommand code = false := by simpa [WellFormed] using wf
    refine (if_neg (by simp [unnamed])).trans ?_
    exact refused _ rfl _
  | _ => cases command

/-- Settles O48, by what each command is refused for. -/
theorem refusedCommandsHaveNoEffect : Obligations.RefusedCommandsHaveNoEffect := by
  unfold Obligations.RefusedCommandsHaveNoEffect
  intro s reset
  have refused (allowed : Bool) (h : s.busy = true ∨ allowed = false) (effect : State → State) :
      Host.Outcome.next (judgeCommand s allowed effect) =
        (.next { s with events.cmdRefused := true } : Host.Outcome State Fault Refusal) :=
    congrArg _ (judgeCommand_refused reset h effect)
  refine ⟨fun busy c command wf => ?_, fun line => ?_, fun line => ?_, fun line => ?_,
    fun closed c => exec_refused_of_closed reset closed, fun n unnamed => ?_, fun st d astray => ?_⟩
  · obtain ⟨allowed, effect, judged⟩ := exec_of_writesCommand command wf s
    rw [judged, refused allowed (.inl busy) effect]
  · exact refused _ (.inr (by simpa using line)) _
  · exact refused _ (.inr (by simpa using line)) _
  · exact refused _ (.inr (by simpa using line)) _
  · have outside : codeNamesCommand n = false := by
      have : n.toNat = 0 ∨ 11 ≤ n.toNat := unnamed.imp (fun h => by rw [h]; rfl) id
      simp only [codeNamesCommand, Bool.and_eq_false_iff, decide_eq_false_iff_not]
      omega
    refine (if_neg (by simp [outside])).trans ?_
    exact refused _ (.inr rfl) _
  · exact refused _ (.inr (by rw [trimTarget_none astray]; exact Bool.and_false _)) _

/-- Settles O32, by the next-order status and the suspension. -/
theorem signalLooksAtSlotN : Obligations.SignalLooksAtSlotN := by
  unfold Obligations.SignalLooksAtSlotN
  intro s may
  have effect : exec .signal s = .next (doneCommand (lookAtSlot s)) :=
    congrArg _ (judgeCommand_open may fun t => doneCommand (lookAtSlot t))
  rw [effect]
  refine ⟨fun empty runs => ?_, fun empty stopped => ?_, fun other => ?_⟩
  · rw [lookAtSlot, if_pos empty, startSlotRead_open (by simp [runs])]
    rfl
  · rw [lookAtSlot, if_pos empty, startSlotRead_suspended stopped, ← empty]
    rfl
  · rw [lookAtSlot, if_neg other]
    rfl

end Sys2Proof.Machine
end

section
/-! PROOF. Sweeps over the stations; manual lift bits, end sensors and the actuation timer of a channel; the hold causes that
HOLD, the standstill timer and RESUME move. -/

namespace Sys2Proof.Machine

/-! ### Sweeps over a list, one element at a time -/

section
variable {α X : Type} {f : State → α → State} {get : State → α → X} {P : State → Prop}

/-- What every step of a sweep keeps, the sweep keeps. -/
theorem foldl_keeps (keeps : ∀ s a, P s → P (f s a)) (l : List α) {s : State} (h : P s) : P (l.foldl f s) :=
  List.foldlRecOn l f h fun t ht a _ => keeps t a ht

theorem foldl_untouched (others : ∀ s a b, b ≠ a → get (f s a) b = get s b) {b : α} (l : List α) (absent : b ∉ l) (s : State) :
    get (l.foldl f s) b = get s b :=
  List.foldlRecOn (motive := fun t => get t b = get s b) l f rfl fun t ht a ha =>
    (others t a b fun same => absent (same ▸ ha)).trans ht

/-- A sweep whose steps each change one element's part of the state does at each element what one step does there. -/
theorem foldl_local (keeps : ∀ s a, P s → P (f s a)) (others : ∀ s a b, b ≠ a → get (f s a) b = get s b) {b : α} {g : X → X}
    (self : ∀ s, P s → get (f s b) b = g (get s b)) {l : List α} (once : l.Nodup) (mem : b ∈ l) {s : State} (h : P s) :
    get (l.foldl f s) b = g (get s b) := by
  induction l generalizing s with
  | nil => cases mem
  | cons a rest ih =>
    rw [List.foldl_cons]
    rcases List.mem_cons.1 mem with rfl | later
    · rw [foldl_untouched others rest (List.nodup_cons.1 once).1, self s h]
    · have other : b ≠ a := fun same => (List.nodup_cons.1 once).1 (same ▸ later)
      rw [ih (List.nodup_cons.1 once).2 later (keeps s a h), others s a b other]

end

/-! ### Manual lift (R80) -/

theorem setManualAt_chan (m : StationSet) (b : Bool) (s : State) (i : Station) :
    (setManualAt m b s i).chan i = { s.chan i with manual := if inSet m i then b else (s.chan i).manual } := by
  unfold setManualAt
  by_cases named : inSet m i = true <;> simp [named]

theorem setManualAt_chan_of_ne (m : StationSet) (b : Bool) (s : State) (i j : Station) (other : j ≠ i) :
    (setManualAt m b s i).chan j = s.chan j := by
  unfold setManualAt
  split
  next => exact State.setChan_chan_of_ne _ _ _ _ other.symm
  next => rfl

theorem setManual_chan (s : State) (m : StationSet) (b : Bool) (i : Station) :
    (setManual s m b).chan i = { s.chan i with manual := if inSet m i then b else (s.chan i).manual } :=
  foldl_local (P := fun _ => True) (get := State.chan) (g := fun c => { c with manual := if inSet m i then b else c.manual })
    (fun _ _ h => h) (setManualAt_chan_of_ne m b) (fun s _ => setManualAt_chan m b s i) stationList_nodup (mem_stationList i)
    trivial

theorem setManual_eq (s : State) (m : StationSet) (b : Bool) : setManual s m b = { s with sc := (setManual s m b).sc } := by
  refine foldl_keeps (P := fun t => t = { s with sc := t.sc }) (fun t i h => ?_) stationList rfl
  unfold setManualAt
  split
  next =>
    rw [h]
    rfl
  next => exact h

/-- Settles O15, by the bit of each station. -/
theorem liftCommandsWriteTheManualBits : Obligations.LiftCommandsWriteTheManualBits := by
  unfold Obligations.LiftCommandsWriteTheManualBits
  intro s m may
  have effect (b : Bool) : ∃ t, judgeCommand s (lineOpen s) (fun t => doneCommand (setManual t m b)) = t ∧
      (∀ i, t.chan i = { s.chan i with manual := if inSet m i then b else (s.chan i).manual }) ∧
      t = { s with sc := t.sc, events.cmdDone := true } := by
    refine ⟨_, judgeCommand_open may _, setManual_chan s m b, ?_⟩
    rw [setManual_eq]
    rfl
  obtain ⟨t, lifts, set, setFrame⟩ := effect true
  obtain ⟨u, clears, clear, clearFrame⟩ := effect false
  refine ⟨⟨t, congrArg _ lifts, fun i => (set i).trans ?_, setFrame⟩,
    ⟨u, congrArg _ clears, fun i => (clear i).trans ?_, clearFrame⟩⟩
  · cases inSet m i <;> simp
  · cases inSet m i <;> simp

/-! ### Hold causes raised and cleared (R145 to R147) -/

theorem HoldSet.join_of_empty {h : HoldSet} (empty : h.any = false) (x : HoldSet) : h.join x = x := by
  simp_all [HoldSet.any, HoldSet.join]

/-- A cause raised without a fault reason while another holds the line only joins the set (R145). -/
theorem raiseCause_held {s : State} (opened : lineOpen s = true) (held : s.lc.holds.any = true) (c : HoldCause) :
    raiseCause s c none = { s with lc.holds := s.lc.holds.join (holdOf c) } := by
  simp [raiseCause, opened, held]

/-- The first cause raised is a hold entry (R146). -/
theorem raiseCause_enters {s : State} (opened : lineOpen s = true) (empty : s.lc.holds.any = false) (c : HoldCause) :
    EntersHold s (raiseCause s c none) (holdOf c) none := by
  simp only [raiseCause, opened, empty, Bool.not_true, Bool.false_eq_true, if_false, HoldSet.join_of_empty empty]
  exact EntersHold.ofHolds _ _ _ _ _ (holdEntry_enters _ none)

theorem exec_standstillTimerExpiry (s : State) : exec .standstillTimerExpiry s = .next (standstillExpiry s) := rfl

/-- Settles O29: HOLD and the due standstill timer each raise one cause. -/
theorem holdAndStandstillRaiseTheirCause : Obligations.HoldAndStandstillRaiseTheirCause := by
  unfold Obligations.HoldAndStandstillRaiseTheirCause
  intro s
  refine ⟨fun may => ?_, fun early => ?_, fun due => ?_⟩
  · have effect : exec .hold s = .next (doneCommand (raiseCause s .host none)) :=
      congrArg _ (judgeCommand_open may fun t => doneCommand (raiseCause t .host none))
    obtain ⟨-, -, opened⟩ := may
    rw [effect]
    refine ⟨fun held => ?_, fun empty => ⟨_, rfl, raiseCause_enters opened empty .host⟩⟩
    rw [raiseCause_held opened held]
    simp [HoldSet.join, holdOf, doneCommand]
  · rw [exec_standstillTimerExpiry, standstillExpiry, ite_timerDue_neg early]
  · have expires : standstillExpiry s = raiseCause { s with lc.standstill := .stopped } .standstill none :=
      ite_timerDue_pos due _ _
    rw [exec_standstillTimerExpiry, expires]
    generalize stopped : { s with lc.standstill := .stopped } = u
    have line : lineOpen u = lineOpen s := by rw [← stopped]; rfl
    have holds : u.lc.holds = s.lc.holds := by rw [← stopped]
    rw [← line, ← holds]
    refine ⟨fun shut => ?_, fun opened held => ?_, fun opened empty => ⟨_, rfl, raiseCause_enters opened empty .standstill⟩⟩
    · rw [raiseCause_closed shut]
    · rw [raiseCause_held opened held, ← stopped]
      simp [HoldSet.join, holdOf]

theorem clearCauses_stays {s : State} {cs : HoldSet} (stays : s.lc.holds.any = false ∨ (s.lc.holds.minus cs).any = true) :
    clearCauses s cs = { s with lc.holds := s.lc.holds.minus cs } := by
  refine if_neg fun exits => ?_
  simp only [Bool.and_eq_true, Bool.not_eq_true'] at exits
  obtain ⟨held, empties⟩ := exits
  rcases stays with empty | remains
  · exact Bool.noConfusion (empty.symm.trans held)
  · exact Bool.noConfusion (empties.symm.trans remains)

/-- HOLD_OFF at a hold exit, listing what the event cleared (R147). -/
def holdOffPosting (s : State) (cleared : HoldSet) : Posting :=
  { kind := .holdOff, tag := entryTag s, station := 0#32, serial := wordOfNat s.wt.nextSerial, clock := s.clock,
    first := wordOfNat cleared.mask, second := s.clock - s.lc.holdStart }

theorem holdExit_posts (s : State) (cleared : HoldSet) :
    holdExit s cleared = judgePermit (afterReport s (holdOffPosting s cleared)) := by
  rw [holdExit, post_eq]
  rfl

/-- Causes cleared that empty the set: permit, and HOLD_OFF with what was held (R147). -/
theorem clearCauses_exits {s : State} {cs : HoldSet} (opened : lineOpen s = true) (held : s.lc.holds.any = true)
    (empties : s.lc.holds.minus cs = {}) :
    clearCauses s cs = { s with
      lc := { s.lc with holds := {}, permit := true }
      xi := xiAfterReport s (holdOffPosting s (s.lc.holds.meet cs))
      events := eventsAfterReport s
      draws := s.draws + 1 } := by
  have exits : (s.lc.holds.any && !(s.lc.holds.minus cs).any) = true := by rw [held, empties]; rfl
  have judged : (lineOpen s && !HoldSet.any {}) = true := by rw [opened]; rfl
  rw [clearCauses, if_pos exits, holdExit_posts, empties, ← judged]
  rfl

theorem resumeCauses_all {h : HoldSet} (festoon : h.festoon = false) (fault : h.fault = false) :
    h.meet resumeCauses = h ∧ h.minus resumeCauses = {} := by
  cases h
  simp_all [HoldSet.meet, HoldSet.minus, resumeCauses]

/-- Settles O30, by what RESUME leaves of the set. -/
theorem resumeClearsTheHostCauses : Obligations.ResumeClearsTheHostCauses := by
  unfold Obligations.ResumeClearsTheHostCauses
  intro s may
  have effect : exec .resume s = .next (doneCommand (clearCauses s resumeCauses)) :=
    congrArg _ (judgeCommand_open may fun t => doneCommand (clearCauses t resumeCauses))
  obtain ⟨-, -, opened⟩ := may
  have left : s.lc.holds.minus resumeCauses = { s.lc.holds with host := false, order := false, standstill := false } := by
    simp [HoldSet.minus, resumeCauses]
  rw [effect]
  refine ⟨fun stays => ?_, fun held festoon fault => ?_⟩
  · have remains : s.lc.holds.any = false ∨ (s.lc.holds.minus resumeCauses).any = true := by
      rw [left]
      rcases stays with festoon | fault | empty
      · exact .inr (by simp [HoldSet.any, festoon])
      · exact .inr (by simp [HoldSet.any, fault])
      · exact .inl empty
    rw [clearCauses_stays remains, left]
    rfl
  · obtain ⟨cleared, empties⟩ := resumeCauses_all festoon fault
    rw [clearCauses_exits opened held empties, cleared]
    rfl

end Sys2Proof.Machine
end

section
/-! PROOF. The channels: what a fault, the end of a motion and the actuation timer do to one of them, and the engaged
indication that follows. -/

namespace Sys2Proof.Machine

/-! ### The engaged indication (R68, R150) -/

theorem syncEngaged_follows (s : State) : EngagedFollows s (syncEngaged s) := by
  rw [syncEngaged_eq]
  exact ⟨anyEngaged_iff s, rfl⟩

theorem exec_stationSensorChange {s : State} (reset : s.pins.resetAsserted = false) (i : Station) (k : Sensor) (b : Bool) :
    exec (.stationSensorChange i k b) s = .next (sensorChange s i k b) :=
  congrArg _ (if_neg (by simp [reset]))

/-! ### A channel faulted (R71) -/

theorem faultChannel_eq (s : State) (i : Station) (r : StationFault) :
    faultChannel s i r = syncEngaged (afterReport
      (s.setChan i { s.chan i with state := .faulted, reason := some r, pendingLower := false, timer := .stopped })
      (stationFaultReport s i r)) := by
  rw [faultChannel, post_eq]
  rfl

theorem faultChannel_chan (s : State) (i : Station) (r : StationFault) (j : Station) :
    (faultChannel s i r).chan j = (s.setChan i
      { s.chan i with state := .faulted, reason := some r, pendingLower := false, timer := .stopped }).chan j := by
  rw [faultChannel_eq, syncEngaged_chan]
  rfl

theorem faultChannel_pins (s : State) (i : Station) (r : StationFault) : (faultChannel s i r).pins = s.pins := by
  rw [faultChannel_eq, syncEngaged_eq]
  rfl

theorem faultChannel_enters (s : State) (i : Station) (r : StationFault) : EntersFaulted s (faultChannel s i r) i r where
  channel := by rw [faultChannel_chan, State.setChan_chan_self]
  others j other := by rw [faultChannel_chan, State.setChan_chan_of_ne _ _ _ _ other.symm]
  report := by
    rw [faultChannel_eq, syncEngaged_eq]
    rfl
  engaged := by
    rw [faultChannel_eq]
    exact syncEngaged_follows _
  rest := by
    rw [faultChannel_eq, syncEngaged_eq]
    rfl

/-- A fault does not look at the pins. -/
theorem EntersFaulted.ofPins {s t : State} {p : Pins} {i : Station} {r : StationFault}
    (h : EntersFaulted { s with pins := p } t i r) : EntersFaulted s t i r :=
  ⟨h.channel, h.others, h.report, h.engaged, h.rest⟩

/-! ### Sensors (R70, R74, R75) -/

theorem inSet_addTo_self (m : StationSet) (i : Station) : inSet (addTo m i) i = true := (inSet_addTo m i i).2 (.inr rfl)

theorem inSet_minusSet_one (m : StationSet) (i : Station) : inSet (minusSet m (oneSet i)) i = false := by
  have self := inSet_oneSet i i
  simp_all [inSet, minusSet]

theorem sensorChange_changed {s : State} {i : Station} {k : Sensor} {b : Bool} (changed : sensorLevel s i k ≠ b) :
    sensorChange s i k b = judgeSensor (setSensor s i k b) i k b := if_neg changed

theorem judgeSensor_idle {s : State} {i : Station} (idle : (s.chan i).state = .out ∨ (s.chan i).state = .faulted)
    (k : Sensor) (b : Bool) : judgeSensor s i k b = s := by
  rcases idle with state | state <;> simp [judgeSensor, state]

/-- A channel that heeds its sensors. -/
def Heeds (c : Channel) : Prop := c.state ≠ .out ∧ c.state ≠ .faulted

theorem heeds_of_state {c : Channel} {x : ChannelState} (state : c.state = x) (moves : x ≠ .out ∧ x ≠ .faulted) : Heeds c :=
  by rwa [Heeds, state]

theorem judgeSensor_conflict {s : State} {i : Station} (heeds : Heeds (s.chan i)) (up : inSet s.pins.upSense i = true)
    (down : inSet s.pins.downSense i = true) (k : Sensor) (b : Bool) :
    judgeSensor s i k b = faultChannel s i .senseConflict := by
  obtain ⟨inService, healthy⟩ := heeds
  unfold judgeSensor
  split
  next out => exact absurd out inService
  next faulted => exact absurd faulted healthy
  all_goals rw [if_pos (by rw [up, down]; rfl)]

/-- The cell of R74 for a channel that heeds its sensors, with at most one of them high. -/
theorem judgeSensor_cell {s : State} {i : Station} (heeds : Heeds (s.chan i))
    (apart : inSet s.pins.upSense i = false ∨ inSet s.pins.downSense i = false) (k : Sensor) (b : Bool) :
    judgeSensor s i k b =
      if (s.chan i).state = .lifted ∧ k = .up ∧ b = false then faultChannel s i .upLost
      else if (s.chan i).state = .lowering ∧ k = .down ∧ b = true then endOfLowering s i
      else if (s.chan i).state = .engaged ∧ k = .down ∧ b = false then faultChannel s i .downLost
      else if (s.chan i).state = .lifting ∧ k = .up ∧ b = true then endOfLift s i
      else s := by
  obtain ⟨inService, healthy⟩ := heeds
  have single : ¬(inSet s.pins.upSense i && inSet s.pins.downSense i) = true := by
    rcases apart with low | low <;> simp [low]
  unfold judgeSensor
  rw [if_neg single]
  cases state : (s.chan i).state with
  | out => exact absurd state inService
  | faulted => exact absurd state healthy
  | lifted | lowering | engaged | lifting => cases k <;> cases b <;> simp

theorem setSensor_chan (s : State) (i : Station) (k : Sensor) (b : Bool) (j : Station) :
    (setSensor s i k b).chan j = s.chan j := by
  cases k <;> rfl

/-- The cell of R74 for a changed level that leaves at most one sensor high. -/
theorem sensorChange_cell {s : State} {i : Station} (k : Sensor) (b : Bool) (heeds : Heeds (s.chan i))
    (changed : sensorLevel s i k ≠ b)
    (apart : inSet (setSensor s i k b).pins.upSense i = false ∨ inSet (setSensor s i k b).pins.downSense i = false) :
    sensorChange s i k b =
      if (s.chan i).state = .lifted ∧ k = .up ∧ b = false then faultChannel (setSensor s i k b) i .upLost
      else if (s.chan i).state = .lowering ∧ k = .down ∧ b = true then endOfLowering (setSensor s i k b) i
      else if (s.chan i).state = .engaged ∧ k = .down ∧ b = false then faultChannel (setSensor s i k b) i .downLost
      else if (s.chan i).state = .lifting ∧ k = .up ∧ b = true then endOfLift (setSensor s i k b) i
      else setSensor s i k b := by
  rw [sensorChange_changed changed, judgeSensor_cell (by rwa [setSensor_chan]) apart, setSensor_chan]

/-- A rise that leaves both sensors high (R75). -/
theorem sensorChange_conflict {s : State} {i : Station} (k : Sensor) (b : Bool) (heeds : Heeds (s.chan i))
    (changed : sensorLevel s i k ≠ b) (up : inSet (setSensor s i k b).pins.upSense i = true)
    (down : inSet (setSensor s i k b).pins.downSense i = true) :
    sensorChange s i k b = faultChannel (setSensor s i k b) i .senseConflict := by
  rw [sensorChange_changed changed, judgeSensor_conflict (by rwa [setSensor_chan]) up down]

/-- Settles O13, cell by cell. -/
theorem sensorsFaultAChannel : Obligations.SensorsFaultAChannel := by
  unfold Obligations.SensorsFaultAChannel
  intro s i reset
  have run (k : Sensor) (b : Bool) := exec_stationSensorChange reset i k b
  refine ⟨fun state high => ?_, fun state high => ?_, fun inService healthy low high => ?_,
    fun inService healthy high low => ?_, fun idle k b => ?_, fun k b t inService healthy same => ⟨fun held => ?_, ?_⟩,
    rfl, rfl, rfl, rfl, rfl, rfl⟩
  · refine ⟨_, run .up false, ?_⟩
    rw [sensorChange_cell .up false (heeds_of_state state (by decide)) (by simpa [sensorLevel] using high)
      (.inl (inSet_minusSet_one _ i)), if_pos ⟨state, rfl, rfl⟩]
    exact ⟨(faultChannel_enters _ i .upLost).ofPins, faultChannel_pins _ i .upLost⟩
  · refine ⟨_, run .down false, ?_⟩
    rw [sensorChange_cell .down false (heeds_of_state state (by decide)) (by simpa [sensorLevel] using high)
      (.inr (inSet_minusSet_one _ i)), if_neg (by simp), if_neg (by simp), if_pos ⟨state, rfl, rfl⟩]
    exact ⟨(faultChannel_enters _ i .downLost).ofPins, faultChannel_pins _ i .downLost⟩
  · refine ⟨_, run .up true, ?_⟩
    rw [sensorChange_conflict .up true ⟨inService, healthy⟩ (by simpa [sensorLevel] using low) (inSet_addTo_self _ i) high]
    exact ⟨(faultChannel_enters _ i .senseConflict).ofPins, faultChannel_pins _ i .senseConflict⟩
  · refine ⟨_, run .down true, ?_⟩
    rw [sensorChange_conflict .down true ⟨inService, healthy⟩ (by simpa [sensorLevel] using low) high (inSet_addTo_self _ i)]
    exact ⟨(faultChannel_enters _ i .senseConflict).ofPins, faultChannel_pins _ i .senseConflict⟩
  · rw [run, sensorChange]
    exact congrArg _ (if_congr Iff.rfl rfl (judgeSensor_idle (by rwa [setSensor_chan]) k b))
  · rw [run, sensorChange, if_pos held]
  · intro changed apart lifted lowering engaged lifting
    subst same
    rw [run, sensorChange_cell k b ⟨inService, healthy⟩ changed apart, if_neg lifted, if_neg lowering, if_neg engaged,
      if_neg lifting]

/-- The end of a lowering engages the screen, and with it the engaged indication (R70, R150). -/
theorem endOfLowering_eq (s : State) (i : Station) :
    endOfLowering s i = { s.setChan i { s.chan i with state := .engaged, timer := .stopped } with
      lc := { s.lc with
        engaged := true
        standstill := if s.lc.engaged then s.lc.standstill else .running s.clock } } := by
  have down : anyEngaged (s.setChan i { s.chan i with state := .engaged, timer := .stopped }) = true :=
    (anyEngaged_iff _).2 ⟨i, by rw [State.setChan_chan_self]⟩
  rw [endOfLowering, syncEngaged_eq, down]
  cases engaged : s.lc.engaged <;> simp [engaged]

theorem State.setChan_setChan (s : State) (i : Station) (c d : Channel) : (s.setChan i c).setChan i d = s.setChan i d := by
  simp [State.setChan, Vector.set_set]

theorem syncEngaged_of_law {s : State} (h : EngagedLaw s) : syncEngaged s = s :=
  if_pos (Bool.eq_iff_iff.2 ((anyEngaged_iff s).trans h.1.symm))

/-- The lowering that a LIFTING channel has deferred begins at its end (R70). -/
def LowersAgain (s : State) (i : Station) : Prop :=
  (s.chan i).pendingLower = true ∧ (s.chan i).lastRequired = true ∧ (s.chan i).manual = false ∧ s.lc.holds.any = false

theorem endOfLift_again {s : State} {i : Station} (again : LowersAgain s i) (down : inSet s.pins.downSense i = false) :
    endOfLift s i = syncEngaged
      (s.setChan i { s.chan i with state := .lowering, pendingLower := false, timer := .running s.clock }) := by
  obtain ⟨pending, required, auto, unheld⟩ := again
  simp [endOfLift, pending, required, auto, unheld, beginLowering, down, State.setChan_setChan, runTimer]

theorem endOfLift_rests {s : State} {i : Station} (rests : ¬LowersAgain s i) :
    endOfLift s i = s.setChan i { s.chan i with state := .lifted, pendingLower := false, timer := .stopped } := by
  refine if_neg fun again => rests ?_
  simpa only [LowersAgain, Bool.and_eq_true, Bool.not_eq_true', and_assoc] using again

/-- Settles O12. -/
theorem sensesEndAMotion : Obligations.SensesEndAMotion := by
  unfold Obligations.SensesEndAMotion
  intro s i reset up down
  refine ⟨fun state => ⟨_, exec_stationSensorChange reset i .down true, ?_⟩,
    fun state => ⟨_, exec_stationSensorChange reset i .up true, ?_⟩⟩
  · rw [sensorChange_cell .down true (heeds_of_state state (by decide)) (by simpa [sensorLevel] using down) (.inl up),
      if_neg (by simp), if_pos ⟨state, rfl, rfl⟩, endOfLowering_eq]
    refine ⟨?_, fun j other => ?_, rfl, rfl⟩
    · exact State.setChan_chan_self _ i _
    · exact State.setChan_chan_of_ne _ i j _ other.symm
  · rw [sensorChange_cell .up true (heeds_of_state state (by decide)) (by simpa [sensorLevel] using up) (.inr down),
      if_neg (by simp), if_neg (by simp), if_neg (by simp), if_pos ⟨state, rfl, rfl⟩]
    by_cases again : LowersAgain s i
    · have lowers := endOfLift_again (s := setSensor s i .up true) again down
      rw [lowers]
      refine ⟨?_, fun j other => ?_, ?_, fun law => ?_⟩
      · rw [syncEngaged_chan, State.setChan_chan_self]
        exact (if_pos again).symm
      · rw [syncEngaged_chan, State.setChan_chan_of_ne _ _ _ _ other.symm]
        rfl
      · rw [syncEngaged_eq]
        rfl
      · have still : EngagedLaw (setSensor s i .up true) := law
        rw [syncEngaged_of_law (still.setChan (by simp [setSensor_chan, state]))]
        rfl
    · have rests := endOfLift_rests (s := setSensor s i .up true) again
      rw [rests]
      refine ⟨?_, fun j other => State.setChan_chan_of_ne _ i j _ other.symm, rfl, fun _ => rfl⟩
      exact (State.setChan_chan_self _ i _).trans (if_neg again).symm

/-- No screen is commanded down by a hold (R77). -/
theorem heldChannel_up (clk : Word) (c : Channel) :
    (heldChannel clk c).state ≠ .lowering ∧ (heldChannel clk c).state ≠ .engaged := by
  unfold heldChannel
  split
  next state => simp
  next state => simp
  next state => simp [state]
  next state => simp [state]
  next state => simp [state]
  next state => simp [state]

/-! ### The actuation timer (R72, R73) -/

theorem exec_actuationTimerExpiry (s : State) (i : Station) :
    exec (.actuationTimerExpiry i) s = .next (actuationExpiry s i) := rfl

/-- Settles O14: the expiry by the motion that was not seen to end. -/
theorem actuationTimeoutsFaultTheChannel : Obligations.ActuationTimeoutsFaultTheChannel := by
  unfold Obligations.ActuationTimeoutsFaultTheChannel
  intro s i
  rw [exec_actuationTimerExpiry]
  refine ⟨fun early => ?_, fun due lowering => ⟨_, rfl, ?_⟩, fun due lifting opened => ?_⟩
  · rw [actuationExpiry, ite_timerDue_neg early]
  · rw [actuationExpiry, ite_timerDue_pos due, lowering]
    exact ⟨faultChannel_enters s i .lowerTimeout, faultChannel_pins s i .lowerTimeout⟩
  · have faulted := faultChannel_enters s i .liftTimeout
    have pins := faultChannel_pins s i .liftTimeout
    have expires : actuationExpiry s i = raiseFault (faultChannel s i .liftTimeout) .stationLift := by
      rw [actuationExpiry, ite_timerDue_pos due, lifting]
    generalize faultChannel s i .liftTimeout = u at *
    have line : lineOpen u = true := by rw [← opened, faulted.rest]; rfl
    have holds : u.lc.holds = s.lc.holds := by rw [faulted.rest]
    have raises := raiseFault_raises u .stationLift line
    rw [expires]
    generalize raiseFault u .stationLift = t at *
    refine ⟨u, t, faulted, pins, raises, rfl, ?_, fun empty => ?_⟩
    · cases held : u.lc.holds.any with
      | true =>
        rw [raises.1 held]
        exact faulted.channel
      | false =>
        rw [(raises.2 held).channels]
        exact (congrArg _ faulted.channel).trans rfl
    · have enters := raises.2 (holds ▸ empty)
      exact ⟨by rw [enters.line], fun j => by rw [enters.channels]; exact heldChannel_up _ _⟩

end Sys2Proof.Machine
end

section
/-! PROOF. The reset values (R177); what an order body spells (R180, R181) and the table by which it is refused (R27). -/

namespace Sys2Proof.Machine

/-! ### Reset -/

theorem exec_reset (c : ResetCause) (s : State) : exec (.reset c) s = .next (resetPart s c) := rfl

theorem resetPart_chan (s : State) (c : ResetCause) (i : Station) : (resetPart s c).chan i = resetChannel := by
  simp [resetPart, State.reset, State.chan]

theorem resetPart_stationCfg (s : State) (c : ResetCause) (i : Station) : (resetPart s c).stationCfg i = noStation := by
  simp [resetPart, State.reset, noProfile, State.stationCfg]

theorem resetPart_pageInUse (s : State) (c : ResetCause) (p : Page) : pageInUse (resetPart s c).prof p = [] := by
  simp [pageInUse, resetPart, State.reset, noProfile]

theorem resetPart_takesEvents (s : State) (c : ResetCause) : takesEvents (resetPart s c) = false := Bool.and_false _

/-- A sensor change at a channel that is OUT shows at the pins only (R74, R177). -/
theorem sensorChange_out {s : State} {i : Station} (out : (s.chan i).state = .out) (k : Sensor) (b : Bool) :
    ∃ u, exec (.stationSensorChange i k b) s = .next u ∧ u = { s with pins := u.pins } := by
  have pinsOnly : setSensor s i k b = { s with pins := (setSensor s i k b).pins } := by cases k <;> rfl
  refine ⟨_, rfl, ?_⟩
  split
  next => exact pinsOnly
  next =>
    unfold sensorChange
    split
    next => rfl
    next =>
      rw [judgeSensor_idle (.inl (by rwa [setSensor_chan]))]
      exact pinsOnly

/-- Settles O45: the reset values are those of the model's reset state, by field. -/
theorem resetBringsTheResetValues : Obligations.ResetBringsTheResetValues := by
  unfold Obligations.ResetBringsTheResetValues
  intro s c
  have shut := resetPart_takesEvents s c
  refine ⟨_, exec_reset c s, rfl, fun a => rfl, fun i => ?_, fun i => ?_, rfl, rfl, rfl, fun z => ?_,
    ⟨rfl, resetPart_pageInUse s c⟩, rfl, rfl, rfl, rfl, rfl, rfl, rfl, ⟨rfl, rfl, rfl, rfl, rfl, fun i => ?_⟩, rfl, rfl, rfl,
    rfl, rfl, rfl, rfl, rfl, rfl, fun x input => ?_, fun i k b => ?_, ?_, fun asserted => ?_, fun u released => ?_⟩
  · rw [resetPart_chan, resetPart_stationCfg]
    exact ⟨rfl, rfl, rfl, rfl⟩
  · simp [resetPart, State.reset, State.phase, resetPhaseUnit, resetPhaseStation]
  · simp [resetPart, State.reset, State.zone, resetCure, resetZone]
  · simp [resetPart, State.reset, resetReader]
  · rcases input with rfl | rfl | ⟨e, rfl⟩ | ⟨n, l, rfl⟩
    · exact congrArg _ (if_neg (by simp [shut]))
    · exact congrArg _ (if_neg (by simp [shut]))
    · exact congrArg _ (if_neg (by simp [shut]))
    · exact congrArg _ (if_neg (by simp [shut]))
  · exact sensorChange_out (by rw [resetPart_chan]; rfl) k b
  · cases c <;> rfl
  · exact congrArg _ (if_pos asserted)
  · exact congrArg _ (if_neg (by simp [released]))

/-! ### Order bodies (R180, R181) -/

theorem tailOf_eq (n : Nat) : tailOf n = if 1 < n then none else some (if n = 0 then .runOut else .hold) := by
  unfold tailOf
  split <;> simp_all
  omega

theorem endConditionOf_eq (n : Nat) :
    endConditionOf n = if 1 < n then none else some (if n = 0 then .count else .seam) := by
  unfold endConditionOf
  split <;> simp_all
  omega

theorem orderKindOf_eq_none (n : Nat) : orderKindOf n = none ↔ n = 0 ∨ 4 < n := by
  unfold orderKindOf
  split <;> simp_all
  omega

theorem orderOf_unknown {w : Nat → Word} (kind : orderKindOf (bitField (w 0x04) 0 8) = none) : orderOf w = none := by
  unfold orderOf
  rw [kind]

/-- A HALT body is read by its tail alone. -/
theorem orderOf_halt {w : Nat → Word} (kind : orderKindOf (bitField (w 0x04) 0 8) = some .halt) :
    orderOf w = (tailOf (bitField (w 0x04) 16 8)).map (haltBody w) := by
  unfold orderOf
  rw [kind]
  cases tailOf (bitField (w 0x04) 16 8) <;> rfl

/-- The body of an order with fabric, of a kind other than HALT. -/
def fabricBody (w : Nat → Word) (k : OrderKind) (t : Tail) (e : EndCondition) : Order :=
  if k = .blank then blankBody w t e else printBody w k t e

theorem orderOf_fabric {w : Nat → Word} {k : OrderKind} (kind : orderKindOf (bitField (w 0x04) 0 8) = some k)
    (fabric : k ≠ .halt) :
    orderOf w = (tailOf (bitField (w 0x04) 16 8)).bind fun t =>
      (endConditionOf (bitField (w 0x04) 8 8)).map (fabricBody w k t) := by
  unfold orderOf
  rw [kind]
  cases k with
  | halt => exact absurd rfl fabric
  | print | proof | blank =>
    cases tailOf (bitField (w 0x04) 16 8) <;> cases endConditionOf (bitField (w 0x04) 8 8) <;> rfl

theorem pageOf_bitField (w : Word) : (pageOf (bitField w 24 3)).val = (w.extractLsb' 24 3).toNat :=
  Nat.mod_eq_of_lt (w.extractLsb' 24 3).isLt

/-- What every body of an order with fabric says (R180). -/
theorem fabricBody_fields (w : Nat → Word) (k : OrderKind) (t : Tail) (e : EndCondition) :
    let o := fabricBody w k t e
    o.tag = w 0x08 ∧ o.tail = t ∧ o.endCondition = e ∧ o.length = (w 0x0C).toNat ∧ o.overrun = (w 0x14).toNat ∧
      o.page.val = ((w 0x18).extractLsb' 24 3).toNat ∧ o.dMin = (w 0x1C).toNat ∧ o.dMax = (w 0x20).toNat := by
  by_cases blank : k = .blank <;> simp [fabricBody, blank, blankBody, printBody, pageOf_bitField]

theorem marksOf_length (w : Nat → Word) (n : Nat) : (marksOf w n).length = min n 16 := by simp [marksOf]

theorem marksOf_getElem? {w : Nat → Word} {n k : Nat} {m : ZoneMark} (mark : (marksOf w n)[k]? = some m) :
    m.position = (w (0x28 + 8 * k)).toNat ∧ m.lift = (w (0x2C + 8 * k)).extractLsb' 0 16 ∧
      m.pressure = (w (0x2C + 8 * k)).extractLsb' 16 3 := by
  simp only [marksOf, List.getElem?_map, Option.map_eq_some_iff] at mark
  obtain ⟨i, place, rfl⟩ := mark
  obtain ⟨short, entry⟩ := List.getElem?_eq_some_iff.1 place
  rw [List.getElem_range] at entry
  subst entry
  exact ⟨rfl, rfl, rfl⟩

/-- The spelled order of an order with fabric, and the codes that it needs. -/
theorem orderOf_fabric_iff {w : Nat → Word} {k : OrderKind} (kind : orderKindOf (bitField (w 0x04) 0 8) = some k)
    (fabric : k ≠ .halt) :
    (orderOf w = none ↔ 1 < bitField (w 0x04) 16 8 ∨ 1 < bitField (w 0x04) 8 8) ∧
    ∀ o, orderOf w = some o → o = fabricBody w k (if bitField (w 0x04) 16 8 = 0 then .runOut else .hold)
      (if bitField (w 0x04) 8 8 = 0 then .count else .seam) := by
  rw [orderOf_fabric kind fabric, tailOf_eq, endConditionOf_eq]
  by_cases tail : 1 < bitField (w 0x04) 16 8 <;> by_cases cond : 1 < bitField (w 0x04) 8 8 <;> simp [tail, cond]

/-- Settles O40, by the kind code. -/
theorem orderBodiesAreRead : Obligations.OrderBodiesAreRead := by
  unfold Obligations.OrderBodiesAreRead
  intro w kind cond tail count
  have code : bitField (w 0x04) 0 8 = kind := rfl
  have withFabric (k : OrderKind) (n : Nat) (spelled : orderKindOf n = some k) (fabric : k ≠ .halt) (here : kind = n) :
      (orderOf w = none ↔ 1 < tail ∨ 1 < cond) ∧ ∀ o, orderOf w = some o →
        o = fabricBody w k (if tail = 0 then .runOut else .hold) (if cond = 0 then .count else .seam) :=
    orderOf_fabric_iff (by rw [code, here, spelled]) fabric
  have fields (k : OrderKind) := fabricBody_fields w k (if tail = 0 then .runOut else .hold) (if cond = 0 then .count else .seam)
  rcases (by omega : (kind = 0 ∨ 4 < kind) ∨ kind = 1 ∨ kind = 2 ∨ kind = 3 ∨ kind = 4) with h | h | h | h | h
  · rw [orderOf_unknown (w := w) ((orderKindOf_eq_none _).2 h)]
    exact ⟨iff_of_true rfl (by omega), fun o spelled => by cases spelled⟩
  · obtain ⟨refused, reads⟩ := withFabric .print 1 rfl (by decide) h
    refine ⟨refused.trans (by omega), fun o spelled => ?_⟩
    obtain ⟨tag, tailField, condField, rest⟩ := fields .print
    rw [reads o spelled]
    refine ⟨tag, tailField, fun _ => condField, fun _ => by omega, fun _ => by omega, fun _ => ?_, fun _ => rest⟩
    rw [if_pos h]
    exact ⟨rfl, rfl, rfl, rfl, rfl, rfl, rfl, marksOf_length w count, fun k m => marksOf_getElem?⟩
  · obtain ⟨refused, reads⟩ := withFabric .proof 2 rfl (by decide) h
    refine ⟨refused.trans (by omega), fun o spelled => ?_⟩
    obtain ⟨tag, tailField, condField, rest⟩ := fields .proof
    rw [reads o spelled]
    refine ⟨tag, tailField, fun _ => condField, fun _ => by omega, fun _ => by omega, fun _ => ?_, fun _ => rest⟩
    exact ⟨(if_neg (by omega)).symm, rfl, rfl, rfl, rfl, rfl, rfl, marksOf_length w count, fun k m => marksOf_getElem?⟩
  · obtain ⟨refused, reads⟩ := withFabric .blank 3 rfl (by decide) h
    refine ⟨refused.trans (by omega), fun o spelled => ?_⟩
    obtain ⟨tag, tailField, condField, rest⟩ := fields .blank
    rw [reads o spelled]
    exact ⟨tag, tailField, fun _ => condField, fun _ => by omega, fun _ => ⟨rfl, rfl, rfl⟩, fun _ => by omega, fun _ => rest⟩
  · have spells : orderOf w = (tailOf tail).map (haltBody w) := orderOf_halt (by rw [code, h]; rfl)
    rw [spells, tailOf_eq]
    by_cases beyond : 1 < tail
    · rw [if_pos beyond]
      exact ⟨iff_of_true rfl (by omega), fun o spelled => by cases spelled⟩
    · rw [if_neg beyond]
      refine ⟨iff_of_false (by simp) (by omega), fun o spelled => ?_⟩
      cases spelled
      exact ⟨rfl, rfl, fun _ => by omega, fun _ => rfl, fun _ => by omega, fun _ => by omega, fun _ => by omega⟩

/-! ### Validation (R27) -/

theorem anyOfSet_iff (m : StationSet) (test : Station → Bool) :
    anyOfSet m test = true ↔ ∃ i, inSet m i = true ∧ test i = true := by
  simp [anyOfSet, mem_stationList]

theorem set_empty_iff (m : StationSet) : m = 0#16 ↔ ∀ i, inSet m i = false := by
  refine ⟨fun h i => by simp [h, inSet], fun h => BitVec.eq_of_getLsbD_eq fun k small => ?_⟩
  rw [BitVec.getLsbD_zero]
  exact h ⟨k, small⟩

theorem marksOutOfOrder_eq_false (nominal last : Nat) (ms : List ZoneMark) :
    marksOutOfOrder nominal last ms = false ↔
      (∀ m ∈ ms, last < m.position ∧ m.position * 1000 < nominal) ∧ ms.Pairwise fun a b => a.position < b.position := by
  induction ms generalizing last with
  | nil => simp [marksOutOfOrder]
  | cons m rest ih =>
    simp only [marksOutOfOrder, Bool.or_eq_false_iff, decide_eq_false_iff_not, Nat.not_le, ih, List.forall_mem_cons,
      List.pairwise_cons]
    refine ⟨fun ⟨⟨above, short⟩, each, order⟩ => ⟨⟨⟨above, short⟩, fun x mem => ?_⟩, fun x mem => (each x mem).1, order⟩,
      fun ⟨⟨first, each⟩, later, order⟩ => ⟨first, fun x mem => ⟨later x mem, (each x mem).2⟩, order⟩⟩
    exact ⟨above.trans (each x mem).1, (each x mem).2⟩

theorem marksOutOfOrder_iff (nominal : Nat) (ms : List ZoneMark) :
    marksOutOfOrder nominal 0 ms = true ↔
      (∃ m ∈ ms, m.position = 0 ∨ nominal ≤ m.position * 1000) ∨ ¬ms.Pairwise fun a b => a.position < b.position := by
  rw [← Bool.not_eq_false, marksOutOfOrder_eq_false, not_and_or]
  refine or_congr_left ?_
  push Not
  exact exists_congr fun m => and_congr_right fun _ => by omega

/-- Row `r` of R27's table, as `refusalOf` tests it. -/
def refusalTest (s : State) (o : Order) (r : OrderRefusal) : Bool :=
  let design := printsDesign o.kind
  match r with
  | .kindUnknown => false
  | .tagZero => decide (o.tag = 0#32)
  | .tagInUse => s.os.table.any fun x => x.order.tag == o.tag
  | .setEmpty => design && o.set == 0#16
  | .stationOutOfService => design && anyOfSet o.set fun i => !(s.stationCfg i).inService
  | .stationFaulted => design && anyOfSet o.set fun i => (s.chan i).state == .faulted
  | .repeatMismatch => design && anyOfSet o.set fun i => (s.stationCfg i).circumference != o.length
  | .countRange => design && (o.count == 0 || decide (255 < o.overrun))
  | .lengthRange => o.kind == .blank && (outside o.length 100 1000000 || decide (100000 < o.overrun))
  | .cureLimits => o.kind != .halt && (decide (o.dMax < o.dMin) || decide (Config.cureLimit < o.dMax))
  | .zoneCount => design && decide (16 < o.markCount)
  | .zoneOrder => design && marksOutOfOrder (o.count * o.length) 0 o.marks
  | .proofTolerance => o.kind == .proof && o.tolerance == 0

theorem find?_cons_ite {α : Type} (p : α → Bool) (a : α) (l : List α) :
    (a :: l).find? p = if p a then some a else l.find? p := by
  cases h : p a <;> simp [h]

theorem refusalOf_eq_find? (s : State) (o : Order) : refusalOf s o = refusalOrder.find? (refusalTest s o) := by
  simp only [refusalOrder, find?_cons_ite, refusalTest, List.find?_nil, Bool.false_eq_true, if_false, decide_eq_true_eq]
  rfl

theorem printsDesign_iff (k : OrderKind) : printsDesign k = true ↔ k = .print ∨ k = .proof := by
  cases k <;> decide

theorem refusalTest_iff (s : State) (o : Order) (r : OrderRefusal) : refusalTest s o r = true ↔ RefusalDue s o r := by
  cases r with
  | zoneOrder =>
    simp only [refusalTest, RefusalDue, Bool.and_eq_true, printsDesign_iff, marksOutOfOrder_iff]
  | setEmpty => simp only [refusalTest, RefusalDue, Bool.and_eq_true, printsDesign_iff, beq_iff_eq, set_empty_iff]
  | stationOutOfService =>
    simp only [refusalTest, RefusalDue, Bool.and_eq_true, printsDesign_iff, anyOfSet_iff, Bool.not_eq_true']
  | stationFaulted => simp only [refusalTest, RefusalDue, Bool.and_eq_true, printsDesign_iff, anyOfSet_iff, beq_iff_eq]
  | repeatMismatch =>
    simp only [refusalTest, RefusalDue, Bool.and_eq_true, printsDesign_iff, anyOfSet_iff, bne_iff_ne, ne_comm]
  | kindUnknown => simp [refusalTest, RefusalDue]
  | tagZero => simp [refusalTest, RefusalDue]
  | tagInUse => simp [refusalTest, RefusalDue]
  | countRange =>
    simp only [refusalTest, RefusalDue, Bool.and_eq_true, Bool.or_eq_true, printsDesign_iff, beq_iff_eq, decide_eq_true_eq]
  | lengthRange =>
    simp only [refusalTest, RefusalDue, outside, Bool.and_eq_true, Bool.or_eq_true, beq_iff_eq, decide_eq_true_eq, or_assoc]
  | cureLimits =>
    simp only [refusalTest, RefusalDue, Bool.and_eq_true, Bool.or_eq_true, bne_iff_ne, decide_eq_true_eq]
    exact Iff.rfl
  | zoneCount => simp only [refusalTest, RefusalDue, Bool.and_eq_true, printsDesign_iff, decide_eq_true_eq]
  | proofTolerance => simp only [refusalTest, RefusalDue, Bool.and_eq_true, beq_iff_eq]

/-- The first element that passes a test, by what stands before it. -/
theorem find?_eq_some_of_split {α : Type} {p : α → Bool} {l before after : List α} {a : α} (split : l = before ++ a :: after)
    (once : l.Nodup) : l.find? p = some a ↔ p a = true ∧ ∀ x ∈ before, ¬p x = true := by
  subst split
  have fresh : a ∉ before := fun mem =>
    (List.nodup_append.1 once).2.2 a mem a (List.mem_cons_self ..) rfl
  rw [List.find?_append]
  refine ⟨fun found => ?_, fun ⟨passes, others⟩ => ?_⟩
  · cases first : before.find? p with
    | some b =>
      rw [first] at found
      cases found
      exact absurd (List.mem_of_find?_eq_some first) fresh
    | none =>
      refine ⟨?_, by simpa using first⟩
      rw [first, Option.none_or] at found
      exact List.find?_some found
  · rw [List.find?_eq_none.2 others, Option.none_or, List.find?_cons_of_pos passes]

/-- Settles O39: the refusal is the first row of the table whose test passes. -/
theorem validationFollowsTheTable : Obligations.ValidationFollowsTheTable := by
  unfold Obligations.ValidationFollowsTheTable
  intro s o
  rw [refusalOf_eq_find?]
  refine ⟨fun before r after split => ?_, ?_⟩
  · rw [find?_eq_some_of_split split (by decide)]
    simp only [refusalTest_iff]
  · rw [List.find?_eq_none]
    simp only [refusalTest_iff]
    exact ⟨fun h r => h r (by cases r <;> decide), fun h r _ => h r⟩

end Sys2Proof.Machine
end

section
/-! PROOF. The Phase Unit: an offset that moves its station (TRIM and corrections), settle positions and reference switches,
and what one error of an evaluation does (R86 to R97). -/

namespace Sys2Proof.Machine

/-! ### A station's phase written back -/

theorem State.setPhase_setPhase (s : State) (i : Station) (p q : PhaseStation) :
    (s.setPhase i p).setPhase i q = s.setPhase i q := by
  simp [State.setPhase, Vector.set_set]

theorem State.setPhase_self (s : State) (i : Station) : s.setPhase i (s.phase i) = s := by
  have same : s.pu.stations.set i.val (s.phase i) i.isLt = s.pu.stations := by
    simp [State.phase, Vector.get_eq_getElem]
  rw [State.setPhase, same]

theorem phase_ext {a b : State} (same : ∀ j, a.phase j = b.phase j) : a.pu.stations = b.pu.stations :=
  Vector.ext fun k small => same ⟨k, small⟩

/-! ### An offset that moves (R86, R89, R91) -/

/-- A station's phase after a change of its offset: the new target, and the later settle position. -/
def movedPhase (s : State) (i : Station) (p : PhaseStation) : PhaseStation :=
  { p with
    target := targetOf ((s.wt.p : Int) - p.origin - (s.stationCfg i).distance - p.total) (s.stationCfg i).circumference
    settle := some (max (p.settle.getD 0) (settleFrom s i)) }

theorem driveTarget_of_inService {s : State} {i : Station} (inService : (s.stationCfg i).inService = true) :
    driveTarget s i = s.setPhase i { s.phase i with
      target := targetOf (phaseX s i) (s.stationCfg i).circumference } := if_pos inService

theorem moveOffset_eq {s : State} {i : Station} (inService : (s.stationCfg i).inService = true) (p : PhaseStation) :
    beginTransit (driveTarget (s.setPhase i p) i) i = s.setPhase i (movedPhase s i p) := by
  rw [driveTarget_of_inService (s := s.setPhase i p) inService, State.setPhase_phase_self, State.setPhase_setPhase]
  unfold beginTransit
  rw [State.setPhase_phase_self, State.setPhase_setPhase]
  cases old : p.settle <;> simp [movedPhase, old, phaseX, settleFrom] <;> rfl

/-! ### TRIM (R89, R90) -/

theorem trimTarget_some {s : State} {st : BitVec 5} {i : Station} (number : st.toNat = i.val + 1)
    (inService : (s.stationCfg i).inService = true) : trimTarget s st = some i := by
  simp [trimTarget, trimStation_of_number number, inService]

theorem exec_trim {s : State} {st : BitVec 5} {i : Station} (may : Commandable s) (number : st.toNat = i.val + 1)
    (inService : (s.stationCfg i).inService = true) (delta : BitVec 16) :
    exec (.trim st delta) s =
      .next (doneCommand (storeTrim s i (clampTo Config.trimLimit ((s.phase i).trim + delta.toInt)))) := by
  obtain ⟨reset, idle, opened⟩ := may
  have target := trimTarget_some number inService
  have allowed : (lineOpen s && (trimTarget s st).isSome) = true := by rw [opened, target]; rfl
  refine (congrArg Host.Outcome.next (judgeCommand_accepted reset idle allowed _)).trans ?_
  rw [target]
  rfl

/-! ### Settle positions (R91) -/

/-- What a state that differs from `s` in the stations' phase alone has in common with it. -/
def PhaseOnly (s t : State) : Prop := t = { s with pu := { s.pu with stations := t.pu.stations } }

theorem PhaseOnly.refl (s : State) : PhaseOnly s s := rfl

theorem PhaseOnly.setPhase {s t : State} (h : PhaseOnly s t) (i : Station) (p : PhaseStation) :
    PhaseOnly s (t.setPhase i p) := by
  rw [PhaseOnly] at h
  rw [h]
  rfl

theorem meetSettle_phaseOnly {s t : State} (h : PhaseOnly s t) (i : Station) : PhaseOnly s (meetSettle t i) := by
  unfold meetSettle
  split
  next => exact h.setPhase i _
  next => exact h

theorem meetSettle_phase_of_ne (s : State) (i j : Station) (other : j ≠ i) : (meetSettle s i).phase j = s.phase j := by
  unfold meetSettle
  split
  next => exact State.setPhase_phase_of_ne _ _ _ _ other.symm
  next => rfl

/-- A phase at print position `p`: a settle position at or behind it is none. -/
def settledPhase (p : Nat) (x : PhaseStation) : PhaseStation :=
  if x.settle.any (fun y => decide (y ≤ p)) then { x with settle := none } else x

theorem meetSettle_phase (s : State) (i : Station) : (meetSettle s i).phase i = settledPhase s.wt.p (s.phase i) := by
  have due : settlesNow s i = (s.phase i).settle.any (fun y => decide (y ≤ s.wt.p)) := by
    unfold settlesNow
    cases (s.phase i).settle <;> rfl
  unfold meetSettle settledPhase
  rw [due]
  split
  next => exact State.setPhase_phase_self _ _ _
  next => rfl

theorem meetSettles_eq (s : State) : meetSettles s = stationList.foldl meetSettle s := rfl

theorem meetSettles_phaseOnly (s : State) : PhaseOnly s (meetSettles s) := by
  rw [meetSettles_eq]
  exact foldl_keeps (P := PhaseOnly s) (f := meetSettle) (fun _ i h => meetSettle_phaseOnly h i) stationList (.refl s)

theorem meetSettles_phase (s : State) (i : Station) : (meetSettles s).phase i = settledPhase s.wt.p (s.phase i) := by
  rw [meetSettles_eq]
  refine foldl_local (P := PhaseOnly s) (get := State.phase) (g := settledPhase s.wt.p)
    (fun _ i h => meetSettle_phaseOnly h i) meetSettle_phase_of_ne (fun t h => ?_) stationList_nodup (mem_stationList i)
    (.refl s)
  have position : t.wt.p = s.wt.p := by rw [h]
  rw [meetSettle_phase, position]

/-! ### Reference switches (R87) -/

theorem meetSwitch_phaseOnly {s t : State} (h : PhaseOnly s t) (i : Station) : PhaseOnly s (meetSwitch t i) := by
  unfold meetSwitch
  split
  next inService _ =>
    rw [driveTarget_of_inService (s := t.setPhase i _) inService]
    exact (h.setPhase i _).setPhase i _
  next => exact h

theorem meetSwitch_phase_of_ne (s : State) (i j : Station) (other : j ≠ i) : (meetSwitch s i).phase j = s.phase j := by
  unfold meetSwitch
  split
  next inService _ =>
    rw [driveTarget_of_inService (s := s.setPhase i _) inService, State.setPhase_phase_of_ne _ _ _ _ other.symm,
      State.setPhase_phase_of_ne _ _ _ _ other.symm]
  next => rfl

/-- A station's phase at a reference switch that gives the origin `o`. -/
def switchedPhase (s : State) (i : Station) (o : Nat) (x : PhaseStation) : PhaseStation :=
  { x with
    origin := o
    target := targetOf ((s.wt.p : Int) - o - (s.stationCfg i).distance - x.total) (s.stationCfg i).circumference }

theorem meetSwitch_of_here {s : State} {i : Station} {o : Nat} (inService : (s.stationCfg i).inService = true)
    (here : switchHere s i = some o) : (meetSwitch s i).phase i = switchedPhase s i o (s.phase i) := by
  unfold meetSwitch
  rw [inService, here]
  dsimp only
  rw [driveTarget_of_inService (s := s.setPhase i _) inService, State.setPhase_phase_self, State.setPhase_phase_self]
  simp [switchedPhase, phaseX, PhaseStation.total, State.stationCfg]

theorem meetSwitch_of_absent {s : State} {i : Station}
    (absent : (s.stationCfg i).inService = false ∨ switchHere s i = none) : meetSwitch s i = s := by
  unfold meetSwitch
  rcases absent with h | h
  · rw [h]
  · rw [h]
    split
    next same => cases same
    next => rfl

/-- The sweep of reference switches over the stations. -/
def switchSweep (s : State) : State := stationList.foldl meetSwitch s

theorem switchSweep_phaseOnly (s : State) : PhaseOnly s (switchSweep s) := by
  rw [switchSweep]
  exact foldl_keeps (P := PhaseOnly s) (f := meetSwitch) (fun _ i h => meetSwitch_phaseOnly h i) stationList (.refl s)

theorem PhaseOnly.switchHere {s t : State} (h : PhaseOnly s t) (i : Station) : switchHere t i = switchHere s i := by
  rw [h]
  rfl

theorem switchSweep_of_here {s : State} {i : Station} {o : Nat} (inService : (s.stationCfg i).inService = true)
    (here : switchHere s i = some o) : (switchSweep s).phase i = switchedPhase s i o (s.phase i) := by
  refine foldl_local (P := PhaseOnly s) (get := State.phase) (g := switchedPhase s i o) (fun _ i h => meetSwitch_phaseOnly h i)
    meetSwitch_phase_of_ne (fun t h => ?_) stationList_nodup (mem_stationList i) (.refl s)
  have same := h.switchHere i
  have cfg : t.stationCfg i = s.stationCfg i := by rw [h]; rfl
  have position : t.wt.p = s.wt.p := by rw [h]
  rw [meetSwitch_of_here (cfg ▸ inService) (same.trans here), switchedPhase, switchedPhase, cfg, position]

theorem switchSweep_of_absent {s : State} {i : Station}
    (absent : (s.stationCfg i).inService = false ∨ switchHere s i = none) : (switchSweep s).phase i = s.phase i := by
  refine foldl_local (P := PhaseOnly s) (get := State.phase) (g := id) (fun _ i h => meetSwitch_phaseOnly h i)
    meetSwitch_phase_of_ne (fun t h => ?_) stationList_nodup (mem_stationList i) (.refl s)
  have cfg : t.stationCfg i = s.stationCfg i := by rw [h]; rfl
  rw [meetSwitch_of_absent (by rwa [cfg, h.switchHere])]
  rfl

theorem meetSwitches_eq (s : State) :
    meetSwitches s = { s with pu := { s.pu with
      stations := (switchSweep s).pu.stations
      switches := s.pu.switches.filter fun o => decide (s.wt.p < o + farthest s.prof) } } := by
  have shape (t : State) (only : PhaseOnly s t) :
      { t with pu.switches := t.pu.switches.filter fun o => decide (t.wt.p < o + farthest t.prof) } = { s with pu := { s.pu with
        stations := t.pu.stations
        switches := s.pu.switches.filter fun o => decide (s.wt.p < o + farthest s.prof) } } := by
    rw [only]
  have only := switchSweep_phaseOnly s
  have sweep : overList stationList meetSwitch s = switchSweep s := rfl
  rw [meetSwitches, sweep]
  generalize switchSweep s = t at *
  exact shape t only

theorem meetSwitches_phase (s : State) (i : Station) : (meetSwitches s).phase i = (switchSweep s).phase i := by
  rw [State.phase, meetSwitches_eq, State.phase]

theorem lt_foldl_max {α : Type} (g : α → Nat) (l : List α) (a d : Nat) :
    a < l.foldl (fun d x => max d (g x)) d ↔ a < d ∨ ∃ x ∈ l, a < g x := by
  induction l generalizing d with
  | nil => simp
  | cons x rest ih => simp [ih, or_assoc]

/-- A switch stays ahead of some station in service, or of the table's entry (R87). -/
theorem lt_add_farthest (f : Profile) (p o : Nat) :
    p < o + farthest f ↔ p < o ∨ ∃ i : Station, (f.stations.get i).inService = true ∧ p < o + (f.stations.get i).distance := by
  by_cases before : p < o
  · exact iff_of_true (by omega) (.inl before)
  · have beyond (d : Nat) : p < o + d ↔ p - o < d := by omega
    simp only [beyond, before, false_or]
    rw [farthest, lt_foldl_max]
    simp [inServiceList, mem_stationList]

/-- Settles O17: TRIM moves one offset; settle positions and switches are swept station by station. -/
theorem trimMovesTheOffset : Obligations.TrimMovesTheOffset := by
  unfold Obligations.TrimMovesTheOffset
  refine ⟨fun s st i delta v may number inService value => ?_, fun s => ⟨⟨_, rfl, meetSettles_phaseOnly s, fun i => ?_⟩,
    _, rfl, ?_, fun i apart => ?_, fun i o mem inService here => ?_, ?_, fun o => ?_⟩⟩
  · have clamped : clampTo Config.trimLimit ((s.phase i).trim + delta.toInt) = v := value.symm
    rw [exec_trim may number inService, clamped]
    refine ⟨fun same => ?_, fun moved => ⟨_, rfl, ?_, fun j other => ?_, ?_⟩⟩
    · rw [storeTrim, if_pos same]
      rfl
    all_goals rw [storeTrim, if_neg moved, moveOffset_eq inService]
    · exact State.setPhase_phase_self _ _ _
    · exact State.setPhase_phase_of_ne _ _ _ _ other.symm
    · rfl
  · rw [meetSettles_phase, settledPhase]
    refine ⟨fun p settle reached => ?_, fun ahead => ?_⟩
    · rw [if_pos (by simp [settle, reached])]
    · rcases ahead with none | ⟨p, settle, ahead⟩
      · rw [if_neg (by simp [none])]
      · rw [if_neg (by simp [settle, ahead])]
  · rw [meetSwitches_eq]
  · rw [meetSwitches_phase]
    refine switchSweep_of_absent (apart.imp_right fun none => List.find?_eq_none.2 fun o mem => ?_)
    simpa using none o mem
  · rw [meetSwitches_phase]
    refine switchSweep_of_here inService ?_
    cases found : switchHere s i with
    | none => exact absurd (List.find?_eq_none.1 found o mem) (by simpa using here)
    | some x =>
      have there : x + (s.stationCfg i).distance = s.wt.p := by simpa using List.find?_some found
      rw [show x = o by omega]
  · rw [meetSwitches_eq]
    exact List.filter_sublist
  · rw [meetSwitches_eq]
    simp only [List.mem_filter, decide_eq_true_eq, lt_add_farthest]
    exact Iff.rfl

end Sys2Proof.Machine
end

section
/-! PROOF. What one error of an evaluation does at its station: capture, damped step, limit flag (R92 to R97). -/

namespace Sys2Proof.Machine

/-! ### A correction stored (R86, R89, R91, R97) -/

/-- A station's phase after its correction `v` is stored. -/
def correctedPhase (s : State) (i : Station) (v : Int) : PhaseStation :=
  if v = (s.phase i).correction then s.phase i else movedPhase s i { s.phase i with correction := v }

theorem storeCorrection_eq {s : State} {i : Station} (inService : (s.stationCfg i).inService = true) (v : Int) :
    storeCorrection s i v = s.setPhase i (correctedPhase s i v) := by
  unfold storeCorrection correctedPhase
  split
  next => rw [State.setPhase_self]
  next => exact moveOffset_eq inService _

theorem correctedPhase_correction (s : State) (i : Station) (v : Int) : (correctedPhase s i v).correction = v := by
  unfold correctedPhase
  split
  next same => exact same.symm
  next => rfl

theorem correctedPhase_eq (s : State) (i : Station) (v : Int) :
    correctedPhase s i v = { s.phase i with
      correction := v, target := (correctedPhase s i v).target, settle := (correctedPhase s i v).settle } := by
  unfold correctedPhase
  split
  next same => rw [same]
  next => rfl

/-- The correction `raw` lies at a limit of the range or beyond it (R97). -/
def atLimit (s : State) (raw : Int) : Bool :=
  decide ((s.prof.correctionRange : Int) ≤ raw ∨ raw ≤ -(s.prof.correctionRange : Int))

/-- A station's phase after the correction `raw` has been applied. -/
def appliedPhase (s : State) (i : Station) (raw : Int) : PhaseStation :=
  { correctedPhase s i (clampTo s.prof.correctionRange raw) with limitFlag := atLimit s raw }

/-- REGISTER_LIMIT (R97). -/
def limitReport (s : State) (i : Station) (tag : Word) (raw e : Int) : Posting :=
  { kind := .registerLimit, tag := tag, station := wordOfNat (i.val + 1),
    serial := wordOfNat (serialOr0 (recordUnder s s.prof.readerDistance)), clock := s.clock,
    first := wordOfInt (clampTo s.prof.correctionRange raw), second := wordOfInt e }

theorem post_registerLimit (s : State) (i : Station) (p : PhaseStation) (tag : Word) (raw e : Int) :
    post (s.setPhase i p)
      { kind := .registerLimit, tag := some tag, station := some (wordOfNat (stationNo i)),
        serial := some (readerSerial s), first := some (wordOfInt (clampTo s.prof.correctionRange raw)),
        second := some (wordOfInt e) } = (afterReport s (limitReport s i tag raw e)).setPhase i p := by
  rw [post_eq]
  rfl

theorem applyCorrection_eq {s : State} {i : Station} (inService : (s.stationCfg i).inService = true) (tag : Word)
    (raw e : Int) :
    applyCorrection s i tag raw e =
      (if atLimit s raw = true ∧ (s.phase i).limitFlag = false then afterReport s (limitReport s i tag raw e)
        else s).setPhase i (appliedPhase s i raw) := by
  have flag : (correctedPhase s i (clampTo s.prof.correctionRange raw)).limitFlag = (s.phase i).limitFlag := by
    rw [correctedPhase_eq]
  have serial (p : PhaseStation) : readerSerial (s.setPhase i p) = readerSerial s := rfl
  unfold applyCorrection
  dsimp only
  rw [storeCorrection_eq inService]
  simp only [State.setPhase_phase_self, State.setPhase_setPhase, flag, serial]
  by_cases limit : (s.prof.correctionRange : Int) ≤ raw ∨ raw ≤ -(s.prof.correctionRange : Int)
  · have reached : atLimit s raw = true := decide_eq_true limit
    rw [if_pos limit]
    cases before : (s.phase i).limitFlag with
    | true =>
      have stays : appliedPhase s i raw = correctedPhase s i (clampTo s.prof.correctionRange raw) := by
        rw [appliedPhase, reached, ← before, ← flag]
      rw [if_pos rfl, if_neg (by simp), stays]
    | false =>
      rw [if_neg (by simp), if_pos ⟨reached, rfl⟩, post_registerLimit, appliedPhase, reached]
  · have short : atLimit s raw = false := decide_eq_false limit
    rw [if_neg limit, if_neg (by simp [short]), appliedPhase, short]

theorem applyCorrection_phase {s : State} {i : Station} (inService : (s.stationCfg i).inService = true) (tag : Word)
    (raw e : Int) : (applyCorrection s i tag raw e).phase i = appliedPhase s i raw := by
  rw [applyCorrection_eq inService, State.setPhase_phase_self]

theorem applyCorrection_corrects {s : State} {i : Station} (inService : (s.stationCfg i).inService = true) (tag : Word)
    (raw e : Int) : Corrects s (applyCorrection s i tag raw e) i tag raw e := by
  have here := applyCorrection_phase inService tag raw e
  have value : (appliedPhase s i raw).correction = clampTo s.prof.correctionRange raw := correctedPhase_correction s i _
  refine ⟨?_, fun same => ?_, fun moved => ?_, ?_, ?_, fun j other => ?_, ?_⟩
  · rw [here, value]
    rfl
  · rw [here, value] at same
    rw [here]
    simp [appliedPhase, correctedPhase, same]
  · rw [here, value] at moved
    rw [here, value]
    simp [appliedPhase, correctedPhase, moved, movedPhase, PhaseStation.total, settleFrom]
  · rw [here]
    rfl
  · rw [here, value]
    conv_lhs => rw [appliedPhase, correctedPhase_eq]
    rfl
  · rw [applyCorrection_eq inService, State.setPhase_phase_of_ne _ _ _ _ other.symm]
    split <;> rfl
  · rw [here, value]
    have flag : (appliedPhase s i raw).limitFlag = atLimit s raw := rfl
    rw [flag, applyCorrection_eq inService]
    rfl

/-! ### One error of an evaluation (R92 to R96) -/

/-- A station that joins the order (R92): the state that O18 describes is this one. -/
theorem joinOrder_joins {s u : State} {i : Station} {o : PhaseOrder} (join : inSet o.join i = true)
    (frame : u = { s with
      pu := { s.pu with
        stations := u.pu.stations
        orders := modifyFirst (fun x => x.tag == o.tag) (fun x => { x with join := minusSet x.join (oneSet i) })
          s.pu.orders } })
    (here : u.phase i = { s.phase i with captured := false }) (others : ∀ j, j ≠ i → u.phase j = s.phase j) :
    joinOrder s i o = u := by
  have stations : (joinOrder s i o).pu.stations = u.pu.stations := by
    refine phase_ext fun j => ?_
    rw [joinOrder, if_pos join, uncapture]
    by_cases same : j = i
    · subst same
      rw [State.setPhase_phase_self, here]
      rfl
    · rw [State.setPhase_phase_of_ne _ _ _ _ (Ne.symm same), others j same]
      rfl
  rw [frame, ← stations, joinOrder, if_pos join]
  rfl

theorem joinOrder_member {s : State} {i : Station} {o : PhaseOrder} (member : inSet o.join i = false) :
    joinOrder s i o = s := if_neg (by simp [member])

theorem correctStation_skips {s : State} {i : Station} {tag : Word}
    (skip : (s.phase i).settle.isSome = true ∨ s.pu.orders.find? (fun o => o.tag == tag) = none) (index : Nat) (e : Int) :
    correctStation tag index s (i, e) = s := by
  unfold correctStation
  split
  next => rfl
  next o found =>
    rcases skip with transit | absent
    · exact if_pos transit
    · rw [absent] at found
      cases found

theorem correctStation_eq {s : State} {i : Station} {tag : Word} {o : PhaseOrder}
    (found : s.pu.orders.find? (fun o => o.tag == tag) = some o) (rests : (s.phase i).settle = none) (index : Nat) (e : Int) :
    correctStation tag index s (i, e) =
      if ((joinOrder s i o).phase i).captured then track (joinOrder s i o) i tag e
      else capture (joinOrder s i o) i o index e := by
  unfold correctStation
  rw [found]
  exact if_neg (by simp [rests])

theorem capture_within {s : State} {i : Station} {e : Int} (within : e.natAbs ≤ s.prof.captureLimit) (o : PhaseOrder)
    (index : Nat) :
    capture s i o index e =
      applyCorrection (s.setPhase i { s.phase i with captured := true }) i o.tag ((s.phase i).correction - e) e :=
  if_pos within

/-- CAPTURE_FAIL, once per station and order (R95). -/
theorem capture_beyond {s : State} {i : Station} {e : Int} (beyond : s.prof.captureLimit < e.natAbs) (o : PhaseOrder)
    (index : Nat) :
    capture s i o index e = if inSet o.captureFails i then s else afterReport
      { s with pu.orders :=
          modifyFirst (fun x => x.tag == o.tag) (fun x => { x with captureFails := addTo x.captureFails i }) s.pu.orders }
      { kind := .captureFail, tag := o.tag, station := wordOfNat (i.val + 1),
        serial := wordOfNat (serialOr0 (recordUnder s s.prof.readerDistance)), clock := s.clock,
        first := wordOfInt e, second := wordOfNat index } := by
  rw [capture, if_neg (Nat.not_le.2 beyond), refuseCapture, post_eq]
  rfl

/-- Settles O18: transit, then join, then capture or the damped step. -/
theorem errorsCorrectTheirStation : Obligations.ErrorsCorrectTheirStation := by
  unfold Obligations.ErrorsCorrectTheirStation
  intro s i tag index e
  refine ⟨fun skip => correctStation_skips skip index e, fun o u found rests inService member joins => ?_⟩
  have named : o.tag = tag := by simpa using List.find?_some found
  have joined : joinOrder s i o = u := by
    cases join : inSet o.join i with
    | false => rw [joinOrder_member join, member join]
    | true =>
      obtain ⟨frame, here, others⟩ := joins join
      exact joinOrder_joins join (named ▸ frame) here others
  have same : u.prof = s.prof ∧ u.wt = s.wt ∧ u.clock = s.clock ∧ (u.phase i).correction = (s.phase i).correction := by
    cases join : inSet o.join i with
    | false => rw [member join]; exact ⟨rfl, rfl, rfl, rfl⟩
    | true =>
      obtain ⟨frame, here, -⟩ := joins join
      rw [here]
      exact ⟨by rw [frame], by rw [frame], by rw [frame], rfl⟩
  obtain ⟨prof, wt, clock, correction⟩ := same
  have service : (u.stationCfg i).inService = true := by rw [State.stationCfg, prof]; exact inService
  have under : recordUnder u u.prof.readerDistance = recordUnder s s.prof.readerDistance := by
    simp only [recordUnder, recordAt, prof, wt]
  have evaluated := correctStation_eq found rests index e
  rw [joined] at evaluated
  rw [evaluated, ← correction, ← prof]
  refine ⟨fun free within => ⟨u.setPhase i { u.phase i with captured := true }, rfl, State.setPhase_phase_self _ _ _,
      fun j other => State.setPhase_phase_of_ne _ _ _ _ other.symm, ?_⟩,
    fun free beyond failed => ?_, fun free beyond fresh => ?_, fun held step value => ?_⟩
  · rw [free, if_neg Bool.false_ne_true, capture_within within, named]
    exact applyCorrection_corrects (s := u.setPhase i _) service tag _ e
  · rw [free, if_neg Bool.false_ne_true, capture_beyond beyond, if_pos failed]
  · rw [free, if_neg Bool.false_ne_true, capture_beyond beyond, if_neg (by simp [fresh]), named, under, clock, prof]
  · have damped : trackingStep u.prof e = step := value.symm
    rw [held, if_pos rfl, track, damped]
    refine ⟨fun still => if_pos still, fun outside moves => ?_⟩
    rw [if_neg (by simp [moves]; omega)]
    exact applyCorrection_corrects service tag _ e

end Sys2Proof.Machine
end

section
/-! PROOF. The oven and close-out: the dose interval with its alerts (R114 to R124), the defect set of an exiting segment and
what its exit counts for (R133 to R141), CLOSE_OUT (R17). -/

namespace Sys2Proof.Machine

/-! ### What the blocks leave undisturbed -/

theorem Board.undisturbed {s t : State} (h : Board s t) : Undisturbed s t where
  clock := h.clock
  exbase := h.exbase
  busy := h.busy
  busRead := h.busRead
  retired := h.retired
  written := h.written
  pins := h.pins
  prof := h.prof
  pending := h.pending
  mem _ := congrArg (readByte · _) h.mem

/-! ### Zones and pages (R114, R118) -/

theorem inOven_iff (s : State) (r : Segment) :
    inOven s r = true ↔ r.pEnd + s.wt.k ≤ s.wt.q ∧ s.wt.q < r.pEnd + s.wt.k + s.prof.ovenLength := by
  simp [inOven]

/-- An oven distance lies in a zone. -/
def zoneHolds (s : State) (c : Nat) (z : Zone) : Bool :=
  match s.prof.zones[z.val]? with
  | some (a, b) => decide (a ≤ c) && decide (c < b)
  | none => false

theorem zoneHolds_iff (s : State) (c : Nat) (z : Zone) :
    zoneHolds s c z = true ↔ ∃ a b, s.prof.zones[z.val]? = some (a, b) ∧ a ≤ c ∧ c < b := by
  unfold zoneHolds
  cases s.prof.zones[z.val]? with
  | none => simp
  | some ends =>
    obtain ⟨a, b⟩ := ends
    simp

theorem zoneAt_eq_some_iff (s : State) (c : Nat) (z : Zone) :
    zoneAt s c = some z ↔ zoneHolds s c z = true ∧ ∀ y, y < z → ¬zoneHolds s c y = true := by
  have split : ∀ z : Zone, zoneList =
      zoneList.filter (fun y => decide (y < z)) ++ z :: zoneList.filter (fun y => decide (z < y)) := by
    decide
  have listed : ∀ y : Zone, y ∈ zoneList := by decide
  refine (find?_eq_some_of_split (p := zoneHolds s c) (split z) (by decide)).trans (and_congr_right fun _ => ?_)
  simp [listed]

/-! ### Alerts (R123, R124) -/

theorem alertFor_eq (s : State) (r : Segment) : ∃ a x e n,
    alertFor s r = { s with ci.alerts := a, xi := x, events := e, draws := n } := by
  unfold alertFor
  split
  next =>
    dsimp only
    split
    next =>
      rw [post_eq]
      exact ⟨_, _, _, _, rfl⟩
    next => exact ⟨s.ci.alerts, s.xi, s.events, s.draws, rfl⟩
  next => exact ⟨s.ci.alerts, s.xi, s.events, s.draws, rfl⟩

theorem alerts_eq (rs : List Segment) (s : State) : ∃ a x e n,
    rs.foldl alertFor s = { s with ci.alerts := a, xi := x, events := e, draws := n } := by
  induction rs generalizing s with
  | nil => exact ⟨s.ci.alerts, s.xi, s.events, s.draws, rfl⟩
  | cons r rest ih =>
    obtain ⟨a, x, e, n, first⟩ := alertFor_eq s r
    obtain ⟨b, y, f, m, others⟩ := ih (alertFor s r)
    exact ⟨b, y, f, m, by rw [List.foldl_cons, others, first]⟩

/-- The dose of a segment after an integration in zone `z` (R121). -/
def doseIn (s : State) (z : Zone) (r : Segment) : Nat :=
  min (r.dose + cureRate (pageInUse s.prof r.page) (s.zone z).temperature * 2 ^ s.prof.doseExponent) 4294967295

theorem addDose_eq (s : State) (z : Zone) (r : Segment) :
    addDose s.prof (s.zone z) r = { r with
      dose := doseIn s z r, peak := max r.peak (s.zone z).temperature, stale := r.stale || !(s.zone z).fresh } := rfl

theorem alertFor_elsewhere {s : State} {r : Segment}
    (elsewhere : r.slot = none ∨ inOven s r = false ∨ zoneAt s (ovenCentre s r) = none) : alertFor s r = s := by
  unfold alertFor
  split
  next inside zone slot =>
    rcases elsewhere with h | h | h
    · rw [h] at slot
      cases slot
    · rw [h] at inside
      cases inside
    · rw [h] at zone
      cases zone
  next => rfl

theorem alertFor_inZone {s : State} {r : Segment} {z : Zone} {i : Slot} (inside : inOven s r = true)
    (zone : zoneAt s (ovenCentre s r) = some z) (slot : r.slot = some i) :
    alertFor s r =
      if r.overcure = false ∧ r.dMax * 1000 < doseIn s z r ∧ s.ci.alerts.getLsbD i.val = false then
        afterReport { s with ci.alerts := s.ci.alerts ||| (1#64 <<< i.val) }
          { kind := .overcureAlert, tag := r.tag, station := wordOfNat (z.val + 1), serial := wordOfNat r.serial,
            clock := s.clock, first := wordOfNat (doseIn s z r / 1000), second := wordOfNat r.dMax }
      else s := by
  unfold alertFor
  rw [inside, zone, slot]
  dsimp only
  rw [addDose_eq, post_eq]
  refine if_congr ?_ rfl rfl
  rw [newlyOvercured, alertSet]
  simp only [Bool.and_eq_true, Bool.not_eq_true', decide_eq_true_eq, and_assoc]

theorem getLsbD_setBit (a : BitVec 64) (i j : Slot) :
    (a ||| (1#64 <<< i.val)).getLsbD j.val = (a.getLsbD j.val || decide (j = i)) := by
  rw [BitVec.getLsbD_or, BitVec.getLsbD_shiftLeft]
  have := j.isLt
  by_cases same : j = i
  · subst same
    simp
  · have other : j.val ≠ i.val := fun h => same (Fin.ext h)
    simp [same]
    omega

/-! ### The dose interval (R120, R121) -/

theorem exec_doseIntervalExpiry (s : State) : exec .doseIntervalExpiry s = .next (doseExpiry s) := rfl

theorem doseExpiry_due {s : State} (due : Due s.ci.doseTimer (2 ^ s.prof.doseExponent) s.clock) :
    doseExpiry s = integrateDose s := ite_timerDue_pos due _ _

theorem integrateDose_eq (s : State) : ∃ a x e n,
    s.wt.map.foldl alertFor s = { s with ci.alerts := a, xi := x, events := e, draws := n } ∧
    integrateDose s = { s with
      ci.alerts := a
      ci.doseTimer := nextInterval s.ci.doseTimer (doseInterval s.prof) s.clock
      xi := x, events := e, draws := n
      wt.map := s.wt.map.map (integrated s) } := by
  obtain ⟨a, x, e, n, alerts⟩ := alerts_eq s.wt.map s
  refine ⟨a, x, e, n, alerts, ?_⟩
  rw [integrateDose, alerts]

theorem integrated_elsewhere {s : State} {r : Segment} (elsewhere : inOven s r = false ∨ zoneAt s (ovenCentre s r) = none) :
    integrated s r = r := by
  unfold integrated
  rcases elsewhere with out | none
  · simp [out]
  · simp [none]

theorem integrated_inZone {s : State} {r : Segment} {z : Zone} (inside : inOven s r = true)
    (zone : zoneAt s (ovenCentre s r) = some z) :
    integrated s r = { r with
      dose := doseIn s z r
      peak := max r.peak (s.zone z).temperature
      stale := r.stale || !(s.zone z).fresh
      overcure := r.overcure || decide (r.dMax * 1000 < doseIn s z r) } := by
  unfold integrated
  rw [inside, zone]
  cases passed : r.overcure <;> simp [addDose_eq, newlyOvercured, passed]

/-- Settles O24: the timer keeps its phase, and each record is integrated by its zone. -/
theorem doseIntervalIntegratesTheOven : Obligations.DoseIntervalIntegratesTheOven := by
  unfold Obligations.DoseIntervalIntegratesTheOven
  intro s
  refine ⟨fun early => ?_, fun since runs elapses => ⟨_, rfl, ?_⟩⟩
  · rw [exec_doseIntervalExpiry, doseExpiry, doseInterval, ite_timerDue_neg early]
  · have board := (doseExpiry_closed board_calm s)
    obtain ⟨a, x, e, n, -, integrates⟩ := integrateDose_eq s
    rw [doseExpiry_due ⟨since, runs, elapses⟩] at board ⊢
    refine ⟨board.undisturbed, ⟨(s.clock - since).toNat / 2 ^ s.prof.doseExponent, Nat.div_pos elapses (by positivity), ?_,
      Nat.div_mul_le_self _ _, ?_⟩, board.zones, ?_, ?_, fun k r here => ⟨fun z above below zone => ?_, fun elsewhere => ?_⟩⟩
    · rw [integrates, runs]
      rfl
    · exact Nat.lt_mul_of_div_lt (Nat.lt_succ_self _) (by positivity)
    · rw [integrates]
    · rw [integrates, List.length_map]
    · rw [integrates, List.getElem?_map, here, Option.map_some,
        integrated_inZone ((inOven_iff s r).2 ⟨above, below⟩) zone]
      rfl
    · rw [integrates, List.getElem?_map, here, Option.map_some, integrated_elsewhere]
      rcases elsewhere with before | beyond | none
      · exact .inl (by simp [inOven, Nat.not_le.2 before])
      · exact .inl (by simp [inOven, Nat.not_lt.2 beyond])
      · exact .inr none

/-- Settles O25: the first zone that holds the distance, and the alert that its dose gives. -/
theorem overcureAlertsOncePerOrder : Obligations.OvercureAlertsOncePerOrder := by
  unfold Obligations.OvercureAlertsOncePerOrder
  intro s
  refine ⟨fun c z => ?_, fun p => ⟨fun full => if_neg (Nat.not_lt.2 full), fun short => if_pos short⟩, fun due => ?_,
    fun r z i dose above below zone slot value => ?_, fun r elsewhere => ?_⟩
  · rw [zoneAt_eq_some_iff, zoneHolds_iff]
    refine and_congr_right fun _ => forall_congr' fun y => imp_congr_right fun _ => ?_
    rw [zoneHolds_iff]
    push Not
    exact forall_congr' fun a => forall_congr' fun b => imp_congr_right fun _ => by omega
  · obtain ⟨a, x, e, n, alerts, integrates⟩ := integrateDose_eq s
    refine ⟨_, _, rfl, rfl, ?_⟩
    rw [doseExpiry_due due, integrates, alerts]
  · have alert := alertFor_inZone ((inOven_iff s r).2 ⟨above, below⟩) zone slot
    have same : doseIn s z r = dose := value.symm
    rw [same] at alert
    refine ⟨fun first passed fresh => ⟨{ s with ci.alerts := s.ci.alerts ||| (1#64 <<< i.val) }, rfl,
      fun j => getLsbD_setBit s.ci.alerts i j, ?_⟩, fun quiet => ?_⟩
    · rw [alert, if_pos ⟨first, passed, fresh⟩]
    · rw [alert, if_neg]
      rintro ⟨first, passed, fresh⟩
      rcases quiet with before | within | told
      · exact Bool.noConfusion (first.symm.trans before)
      · omega
      · exact Bool.noConfusion (fresh.symm.trans told)
  · refine alertFor_elsewhere (elsewhere.imp_right fun out => ?_)
    rcases out with before | beyond | none
    · exact .inl (by simp [inOven, Nat.not_le.2 before])
    · exact .inl (by simp [inOven, Nat.not_lt.2 beyond])
    · exact .inr none

/-! ### The verdict (R133) and what it counts for (R138 to R141) -/

theorem inSet_minusSet (a b : StationSet) (i : Station) : inSet (minusSet a b) i = (inSet a i && !inSet b i) := by
  simp [inSet, minusSet]

theorem set_nonempty_iff (m : StationSet) : (m != 0#16) = true ↔ ∃ i, inSet m i = true := by
  rw [bne_iff_ne, ne_eq, set_empty_iff]
  simp

theorem find?_modifyFirst {α : Type} {p : α → Bool} {f : α → α} (stays : ∀ a, p a = true → p (f a) = true) (l : List α) :
    (modifyFirst p f l).find? p = (l.find? p).map f := by
  induction l with
  | nil => rfl
  | cons a rest ih =>
    unfold modifyFirst
    by_cases here : p a = true
    · rw [if_pos here, List.find?_cons_of_pos (stays a here), List.find?_cons_of_pos here]
      rfl
    · rw [if_neg here, List.find?_cons_of_neg here, List.find?_cons_of_neg here, ih]

/-- DEFECT_RUN (R141). -/
def runReport (s : State) (run : DefectRun) : Posting :=
  { kind := .defectRun, tag := run.tag, station := 0#32, serial := wordOfNat run.firstSerial, clock := s.clock,
    first := wordOfNat run.count, second := wordOfNat run.defects.mask }

theorem reportRun_posts (s : State) (run : DefectRun) :
    reportRun s run = { afterReport s (runReport s run) with co.run := none } := by
  rw [reportRun, post_eq]
  rfl

theorem followRun_ends {s : State} {run : DefectRun} (open_ : s.co.run = some run) {r : Segment} {d : DefectSet}
    (ends : ¬(d.any && decide (run.defects = d ∧ run.slot = r.slot ∧ run.tag = r.tag)) = true) :
    followRun s r d = { afterReport s (runReport s run) with co.run := if d.any then some (runFrom r d) else none } := by
  unfold followRun
  rw [open_]
  dsimp only
  rw [if_neg ends, reportRun_posts]
  cases d.any <;> rfl

/-- Settles O27. -/
theorem exitIsJudgedAndCounted : Obligations.ExitIsJudgedAndCounted := by
  unfold Obligations.ExitIsJudgedAndCounted
  refine ⟨fun r => ⟨?_, set_nonempty_iff r.stopMarks, rfl, rfl, decide_eq_true_iff, rfl, rfl⟩, fun s r d =>
    ⟨fun none => ?_, fun i x slot found => ?_, fun closed clean => ?_, fun closed dirty => ?_,
      fun run opened => ⟨fun dirty defects slot tag => ?_, fun ends => ?_⟩⟩⟩
  · refine (set_nonempty_iff _).trans (exists_congr fun i => ?_)
    rw [inSet_minusSet, Bool.and_eq_true, Bool.not_eq_true']
  · rw [tallySegment, none]
  · unfold tallySegment
    rw [slot]
    dsimp only
    refine (find?_modifyFirst ?_ _).trans ?_
    · exact fun a here => here
    rw [found]
    rfl
  · simp [followRun, closed, clean]
  · simp [followRun, closed, dirty, runFrom]
  · unfold followRun
    rw [opened]
    exact if_pos (by simp [dirty, defects, slot, tag])
  · refine followRun_ends opened fun goes => ?_
    simp only [Bool.and_eq_true, decide_eq_true_eq] at goes
    obtain ⟨dirty, group⟩ := goes
    rcases ends with clean | other
    · exact Bool.noConfusion (clean.symm.trans dirty)
    · exact other group

/-! ### CLOSE_OUT (R17, R136) -/

theorem exec_closeOut (s : State) : exec .closeOut s = .next (startExit s) := rfl

theorem startExit_exits {s : State} {r : Segment} {rest : List Segment} (free : s.co.waiting = none)
    (map : s.wt.map = r :: rest) (out : exited s r = true) : startExit s = beginExit s r := by
  unfold startExit
  rw [free, map]
  exact if_pos out

theorem startExit_idle {s : State}
    (idle : s.co.waiting.isSome = true ∨ s.wt.map = [] ∨ (∃ r rest, s.wt.map = r :: rest ∧ exited s r = false)) :
    startExit s = s := by
  unfold startExit
  split
  next r rest free map =>
    rcases idle with busy | empty | ⟨x, others, head, inside⟩
    · rw [free] at busy
      cases busy
    · rw [map] at empty
      cases empty
    · rw [map] at head
      cases head
      exact if_neg (by simp [inside])
  next => rfl

/-- The record that a close-out takes carries its verdict from then on (R133). -/
theorem modifyFirst_head {α : Type} {p : α → Bool} {a : α} (here : p a = true) (f : α → α) (rest : List α) :
    modifyFirst p f (a :: rest) = f a :: rest := if_pos here

theorem finishExit_other {s : State} {n : Nat}
    (other : s.wt.map = [] ∨ ∃ r, s.wt.map.head? = some r ∧ r.serial ≠ n) :
    finishExit s n = { s with co.waiting := none } := by
  have absent : oldestWith s n = none := by
    unfold oldestWith
    rcases other with empty | ⟨r, head, serial⟩
    · rw [empty]
      rfl
    · rw [head]
      simp [serial]
  rw [finishExit, absent]

theorem finishExit_leaves {s : State} {n : Nat} {r : Segment} {rest : List Segment} (map : s.wt.map = r :: rest)
    (serial : r.serial = n) :
    finishExit s n = if exitWaits (settleExit s r) then settleExit s r else giveHorizon (settleExit s r) := by
  have oldest : oldestWith s n = some r := by simp [oldestWith, map, serial]
  rw [finishExit, oldest]

theorem settleExit_tail (s : State) {r : Segment} {rest : List Segment} (map : s.wt.map = r :: rest) :
    settleExit s r = { followRun (tallySegment s r (verdictOf r)) r (verdictOf r) with
      wt.map := rest, co.waiting := none } := by
  obtain ⟨y, tallied⟩ := tallySegment_eq s r (verdictOf r)
  obtain ⟨o, x, e, n, followed⟩ := followRun_eq { s with os.table := y } r (verdictOf r)
  rw [settleExit, tallied, followed]
  dsimp only
  rw [map, List.tail_cons]

/-- What a settled exit leaves of the fabric: the map without its oldest record. -/
theorem settleExit_wt (s : State) (r : Segment) :
    (settleExit s r).wt = { s.wt with map := s.wt.map.tail } ∧ (settleExit s r).prof = s.prof := by
  obtain ⟨y, o, x, e, n, settled⟩ := settleExit_eq s r
  rw [settled]
  exact ⟨rfl, rfl⟩

theorem exitWaits_settleExit (s : State) {r : Segment} {rest : List Segment} (map : s.wt.map = r :: rest) :
    exitWaits (settleExit s r) = rest.head?.any (exited s) := by
  obtain ⟨wt, prof⟩ := settleExit_wt s r
  unfold exitWaits
  rw [wt, map, List.tail_cons]
  cases rest with
  | nil => rfl
  | cons x others => simp [exited, wt, prof]

theorem giveHorizon_settleExit (s : State) (r : Segment) {X : Int} (position : X = (s.wt.q : Int) - s.wt.k - s.prof.ovenLength) :
    giveHorizon (settleExit s r) =
      if X < 0 then settleExit s r else testClose { settleExit s r with wt.horizon := some X.toNat } := by
  obtain ⟨wt, prof⟩ := settleExit_wt s r
  have horizon : ((settleExit s r).wt.q : Int) - (settleExit s r).wt.k - (settleExit s r).prof.ovenLength = X := by
    rw [wt, prof, position]
  unfold giveHorizon
  dsimp only
  rw [horizon]

/-- While XI is suspended a report is lost, and the queue stays as it is (R162). -/
theorem xiAfterReport_suspended {s : State} (suspended : s.xi.suspended = true) (p : Posting) :
    (xiAfterReport s p).queue = s.xi.queue ∧ (xiAfterReport s p).suspended = true := by
  have lost : postingLost s = true := by simp [postingLost, suspended]
  rw [xiAfterReport, if_pos lost]
  exact ⟨rfl, suspended⟩

theorem followRun_suspended {s : State} (suspended : s.xi.suspended = true) (r : Segment) (d : DefectSet) :
    (followRun s r d).xi.queue = s.xi.queue ∧ (followRun s r d).xi.suspended = true := by
  cases run : s.co.run with
  | none =>
    unfold followRun
    rw [run]
    cases d.any <;> exact ⟨rfl, suspended⟩
  | some run' =>
    by_cases goes : (d.any && decide (run'.defects = d ∧ run'.slot = r.slot ∧ run'.tag = r.tag)) = true
    · unfold followRun
      rw [run]
      dsimp only
      rw [if_pos goes]
      exact ⟨rfl, suspended⟩
    · rw [followRun_ends run goes]
      exact xiAfterReport_suspended suspended _

theorem settleExit_suspended {s : State} (suspended : s.xi.suspended = true) (r : Segment) :
    (settleExit s r).xi.queue = s.xi.queue ∧ (settleExit s r).xi.suspended = true := by
  obtain ⟨y, tallied⟩ := tallySegment_eq s r (verdictOf r)
  have followed := followRun_suspended (s := { s with os.table := y }) suspended r (verdictOf r)
  rw [settleExit, tallied]
  exact followed

/-- No order closes during a suspension (R48). -/
theorem testClose_suspended {s : State} (suspended : s.xi.suspended = true) : testClose s = s := by
  have held : dueToClose s = none := by
    unfold dueToClose
    split
    next => exact if_neg (by simp [suspended])
    next => rfl
  rw [testClose, held]

theorem testClose_horizon_suspended {s : State} (suspended : s.xi.suspended = true) (x : Option Nat) :
    testClose { s with wt.horizon := x } = { s with wt.horizon := x } := testClose_suspended suspended

/-- A segment that leaves during a suspension queues nothing (R136). -/
theorem finishExit_suspended {s : State} {r : Segment} {rest : List Segment} (map : s.wt.map = r :: rest)
    (suspended : s.xi.suspended = true) :
    (finishExit s r.serial).xi.queue = s.xi.queue ∧ (finishExit s r.serial).co.waiting = none ∧
      (finishExit s r.serial).wt.map = rest := by
  obtain ⟨queue, still⟩ := settleExit_suspended suspended r
  have waiting : (settleExit s r).co.waiting = none := by rw [settleExit_tail s map]
  have left : (settleExit s r).wt.map = rest := by rw [settleExit_tail s map]
  rw [finishExit_leaves map rfl]
  split
  next => exact ⟨queue, waiting, left⟩
  next =>
    rw [giveHorizon_settleExit s r rfl]
    split
    next => exact ⟨queue, waiting, left⟩
    next =>
      rw [testClose_horizon_suspended still]
      exact ⟨queue, waiting, left⟩

/-- Settles O28: the exit begun, its end while suspended, and the end of a close-out by what is left in the map. -/
theorem closeOutSettlesTheOldestExit : Obligations.CloseOutSettlesTheOldestExit := by
  unfold Obligations.CloseOutSettlesTheOldestExit
  intro s
  have marked (r : Segment) (rest : List Segment) (map : s.wt.map = r :: rest) :
      modifyFirst (fun x => x.serial == r.serial) (fun x => { x with verdict := some (defectsOf r) }) s.wt.map =
        { r with verdict := some (defectsOf r) } :: rest := by
    rw [map]
    exact modifyFirst_head (by simp) _ _
  refine ⟨fun r rest free map out runs => ?_, fun r rest free map out suspended => ?_, fun idle => ?_, fun n =>
    ⟨fun r rest d v w map serial verdict followed left => ?_, finishExit_other⟩⟩
  · rw [exec_closeOut, startExit_exits free map out, beginExit, marked r rest map]
    exact congrArg _ (if_neg (by simp [runs]))
  · have board := startExit_closed board_calm s
    have exit : startExit s =
        finishExit { s with wt.map := { r with verdict := some (defectsOf r) } :: rest } r.serial := by
      rw [startExit_exits free map out, beginExit, marked r rest map]
      exact if_pos suspended
    obtain ⟨queue, waiting, others⟩ := finishExit_suspended (r := { r with verdict := some (defectsOf r) }) (rest := rest)
      (s := { s with wt.map := { r with verdict := some (defectsOf r) } :: rest }) rfl suspended
    rw [exit] at board
    exact ⟨_, (exec_closeOut s).trans (congrArg Host.Outcome.next exit), board.undisturbed, queue, waiting, others, rfl⟩
  · rw [exec_closeOut, startExit_idle idle]
  · have settled : settleExit s r = w := by
      rw [left, followed, verdict]
      exact settleExit_tail s map
    have leaves := finishExit_leaves map serial
    have waits := exitWaits_settleExit s map
    rw [settled] at leaves waits
    refine ⟨fun ⟨x, head, out⟩ => ?_, fun X none position => ?_⟩
    · rw [leaves, waits, head, if_pos (by simpa using out)]
    · have last : rest.head?.any (exited s) = false := by
        cases head : rest.head? with
        | none => rfl
        | some x => exact none x head
      have gives := giveHorizon_settleExit s r position
      rw [settled] at gives
      rw [leaves, waits, last, if_neg Bool.false_ne_true, gives]
      exact ⟨fun below => if_pos below, fun above => if_neg (by omega)⟩

end Sys2Proof.Machine
end

section
/-! PROOF. Lead and station points of one channel (R66 to R69, R76), and the sweep of the thresholds over the stations, each of
which sees its own channel and its own bit of every printed set. -/

namespace Sys2Proof.Machine

/-! ### What the station thresholds can change -/

/-- `t` is `s` but for channels, the map's records and the engaged indication with its timer. -/
def StationsOnly (s t : State) : Prop :=
  t = { s with
    sc := t.sc
    wt := { s.wt with map := t.wt.map }
    lc := { s.lc with engaged := t.lc.engaged, standstill := t.lc.standstill } }

theorem StationsOnly.refl (s : State) : StationsOnly s s := rfl

theorem StationsOnly.trans {s t u : State} (a : StationsOnly s t) (b : StationsOnly t u) : StationsOnly s u := by
  rw [StationsOnly] at *
  rw [b, a]

theorem StationsOnly.symm {s t : State} (a : StationsOnly s t) : StationsOnly t s := by
  rw [StationsOnly] at *
  rw [a]

theorem setChan_stationsOnly (s : State) (i : Station) (c : Channel) : StationsOnly s (s.setChan i c) := rfl

theorem syncEngaged_stationsOnly (s : State) : StationsOnly s (syncEngaged s) := by
  rw [syncEngaged_eq]
  rfl

theorem addPrinted_stationsOnly (s : State) (n : Nat) (i : Station) : StationsOnly s (addPrinted s n i) := rfl

/-! ### The lead point (R67, R68) -/

/-- A channel after the evaluation of a stretch at its lead point (R68). -/
def evaluatedChannel (clk : Word) (down : Bool) (c : Channel) (requires need : Bool) : Channel :=
  match c.state with
  | .lifted =>
    if need then
      if down then { c with state := .engaged, pendingLower := false, lastRequired := requires, timer := .stopped }
      else { c with state := .lowering, pendingLower := false, lastRequired := requires, timer := .running clk }
    else { c with lastRequired := requires }
  | .lowering | .engaged =>
    if need then { c with lastRequired := requires }
    else { c with state := .lifting, pendingLower := false, lastRequired := requires, timer := .running clk }
  | .lifting => { c with pendingLower := need, lastRequired := requires }
  | .out | .faulted => { c with lastRequired := requires }

theorem evaluateLead_out {s : State} {i : Station} (out : (s.chan i).state = .out) (x : Stretch) : evaluateLead s i x = s :=
  if_pos (by simp [out])

theorem evaluateLead_eq {s : State} {i : Station} (inService : (s.chan i).state ≠ .out) (x : Stretch) :
    evaluateLead s i x = syncEngaged (s.setChan i (evaluatedChannel s.clock (inSet s.pins.downSense i) (s.chan i)
      (stretchRequires s x i) (stretchNeeds s x i))) := by
  unfold evaluateLead
  rw [if_neg (by simpa using inService)]
  dsimp only
  congr 1
  unfold actOnNeed evaluatedChannel
  rw [State.setChan_chan_self]
  cases state : (s.chan i).state with
  | out => exact absurd state inService
  | faulted => rfl
  | lifting => simp [State.setChan_setChan]
  | lowering | engaged => cases stretchNeeds s x i <;> simp [beginLifting, State.setChan_setChan, runTimer]
  | lifted =>
    cases stretchNeeds s x i <;> cases down : inSet s.pins.downSense i <;>
      simp [beginLowering, State.setChan_setChan, runTimer, down]

theorem evaluateLead_stationsOnly (s : State) (i : Station) (x : Stretch) : StationsOnly s (evaluateLead s i x) := by
  by_cases out : (s.chan i).state = .out
  · rw [evaluateLead_out out]
    exact .refl s
  · rw [evaluateLead_eq out]
    exact (setChan_stationsOnly s i _).trans (syncEngaged_stationsOnly _)

theorem evaluateLead_map (s : State) (i : Station) (x : Stretch) : (evaluateLead s i x).wt.map = s.wt.map := by
  by_cases out : (s.chan i).state = .out
  · rw [evaluateLead_out out]
  · rw [evaluateLead_eq out, syncEngaged_eq, State.setChan_wt]

theorem evaluateLead_chan_of_ne (s : State) (i j : Station) (x : Stretch) (other : j ≠ i) :
    (evaluateLead s i x).chan j = s.chan j := by
  by_cases out : (s.chan i).state = .out
  · rw [evaluateLead_out out]
  · rw [evaluateLead_eq out, syncEngaged_chan, State.setChan_chan_of_ne _ _ _ _ other.symm]

theorem stretchRequires_iff (s : State) (x : Stretch) (i : Station) :
    stretchRequires s x i = true ↔
      ∃ n r, x.serial = some n ∧ recordOfSerial s n = some r ∧ inSet r.required i = true := by
  unfold stretchRequires stretchRecord
  cases x.serial with
  | none => simp
  | some n => cases record : recordOfSerial s n <;> simp [record]

theorem stretchNeeds_iff (s : State) (x : Stretch) (i : Station) :
    stretchNeeds s x i = true ↔ stretchRequires s x i = true ∧ (s.chan i).manual = false ∧ s.lc.holds.any = false ∧
      (s.chan i).state ≠ .faulted ∧ (s.chan i).state ≠ .out := by
  simp [stretchNeeds, and_assoc]

/-! ### The station point (R76) -/

/-- The station point of a stretch at a channel prints it: the station is ENGAGED and required. -/
def prints (s : State) (i : Station) (x : Stretch) : Bool :=
  (s.chan i).state == .engaged && stretchRequires s x i

/-- A map after the station point of a stretch at station `i`. -/
def printedMap (s : State) (i : Station) (x : Stretch) : List Segment :=
  match x.serial with
  | some n =>
    if prints s i x then modifyFirst (fun r => r.serial == n) (fun r => { r with printed := addTo r.printed i }) s.wt.map
    else s.wt.map
  | none => s.wt.map

/-- A channel after the station point of a stretch (R76). -/
def pointedChannel (s : State) (i : Station) (x : Stretch) : Channel :=
  if (s.chan i).state = .out then s.chan i else { s.chan i with pressure := stretchPressure s x }

theorem State.setChan_self (s : State) (i : Station) : s.setChan i (s.chan i) = s := by
  have same : s.sc.set i.val (s.chan i) i.isLt = s.sc := by
    simp [State.chan, Vector.get_eq_getElem]
  rw [State.setChan, same]

theorem meetStationPoint_eq (s : State) (i : Station) (x : Stretch) :
    meetStationPoint s i x = { s.setChan i (pointedChannel s i x) with wt.map := printedMap s i x } := by
  have channel : (if (s.chan i).state == .out then s else s.setChan i { s.chan i with pressure := stretchPressure s x }) =
      s.setChan i (pointedChannel s i x) := by
    unfold pointedChannel
    by_cases out : (s.chan i).state = .out
    · rw [if_pos (by simp [out]), if_pos out, State.setChan_self]
    · rw [if_neg (by simpa using out), if_neg out]
  unfold meetStationPoint printedMap
  rw [channel]
  dsimp only
  have which : ((s.chan i).state == .engaged && stretchRequires s x i) = prints s i x := rfl
  rw [which]
  cases x.serial with
  | none => rfl
  | some n => cases prints s i x <;> rfl

theorem meetStationPoint_stationsOnly (s : State) (i : Station) (x : Stretch) : StationsOnly s (meetStationPoint s i x) := by
  rw [meetStationPoint_eq]
  rfl

theorem meetStationPoint_chan_self (s : State) (i : Station) (x : Stretch) :
    (meetStationPoint s i x).chan i = pointedChannel s i x := by
  rw [meetStationPoint_eq]
  exact State.setChan_chan_self s i _

theorem meetStationPoint_chan_of_ne (s : State) (i j : Station) (x : Stretch) (other : j ≠ i) :
    (meetStationPoint s i x).chan j = s.chan j := by
  rw [meetStationPoint_eq]
  exact State.setChan_chan_of_ne s i j _ other.symm

theorem meetStationPoint_map (s : State) (i : Station) (x : Stretch) :
    (meetStationPoint s i x).wt.map = printedMap s i x := by
  rw [meetStationPoint_eq]

/-! ### What one station sees -/

/-- A record as station `j` sees it: of the printed set, its own bit. -/
def viewOf (j : Station) (r : Segment) : Segment := { r with printed := r.printed &&& oneSet j }

/-- A record without its printed set. -/
def bare (r : Segment) : Segment := { r with printed := 0#16 }

theorem inSet_viewOf (j : Station) (r : Segment) : inSet (viewOf j r).printed j = inSet r.printed j := by
  have own := inSet_oneSet j j
  simp_all [viewOf, inSet]

theorem bare_viewOf (j : Station) (r : Segment) : bare (viewOf j r) = bare r := rfl

theorem viewOf_addTo_self (j : Station) (r : Segment) :
    viewOf j { r with printed := addTo r.printed j } =
      { viewOf j r with printed := addTo (viewOf j r).printed j } := by
  simp only [viewOf, addTo, Segment.mk.injEq, true_and, and_true]
  ext k
  simp only [BitVec.getElem_and, BitVec.getElem_or]
  cases r.printed[k] <;> cases (oneSet j)[k] <;> rfl

theorem viewOf_addTo_of_ne {i j : Station} (other : j ≠ i) (r : Segment) :
    viewOf j { r with printed := addTo r.printed i } = viewOf j r := by
  simp only [viewOf, addTo, Segment.mk.injEq, true_and, and_true]
  refine BitVec.eq_of_getLsbD_eq fun k small => ?_
  have mine := inSet_oneSet j ⟨k, small⟩
  have theirs := inSet_oneSet i ⟨k, small⟩
  simp only [inSet] at mine theirs
  rw [BitVec.getLsbD_and, BitVec.getLsbD_and, BitVec.getLsbD_or, mine, theirs]
  by_cases here : (⟨k, small⟩ : Station) = j
  · simp [here, other]
  · simp [here]

/-- A change of the first element that passes a test, seen through a function that respects both. -/
theorem map_modifyFirst {α β : Type} {test : α → Bool} {test' : β → Bool} {f : α → α} {f' : β → β} {g : α → β}
    (tests : ∀ a, test' (g a) = test a) (changes : ∀ a, g (f a) = f' (g a)) (l : List α) :
    (modifyFirst test f l).map g = modifyFirst test' f' (l.map g) := by
  induction l with
  | nil => rfl
  | cons a rest ih =>
    rw [List.map_cons]
    unfold modifyFirst
    rw [tests a]
    split
    next => rw [List.map_cons, changes]
    next => rw [List.map_cons, ih]

/-- Station `j` cannot tell `t` from `s`: they differ in what station thresholds change, and there the channel of `j` and its
own view of the records are the same. -/
structure Alike (j : Station) (s t : State) : Prop where
  only : StationsOnly s t
  chan : t.chan j = s.chan j
  seen : t.wt.map.map (viewOf j) = s.wt.map.map (viewOf j)

section
variable {j : Station} {s t : State} (alike : Alike j s t)
include alike

theorem Alike.stationCfg : t.stationCfg j = s.stationCfg j := by
  rw [alike.only]
  rfl

theorem Alike.position : t.wt.p = s.wt.p := by rw [alike.only]

theorem Alike.clock : t.clock = s.clock := by rw [alike.only]

theorem Alike.pins : t.pins = s.pins := by rw [alike.only]

theorem Alike.holds : t.lc.holds = s.lc.holds := by rw [alike.only]

theorem Alike.pointHere : pointHere t j = pointHere s j := by
  simp only [Machine.pointHere, alike.chan, alike.stationCfg, alike.position]

theorem Alike.leadHere : leadHere t j = leadHere s j := by
  simp only [Machine.leadHere, alike.chan, alike.stationCfg, alike.position]

theorem Alike.stretchRecord (x : Stretch) :
    (stretchRecord t x).map (viewOf j) = (stretchRecord s x).map (viewOf j) := by
  have find (u : State) (n : Nat) :
      (recordOfSerial u n).map (viewOf j) = (u.wt.map.map (viewOf j)).find? fun r => r.serial == n := by
    rw [List.find?_map]
    rfl
  unfold Machine.stretchRecord
  cases x.serial with
  | none => rfl
  | some n => exact (find t n).trans ((congrArg _ alike.seen).trans (find s n).symm)

theorem Alike.stretchRequires (x : Stretch) : stretchRequires t x j = stretchRequires s x j := by
  have viewed (u : State) : Machine.stretchRequires u x j =
      ((Machine.stretchRecord u x).map (viewOf j)).any fun r => inSet r.required j := by
    unfold Machine.stretchRequires
    cases Machine.stretchRecord u x <;> rfl
  rw [viewed, viewed, alike.stretchRecord]

theorem Alike.stretchPressure (x : Stretch) : stretchPressure t x = stretchPressure s x := by
  have viewed (u : State) : Machine.stretchPressure u x =
      ((Machine.stretchRecord u x).map (viewOf j)).elim 0#3 fun r => r.pressure := by
    unfold Machine.stretchPressure
    cases Machine.stretchRecord u x <;> rfl
  rw [viewed, viewed, alike.stretchRecord]

theorem Alike.setChan (c : Channel) : Alike j (s.setChan j c) (t.setChan j c) where
  only := ((setChan_stationsOnly s j c).symm.trans alike.only).trans (setChan_stationsOnly t j c)
  chan := by rw [State.setChan_chan_self, State.setChan_chan_self]
  seen := alike.seen

theorem Alike.evaluateLead (x : Stretch) : Alike j (evaluateLead s j x) (evaluateLead t j x) where
  only := ((evaluateLead_stationsOnly s j x).symm.trans alike.only).trans (evaluateLead_stationsOnly t j x)
  chan := by
    by_cases out : (s.chan j).state = .out
    · rw [evaluateLead_out out, evaluateLead_out (by rwa [alike.chan]), alike.chan]
    · rw [evaluateLead_eq out, evaluateLead_eq (by rwa [alike.chan]), syncEngaged_chan, syncEngaged_chan,
        State.setChan_chan_self, State.setChan_chan_self]
      have needs : stretchNeeds t x j = stretchNeeds s x j := by
        simp only [stretchNeeds, alike.stretchRequires, alike.chan, alike.holds]
      rw [alike.chan, alike.clock, alike.pins, alike.stretchRequires, needs]
  seen := by rw [evaluateLead_map, evaluateLead_map, alike.seen]

theorem Alike.meetStationPoint (x : Stretch) : Alike j (meetStationPoint s j x) (meetStationPoint t j x) where
  only := ((meetStationPoint_stationsOnly s j x).symm.trans alike.only).trans (meetStationPoint_stationsOnly t j x)
  chan := by
    rw [meetStationPoint_chan_self, meetStationPoint_chan_self, pointedChannel, pointedChannel, alike.chan,
      alike.stretchPressure]
  seen := by
    have same : prints t j x = prints s j x := by rw [prints, prints, alike.chan, alike.stretchRequires]
    have adds (n : Nat) (l : List Segment) := map_modifyFirst (test := fun r => r.serial == n)
      (test' := fun r => r.serial == n) (g := viewOf j) (f := fun r => { r with printed := addTo r.printed j })
      (f' := fun r => { r with printed := addTo r.printed j }) (fun _ => rfl) (viewOf_addTo_self j) l
    rw [meetStationPoint_map, meetStationPoint_map, printedMap, printedMap, same]
    cases x.serial with
    | none => exact alike.seen
    | some n =>
      dsimp only
      split
      next => rw [adds, adds, alike.seen]
      next => exact alike.seen

end

/-! ### The thresholds of one station (R69) -/

/-- The state after the station point due here, if one is. -/
def afterPoint (s : State) (i : Station) : State :=
  match pointHere s i with
  | some x => meetStationPoint (s.setChan i { s.chan i with points := (s.chan i).points.tail }) i x
  | none => s

/-- The state after the lead point that was due at the thresholds' beginning. -/
def afterLead (lead : Option Stretch) (u : State) (i : Station) : State :=
  match lead with
  | some x => evaluateLead (u.setChan i { u.chan i with leads := (u.chan i).leads.tail }) i x
  | none => u

theorem meetStation_eq {s : State} {i : Station} (inService : (s.stationCfg i).inService = true) :
    meetStation s i = afterLead (leadHere s i) (afterPoint s i) i := by
  rw [meetStation, if_pos inService]
  rfl

theorem meetStation_idle {s : State} {i : Station} (idle : (s.stationCfg i).inService = false) : meetStation s i = s :=
  if_neg (by simp [idle])

theorem afterPoint_stationsOnly (s : State) (i : Station) : StationsOnly s (afterPoint s i) := by
  unfold afterPoint
  split
  next => exact (setChan_stationsOnly s i _).trans (meetStationPoint_stationsOnly _ i _)
  next => exact .refl s

theorem afterLead_stationsOnly (lead : Option Stretch) (u : State) (i : Station) : StationsOnly u (afterLead lead u i) := by
  cases lead with
  | none => exact .refl u
  | some x => exact (setChan_stationsOnly u i _).trans (evaluateLead_stationsOnly _ i x)

theorem meetStation_stationsOnly (s : State) (i : Station) : StationsOnly s (meetStation s i) := by
  cases inService : (s.stationCfg i).inService with
  | false =>
    rw [meetStation_idle inService]
    exact .refl s
  | true =>
    rw [meetStation_eq inService]
    exact (afterPoint_stationsOnly s i).trans (afterLead_stationsOnly _ _ i)

theorem Alike.meetStation {j : Station} {s t : State} (alike : Alike j s t) : Alike j (meetStation s j) (meetStation t j) := by
  cases inService : (s.stationCfg j).inService with
  | false => rwa [meetStation_idle inService, meetStation_idle (by rwa [alike.stationCfg])]
  | true =>
    have pointed : Alike j (afterPoint s j) (afterPoint t j) := by
      unfold afterPoint
      rw [alike.pointHere, alike.chan]
      cases Machine.pointHere s j with
      | none => exact alike
      | some x => exact (alike.setChan _).meetStationPoint x
    rw [meetStation_eq inService, meetStation_eq (by rwa [alike.stationCfg]), alike.leadHere]
    unfold afterLead
    rw [pointed.chan]
    cases Machine.leadHere s j with
    | none => exact pointed
    | some x => exact (pointed.setChan _).evaluateLead x

theorem afterPoint_chan_of_ne (s : State) (i j : Station) (other : j ≠ i) : (afterPoint s i).chan j = s.chan j := by
  unfold afterPoint
  split
  next => rw [meetStationPoint_chan_of_ne _ _ _ _ other, State.setChan_chan_of_ne _ _ _ _ other.symm]
  next => rfl

theorem afterPoint_leads (s : State) (i : Station) : ((afterPoint s i).chan i).leads = (s.chan i).leads := by
  unfold afterPoint
  split
  next =>
    rw [meetStationPoint_chan_self, pointedChannel]
    split
    next => rw [State.setChan_chan_self]
    next => rw [State.setChan_chan_self]
  next => rfl

theorem afterLead_chan_of_ne (lead : Option Stretch) (u : State) (i j : Station) (other : j ≠ i) :
    (afterLead lead u i).chan j = u.chan j := by
  cases lead with
  | none => rfl
  | some x => exact (evaluateLead_chan_of_ne _ i j x other).trans (State.setChan_chan_of_ne _ _ _ _ other.symm)

theorem meetStation_chan_of_ne (s : State) (i j : Station) (other : j ≠ i) : (meetStation s i).chan j = s.chan j := by
  cases inService : (s.stationCfg i).inService with
  | false => rw [meetStation_idle inService]
  | true => rw [meetStation_eq inService, afterLead_chan_of_ne _ _ _ _ other, afterPoint_chan_of_ne _ _ _ other]

/-- What a function of a record that does not look at bit `i` of the printed set sees, station `i` leaves as it is. -/
theorem meetStation_map {β : Type} (s : State) (i : Station) {g : Segment → β}
    (blind : ∀ r : Segment, g { r with printed := addTo r.printed i } = g r) :
    (meetStation s i).wt.map.map g = s.wt.map.map g := by
  have point (u : State) (x : Stretch) : (meetStationPoint u i x).wt.map.map g = u.wt.map.map g := by
    rw [meetStationPoint_map, printedMap]
    split
    next =>
      split
      next => exact modifyFirst_map _ _ _ blind _
      next => rfl
    next => rfl
  have pointed : (afterPoint s i).wt.map.map g = s.wt.map.map g := by
    unfold afterPoint
    split
    next => exact point _ _
    next => rfl
  cases inService : (s.stationCfg i).inService with
  | false => rw [meetStation_idle inService]
  | true =>
    rw [meetStation_eq inService]
    unfold afterLead
    split
    next => rw [evaluateLead_map, State.setChan_wt, pointed]
    next => exact pointed

/-! ### The sweep over the stations (R69) -/

theorem meetStations_eq (s : State) : meetStations s = stationList.foldl meetStation s := rfl

theorem meetStations_stationsOnly (s : State) : StationsOnly s (meetStations s) := by
  rw [meetStations_eq]
  exact foldl_keeps (P := StationsOnly s) (f := meetStation) (fun t i h => h.trans (meetStation_stationsOnly t i)) stationList
    (.refl s)

theorem meetStations_bare (s : State) : (meetStations s).wt.map.map bare = s.wt.map.map bare := by
  rw [meetStations_eq]
  exact foldl_keeps (P := fun t => t.wt.map.map bare = s.wt.map.map bare) (f := meetStation)
    (fun t i h => (meetStation_map t i fun _ => rfl).trans h) stationList rfl

/-- Every station meets its thresholds as if it were alone (R69). -/
theorem meetStations_alike (s : State) (j : Station) : Alike j (meetStation s j) (meetStations s) := by
  obtain ⟨before, after, split⟩ := List.append_of_mem (mem_stationList j)
  have once := stationList_nodup
  rw [split] at once
  obtain ⟨-, ⟨later, -⟩, apart⟩ := (List.nodup_append.1 once).imp_right (And.imp_left List.nodup_cons.1)
  have earlier : j ∉ before := fun mem => apart j mem j (List.mem_cons_self ..) rfl
  have others (l : List Station) (absent : j ∉ l) (u : State) : Alike j u (l.foldl meetStation u) := by
    refine List.foldlRecOn (motive := Alike j u) l meetStation ⟨.refl u, rfl, rfl⟩ fun t ht i mem => ?_
    have other : j ≠ i := fun same => absent (same ▸ mem)
    exact ⟨ht.only.trans (meetStation_stationsOnly t i), (meetStation_chan_of_ne t i j other).trans ht.chan,
      (meetStation_map t i (viewOf_addTo_of_ne other)).trans ht.seen⟩
  have swept := others after later (meetStation (before.foldl meetStation s) j)
  have first := (others before earlier s).meetStation
  rw [meetStations_eq, split, List.foldl_append, List.foldl_cons]
  exact ⟨first.only.trans swept.only, swept.chan.trans first.chan, swept.seen.trans first.seen⟩

/-! ### The engaged indication over the sweep (R68, R150) -/

/-- The engaged indication and the standstill timer stay, or the indication has brought the timer with it. -/
def TimerFollows (s t : State) : Prop :=
  (t.lc.engaged = s.lc.engaged ∧ t.lc.standstill = s.lc.standstill) ∨
    (t.lc.engaged = true ∧ t.lc.standstill = .running s.clock) ∨ (t.lc.engaged = false ∧ t.lc.standstill = .stopped)

theorem TimerFollows.of_lc {s t : State} (lc : t.lc = s.lc) : TimerFollows s t := .inl (by rw [lc]; exact ⟨rfl, rfl⟩)

theorem TimerFollows.trans {s t u : State} (a : TimerFollows s t) (clock : t.clock = s.clock) (b : TimerFollows t u) :
    TimerFollows s u := by
  rcases b with ⟨engaged, timer⟩ | ⟨engaged, timer⟩ | ⟨engaged, timer⟩
  · rwa [TimerFollows, engaged, timer]
  · exact .inr (.inl ⟨engaged, clock ▸ timer⟩)
  · exact .inr (.inr ⟨engaged, timer⟩)

theorem syncEngaged_timerFollows (s : State) : TimerFollows s (syncEngaged s) := by
  rw [syncEngaged_eq]
  cases down : anyEngaged s <;> cases before : s.lc.engaged <;> simp [TimerFollows, before]

theorem evaluateLead_timerFollows (s : State) (i : Station) (x : Stretch) : TimerFollows s (evaluateLead s i x) := by
  by_cases out : (s.chan i).state = .out
  · rw [evaluateLead_out out]
    exact .of_lc rfl
  · rw [evaluateLead_eq out]
    exact syncEngaged_timerFollows (s.setChan i _)

theorem meetStation_timerFollows (s : State) (i : Station) : TimerFollows s (meetStation s i) := by
  have pointed : (afterPoint s i).lc = s.lc ∧ (afterPoint s i).clock = s.clock := by
    unfold afterPoint
    split
    next =>
      rw [meetStationPoint_eq]
      exact ⟨rfl, rfl⟩
    next => exact ⟨rfl, rfl⟩
  obtain ⟨lc, clock⟩ := pointed
  cases inService : (s.stationCfg i).inService with
  | false =>
    rw [meetStation_idle inService]
    exact .of_lc rfl
  | true =>
    rw [meetStation_eq inService]
    unfold afterLead
    split
    next x _ =>
      exact (TimerFollows.of_lc lc).trans clock (evaluateLead_timerFollows ((afterPoint s i).setChan i _) i x)
    next => exact .of_lc lc

theorem meetStations_timerFollows (s : State) : TimerFollows s (meetStations s) := by
  have both := foldl_keeps (P := fun t => StationsOnly s t ∧ TimerFollows s t) (f := meetStation)
    (fun t i ⟨only, follows⟩ => ⟨only.trans (meetStation_stationsOnly t i),
      follows.trans (by rw [only]) (meetStation_timerFollows t i)⟩) stationList ⟨.refl s, .of_lc rfl⟩
  rw [meetStations_eq]
  exact both.2

/-! ### Stretches handed over (R66) -/

theorem addStretchAt_chan_of_ne (x : Stretch) (s : State) (i j : Station) (other : j ≠ i) :
    (addStretchAt x s i).chan j = s.chan j := by
  unfold addStretchAt
  split
  next => exact State.setChan_chan_of_ne _ _ _ _ other.symm
  next => rfl

/-- A channel with a stretch's two thresholds queued. -/
def queuedChannel (inService : Bool) (x : Stretch) (c : Channel) : Channel :=
  if inService then { c with leads := c.leads ++ [x], points := c.points ++ [x] } else c

theorem addStretchAt_chan (x : Stretch) (s : State) (i : Station) :
    (addStretchAt x s i).chan i = queuedChannel (s.stationCfg i).inService x (s.chan i) := by
  unfold addStretchAt queuedChannel
  split
  next => exact State.setChan_chan_self _ _ _
  next => rfl

/-- `t` is `s` but for its channels. -/
def ChannelsOnly (s t : State) : Prop := t = { s with sc := t.sc }

theorem addStretchAt_channelsOnly {s t : State} (h : ChannelsOnly s t) (x : Stretch) (i : Station) :
    ChannelsOnly s (addStretchAt x t i) := by
  unfold addStretchAt
  split
  next =>
    rw [ChannelsOnly] at *
    rw [h]
    rfl
  next => exact h

theorem addStretch_eq (s : State) (x : Stretch) : addStretch s x = stationList.foldl (addStretchAt x) s := rfl

theorem addStretch_channelsOnly (s : State) (x : Stretch) : ChannelsOnly s (addStretch s x) := by
  rw [addStretch_eq]
  exact foldl_keeps (P := ChannelsOnly s) (f := addStretchAt x) (fun _ i h => addStretchAt_channelsOnly h x i) stationList rfl

theorem addStretch_chan (s : State) (x : Stretch) (j : Station) :
    (addStretch s x).chan j = queuedChannel (s.stationCfg j).inService x (s.chan j) := by
  rw [addStretch_eq]
  refine foldl_local (P := ChannelsOnly s) (get := State.chan) (f := addStretchAt x)
    (g := queuedChannel (s.stationCfg j).inService x) (fun _ i h => addStretchAt_channelsOnly h x i)
    (addStretchAt_chan_of_ne x) (fun t h => ?_) stationList_nodup (mem_stationList j) rfl
  have cfg : t.stationCfg j = s.stationCfg j := by rw [h]; rfl
  rw [addStretchAt_chan, cfg]

/-! ### The parts of O16 -/

theorem stationDue_iff (s : State) (i : Station) :
    stationDue s i = true ↔ (s.stationCfg i).inService = true ∧
      ((∃ y, (s.chan i).points.head? = some y ∧ y.start + (s.stationCfg i).distance ≤ s.wt.p) ∨
        ∃ y, (s.chan i).leads.head? = some y ∧
          (y.start : Int) + (s.stationCfg i).distance - (s.stationCfg i).lead ≤ s.wt.p) := by
  have point : (pointHere s i).isSome = true ↔
      ∃ y, (s.chan i).points.head? = some y ∧ y.start + (s.stationCfg i).distance ≤ s.wt.p := by
    unfold pointHere
    cases (s.chan i).points with
    | nil => simp
    | cons y rest => by_cases here : y.start + (s.stationCfg i).distance ≤ s.wt.p <;> simp [here]
  have lead : (leadHere s i).isSome = true ↔
      ∃ y, (s.chan i).leads.head? = some y ∧
        (y.start : Int) + (s.stationCfg i).distance - (s.stationCfg i).lead ≤ s.wt.p := by
    have rule (y : Stretch) : (y.start : Int) + (s.stationCfg i).distance - (s.stationCfg i).lead ≤ s.wt.p ↔
        y.start + (s.stationCfg i).distance ≤ s.wt.p + (s.stationCfg i).lead := by omega
    simp only [rule]
    unfold leadHere
    cases (s.chan i).leads with
    | nil => simp
    | cons y rest =>
      by_cases here : y.start + (s.stationCfg i).distance ≤ s.wt.p + (s.stationCfg i).lead <;> simp [here]
  rw [stationDue, Bool.and_eq_true, Bool.or_eq_true, point, lead]

/-- The one record with a serial is the one that the station point changes (R76). -/
theorem modifyFirst_unique {l : List Segment} {n k : Nat} {r : Segment} (here : l[k]? = some r) (serial : r.serial = n)
    (unique : ∀ (j : Nat) (y : Segment), l[j]? = some y → y.serial = n → j = k) (f : Segment → Segment) :
    (modifyFirst (fun x => x.serial == n) f l)[k]? = some (f r) ∧
      ∀ j : Nat, j ≠ k → (modifyFirst (fun x => x.serial == n) f l)[j]? = l[j]? := by
  have first : l.findIdx? (fun x => x.serial == n) = some k := by
    cases found : l.findIdx? (fun x => x.serial == n) with
    | none =>
      have absent := List.findIdx?_eq_none_iff.1 found r (List.mem_of_getElem? here)
      exact absurd serial (by simpa using absent)
    | some j =>
      obtain ⟨short, passes, -⟩ := List.findIdx?_eq_some_iff_getElem.1 found
      rw [unique j l[j] (List.getElem?_eq_getElem short) (by simpa using passes)]
  refine ⟨?_, fun j other => ?_⟩
  · rw [modifyFirst_getElem? _ _ _ k r here, if_pos first]
  · cases there : l[j]? with
    | some y => rw [modifyFirst_getElem? _ _ _ j y there, if_neg (by rw [first]; simpa using other.symm)]
    | none =>
      have long := List.getElem?_eq_none_iff.1 there
      exact List.getElem?_eq_none_iff.2 (by rwa [modifyFirst_length])

theorem viewOf_getElem? {j : Station} {l m : List Segment} (same : l.map (viewOf j) = m.map (viewOf j)) {k : Nat} {x : Segment}
    (here : m[k]? = some x) : ∃ r, l[k]? = some r ∧ inSet r.printed j = inSet x.printed j := by
  have there := congrArg (fun l => l[k]?) same
  simp only [List.getElem?_map, here, Option.map_some, Option.map_eq_some_iff] at there
  obtain ⟨r, place, view⟩ := there
  exact ⟨r, place, by rw [← inSet_viewOf, view, inSet_viewOf]⟩

theorem bare_getElem? {l m : List Segment} (same : l.map bare = m.map bare) {k : Nat} {r : Segment} (here : m[k]? = some r) :
    ∃ p, l[k]? = some { r with printed := p } := by
  have there := congrArg (fun l => l[k]?) same
  simp only [List.getElem?_map, here, Option.map_some, Option.map_eq_some_iff] at there
  obtain ⟨x, place, view⟩ := there
  refine ⟨x.printed, place.trans (congrArg some ?_)⟩
  have fields := congrArg (fun y : Segment => { y with printed := x.printed }) view
  exact fields

theorem stretchPressure_of_record {s : State} {x : Stretch} {n : Nat} {r : Segment} (serial : x.serial = some n)
    (record : recordOfSerial s n = some r) : stretchPressure s x = r.pressure := by
  rw [stretchPressure, stretchRecord, serial]
  dsimp only
  rw [record]

theorem stretchPressure_of_refused {s : State} {x : Stretch} (refused : x.serial = none) : stretchPressure s x = 0#3 := by
  rw [stretchPressure, stretchRecord, refused]

/-- Settles O16: one channel's thresholds by their closed forms, and the sweep by what each station sees. -/
theorem leadAndStationPointsMoveTheScreen : Obligations.LeadAndStationPointsMoveTheScreen := by
  unfold Obligations.LeadAndStationPointsMoveTheScreen
  intro s i x requires need requiresIff needIff
  have required : stretchRequires s x i = requires := Bool.eq_iff_iff.2 ((stretchRequires_iff s x i).trans requiresIff.symm)
  have needed : stretchNeeds s x i = need :=
    Bool.eq_iff_iff.2 ((stretchNeeds_iff s x i).trans (by rw [needIff, required]))
  refine ⟨stationDue_iff s i, fun out => ?_, fun inService => ?_, ?_, ?_, meetStation_idle, fun u inService after => ?_, ?_⟩
  · rw [evaluateLead_out out]
    exact ⟨rfl, rfl⟩
  · have others (j : Station) (other : j ≠ i) := evaluateLead_chan_of_ne s i j x other
    have evaluated := evaluateLead_eq inService x
    rw [required, needed] at evaluated
    have follows : EngagedFollows s (evaluateLead s i x) := by
      rw [evaluated]
      exact syncEngaged_follows (s.setChan i _)
    have here : (evaluateLead s i x).chan i =
        evaluatedChannel s.clock (inSet s.pins.downSense i) (s.chan i) requires need := by
      rw [evaluated, syncEngaged_chan, State.setChan_chan_self]
    have requiredOfNeed (h : need = true) : requires = true := (needIff.1 h).1
    refine ⟨_, rfl, ?_, follows, others, fun lifted h up => ?_, fun lifted h down => ?_, fun down h => ?_, fun lifting => ?_,
      fun stays => ?_⟩
    · rw [evaluated, syncEngaged_eq]
      rfl
    · rw [here]
      simp [evaluatedChannel, lifted, h, up, requiredOfNeed h]
    · rw [here]
      simp [evaluatedChannel, lifted, h, down, requiredOfNeed h]
    · rw [here]
      rcases down with state | state <;> simp [evaluatedChannel, state, h]
    · rw [here]
      simp [evaluatedChannel, lifting]
    · rw [here]
      rcases stays with state | ⟨state, h⟩ | ⟨state | state, h⟩ <;> simp [evaluatedChannel, state] <;> simp [h]
  · refine ⟨_, rfl, ?_, fun j other => meetStationPoint_chan_of_ne s i j x other, fun out => ?_, fun inService => ?_,
      fun none => ?_, fun n k r serial engaged h here number unique => ?_⟩
    · have shape := meetStationPoint_eq s i x
      rw [shape]
      rfl
    · rw [meetStationPoint_chan_self, pointedChannel, if_pos out]
    · refine ⟨stretchPressure s x, ?_, fun refused => stretchPressure_of_refused refused,
        fun n r serial record => stretchPressure_of_record serial record⟩
      rw [meetStationPoint_chan_self, pointedChannel, if_neg inService]
    · rw [meetStationPoint_map, printedMap]
      have silent (h : prints s i x = false) (n : Nat) : (if prints s i x then
          modifyFirst (fun r => r.serial == n) (fun r => { r with printed := addTo r.printed i }) s.wt.map
          else s.wt.map) = s.wt.map := if_neg (by simp [h])
      cases serial : x.serial with
      | none => rfl
      | some n =>
        refine silent ?_ n
        rcases none with h | h | h
        · rw [h] at serial
          cases serial
        · simp [prints, h]
        · simp [prints, required, h]
    · have marks : prints s i x = true := by simp [prints, engaged, required, h]
      rw [meetStationPoint_map, printedMap, serial]
      dsimp only
      rw [if_pos marks]
      exact modifyFirst_unique here number unique _
  · exact ⟨_, rfl, addStretch_channelsOnly s x, addStretch_chan s x⟩
  · have point : afterPoint s i = u := by
      rw [after, afterPoint, pointHere]
      cases (s.chan i).points with
      | nil => rfl
      | cons y rest =>
        by_cases due : y.start + (s.stationCfg i).distance ≤ s.wt.p
        · simp only [if_pos due, List.tail_cons]
        · simp only [if_neg due]
    have leads : (u.chan i).leads = (s.chan i).leads := point ▸ afterPoint_leads s i
    rw [meetStation_eq inService, point, leadHere]
    unfold afterLead
    rw [leads]
    cases (s.chan i).leads with
    | nil => rfl
    | cons z rest =>
      by_cases due : z.start + (s.stationCfg i).distance ≤ s.wt.p + (s.stationCfg i).lead
      · simp only [if_pos due, List.tail_cons]
      · simp only [if_neg due]
  · have only := meetStations_stationsOnly s
    have follows := meetStations_timerFollows s
    refine ⟨_, rfl, only, meetStations_closed engagedLaw_calm s, fun idle engaged => ?_, fun engaged idle => ?_, ?_,
      fun j => (meetStations_alike s j).chan, ?_, fun k r here => ?_⟩
    · rcases follows with ⟨same, -⟩ | ⟨-, timer⟩ | ⟨off, -⟩
      · exact Bool.noConfusion ((same.symm.trans engaged).symm.trans idle |>.symm)
      · exact timer
      · exact Bool.noConfusion (off.symm.trans engaged)
    · rcases follows with ⟨same, -⟩ | ⟨on, -⟩ | ⟨-, timer⟩
      · exact Bool.noConfusion ((same.symm.trans idle).symm.trans engaged |>.symm)
      · exact Bool.noConfusion (on.symm.trans idle)
      · exact timer
    · exact follows.imp_left And.right
    · simpa using congrArg List.length (meetStations_bare s)
    · obtain ⟨p, place⟩ := bare_getElem? (meetStations_bare s) here
      refine ⟨p, place, fun j => ?_⟩
      obtain ⟨r', there, bit⟩ := viewOf_getElem? (meetStations_alike s j).seen.symm place
      exact ⟨r', there, bit.symm⟩

end Sys2Proof.Machine
end

section
/-! PROOF. The mark reader's schedules: an entry changed, windows met, builds (R102 to R107). -/

namespace Sys2Proof.Machine

/-! ### One entry of one schedule -/

theorem find?_modifyFirst_of_disjoint {α : Type} {p q : α → Bool} {f : α → α} (apart : ∀ a, p a = true → q a = false)
    (stays : ∀ a, p a = true → q (f a) = false) (l : List α) : (modifyFirst p f l).find? q = l.find? q := by
  induction l with
  | nil => rfl
  | cons a rest ih =>
    unfold modifyFirst
    by_cases here : p a = true
    · rw [if_pos here, List.find?_cons_of_neg (by simp [stays a here]), List.find?_cons_of_neg (by simp [apart a here])]
    · rw [if_neg here, List.find?_cons, List.find?_cons, ih]

theorem scheduleOf_named {s : State} {tag : Word} {index : Nat} {sch : Schedule} (found : scheduleOf s tag index = some sch) :
    sch.tag = tag ∧ sch.index = index := by
  simpa [isScheduleOf] using List.find?_some found

/-- A schedule with the entry of a station changed. -/
def withEntry (i : Station) (f : ScheduleEntry → ScheduleEntry) (sch : Schedule) : Schedule :=
  { sch with entries := modifyFirst (fun e => e.station == i) f sch.entries }

theorem changeEntry_schedules (s : State) (tag : Word) (index : Nat) (i : Station) (f : ScheduleEntry → ScheduleEntry) :
    (changeEntry s tag index i f).mr.schedules = modifyFirst (isScheduleOf tag index) (withEntry i f) s.mr.schedules := rfl

theorem scheduleOf_changeEntry (s : State) (tag : Word) (index : Nat) (i : Station) (f : ScheduleEntry → ScheduleEntry) :
    scheduleOf (changeEntry s tag index i f) tag index = (scheduleOf s tag index).map (withEntry i f) :=
  find?_modifyFirst (p := isScheduleOf tag index) (f := withEntry i f) (fun _ here => here) s.mr.schedules

theorem scheduleOf_changeEntry_other (s : State) (tag : Word) (index : Nat) (i : Station) (f : ScheduleEntry → ScheduleEntry)
    {tag' : Word} {index' : Nat} (other : tag' ≠ tag ∨ index' ≠ index) :
    scheduleOf (changeEntry s tag index i f) tag' index' = scheduleOf s tag' index' := by
  have apart (sch : Schedule) (here : isScheduleOf tag index sch = true) : isScheduleOf tag' index' sch = false := by
    simp only [isScheduleOf, Bool.and_eq_true, beq_iff_eq] at here
    obtain ⟨rfl, rfl⟩ := here
    rw [isScheduleOf, Bool.and_eq_false_iff]
    exact other.imp (fun h => by simpa using h.symm) fun h => by simpa using h.symm
  exact find?_modifyFirst_of_disjoint (f := withEntry i f) apart apart s.mr.schedules

theorem entryOf_withEntry (sch : Schedule) (i : Station) {f : ScheduleEntry → ScheduleEntry}
    (keeps : ∀ e, (f e).station = e.station) : entryOf (withEntry i f sch) i = (entryOf sch i).map f :=
  find?_modifyFirst (fun e here => by simpa [keeps] using here) sch.entries

theorem entryOf_withEntry_other (sch : Schedule) {i j : Station} (other : j ≠ i) {f : ScheduleEntry → ScheduleEntry}
    (keeps : ∀ e, (f e).station = e.station) : entryOf (withEntry i f sch) j = entryOf sch j := by
  have apart (e : ScheduleEntry) (here : (e.station == i) = true) : (e.station == j) = false := by
    rw [beq_iff_eq] at here
    simpa [here] using other.symm
  exact find?_modifyFirst_of_disjoint apart (fun e here => by rw [keeps]; exact apart e here) sch.entries

/-- A state with the schedules of a changed entry is in the relation that the statements use. -/
theorem entryBecomes_of_changeEntry {s t : State} {tag : Word} {index : Nat} {i : Station} {f : ScheduleEntry → ScheduleEntry}
    {sch : Schedule} {e : ScheduleEntry} (found : scheduleOf s tag index = some sch) (entry : entryOf sch i = some e)
    (keeps : ∀ e, (f e).station = e.station) (schedules : t.mr.schedules = (changeEntry s tag index i f).mr.schedules) :
    EntryBecomes s t sch i (f e) := by
  obtain ⟨rfl, rfl⟩ := scheduleOf_named found
  have same (tag : Word) (index : Nat) :
      scheduleOf t tag index = scheduleOf (changeEntry s sch.tag sch.index i f) tag index := by
    rw [scheduleOf, schedules, scheduleOf]
  refine ⟨⟨(withEntry i f sch).entries, ?_, modifyFirst_map _ _ _ keeps _, ?_,
    fun j other => ?_⟩, fun tag' index' other => ?_, ?_⟩
  · rw [same, scheduleOf_changeEntry, found]
    rfl
  · have here := entryOf_withEntry sch i keeps
    rw [entry] at here
    exact here
  · exact entryOf_withEntry_other sch other keeps
  · rw [same, scheduleOf_changeEntry_other s sch.tag sch.index i f other]
  · rw [schedules, changeEntry_schedules]
    exact modifyFirst_map _ (withEntry i f) _ (fun _ => rfl) _

/-! ### Edges and windows (R104 to R106) -/

theorem exec_markEdge (s : State) : exec .markEdge s = .next (if s.pins.resetAsserted then s else readEdge s) := rfl

theorem readEdge_opened {s : State} {c : CurrentEntry} {sch : Schedule} (opened : s.mr.reader = .opened)
    (current : s.mr.current = some c) (found : scheduleOf s c.tag c.index = some sch) :
    readEdge s = beginEvaluating s c (some ((s.wt.p : Int) - sch.origin - s.prof.readerDistance)) := by
  simp only [readEdge, opened, current, found]

theorem readEdge_shut {s : State} (shut : s.mr.reader ≠ .opened) : readEdge s = s := by
  unfold readEdge
  split
  next opened _ => exact absurd opened shut
  next => rfl

theorem closingNow_iff (s : State) :
    closingNow s = true ↔ s.mr.reader = .opened ∧ ∃ c sch e, s.mr.current = some c ∧
      scheduleOf s c.tag c.index = some sch ∧ entryOf sch c.station = some e ∧ e.closesAt ≤ (s.wt.p : Int) := by
  unfold closingNow
  split
  next c opened current =>
    have bound : ((scheduleOf s c.tag c.index).bind fun sch => entryOf sch c.station) = none ∨
        ∃ sch e, scheduleOf s c.tag c.index = some sch ∧ entryOf sch c.station = some e := by
      cases found : scheduleOf s c.tag c.index with
      | none => exact .inl rfl
      | some sch =>
        cases entry : entryOf sch c.station with
        | none => exact .inl (by simpa using entry)
        | some e => exact .inr ⟨sch, e, rfl, entry⟩
    rcases bound with absent | ⟨sch, e, found, entry⟩
    · rw [absent]
      refine iff_of_false Bool.false_ne_true ?_
      rintro ⟨-, c', sch, e, current', found, entry, -⟩
      rw [current] at current'
      cases current'
      rw [found, Option.bind_some, entry] at absent
      cases absent
    · simp [opened, current, found, entry]
  next shut =>
    refine iff_of_false Bool.false_ne_true ?_
    rintro ⟨opened, c, _, _, current, -⟩
    exact shut c opened current

theorem meetClosing_closes {s : State} {c : CurrentEntry} (now : closingNow s = true) (current : s.mr.current = some c) :
    meetClosing s = beginEvaluating s c none := by
  simp only [meetClosing, now, current, if_true]

/-! ### Openings (R105, R107) -/

theorem mem_openingsHere (s : State) (sch : Schedule) (e : ScheduleEntry) :
    (sch, e) ∈ openingsHere s ↔
      sch ∈ s.mr.schedules ∧ e ∈ sch.entries ∧ e.state = .waiting ∧ e.opensAt ≤ (s.wt.p : Int) := by
  simp [openingsHere, opensNow]

theorem flatMap_sublist {α β : Type} {f g : α → List β} (l : List α) (each : ∀ a, (f a).Sublist (g a)) :
    (l.flatMap f).Sublist (l.flatMap g) := by
  induction l with
  | nil => exact List.Sublist.refl _
  | cons a rest ih => exact (each a).append ih

theorem markPrinted_iff (s : State) (sch : Schedule) (e : ScheduleEntry) :
    markPrinted s sch e = true ↔ ∃ r, 0 ≤ (sch.origin : Int) + e.predicted ∧
      recordAt s ((sch.origin : Int) + e.predicted).toNat = some r ∧ r.tag = sch.tag ∧ inSet r.printed e.station = true := by
  unfold markPrinted recordAtFabric
  by_cases before : (sch.origin : Int) + e.predicted < 0
  · rw [if_pos before]
    simp [before]
  · rw [if_neg before]
    cases record : recordAt s ((sch.origin : Int) + e.predicted).toNat <;> simp [Int.not_lt.1 before]

theorem scheduleComplete_iff (sch : Schedule) :
    scheduleComplete sch = true ↔
      ∀ x ∈ sch.entries, x.state = .found ∨ x.state = .missed ∨ x.state = .skipped ∨ x.state = .dropped := by
  simp [scheduleComplete, entrySettled, or_assoc]

theorem evaluateIfComplete_absent {s : State} {tag : Word} {index : Nat} (absent : scheduleOf s tag index = none) :
    evaluateIfComplete s tag index = s := by
  rw [evaluateIfComplete, absent]

theorem evaluateIfComplete_found {s : State} {tag : Word} {index : Nat} {sch : Schedule}
    (found : scheduleOf s tag index = some sch) :
    evaluateIfComplete s tag index = if scheduleComplete sch then evaluateRepeat s sch else s := by
  rw [evaluateIfComplete, found]

theorem evaluateIfComplete_settled {s : State} {tag : Word} {index : Nat} {sch : Schedule}
    (found : scheduleOf s tag index = some sch)
    (settled : ∀ x ∈ sch.entries, x.state = .found ∨ x.state = .missed ∨ x.state = .skipped ∨ x.state = .dropped) :
    evaluateIfComplete s tag index = evaluateRepeat s sch := by
  rw [evaluateIfComplete_found found, if_pos ((scheduleComplete_iff sch).2 settled)]

theorem evaluateIfComplete_unsettled {s : State} {tag : Word} {index : Nat} {sch : Schedule}
    (found : scheduleOf s tag index = some sch)
    (unsettled : ∃ x ∈ sch.entries, x.state = .waiting ∨ x.state = .opened ∨ x.state = .evaluating) :
    evaluateIfComplete s tag index = s := by
  obtain ⟨x, mem, state⟩ := unsettled
  rw [evaluateIfComplete_found found, if_neg]
  intro complete
  have settled := (scheduleComplete_iff sch).1 complete x mem
  rcases state with h | h | h <;> simp [h] at settled

/-! ### Builds (R102, R103) -/

theorem keyOf_eq_some_iff (m : StationSet) (i : Station) :
    keyOf m = some i ↔ inSet m i = true ∧ ∀ j, j < i → inSet m j = false := by
  have split : ∀ i : Station,
      stationList = stationList.filter (fun j => decide (j < i)) ++ i :: stationList.filter (fun j => decide (i < j)) := by
    decide
  refine (find?_eq_some_of_split (p := fun i => inSet m i) (split i) stationList_nodup).trans (and_congr_right fun _ => ?_)
  simp [mem_stationList]

theorem repeatBegins_iff (s : State) (c : Cursor) :
    repeatBegins s c = true ↔ ∃ r, s.os.table.find? (fun r => r.order.tag == c.tag) = some r ∧
      c.origin + c.index * c.length < r.finish := by
  unfold repeatBegins orderOfTag
  cases s.os.table.find? (fun r => r.order.tag == c.tag) <;> simp

/-- The cursor of an order moved on to its next repeat. -/
def advanceCursor (s : State) (c : Cursor) : State :=
  { s with mr.cursors := modifyFirst (fun x => x.tag == c.tag) (fun x => { x with index := x.index + 1 }) s.mr.cursors }

theorem meetBuild_builds {s : State} {c : Cursor} (now : buildNow s c = true) (begins : repeatBegins s c = true) :
    meetBuild s c = if 8 ≤ s.mr.schedules.length then advanceCursor s c
      else evaluateIfComplete { advanceCursor s c with mr.schedules := s.mr.schedules ++ [buildSchedule s c] } c.tag c.index := by
  simp only [meetBuild, now, begins, Bool.not_true, Bool.false_eq_true, if_false]
  rfl

/-- The order of the entries of a schedule (R103). -/
def EntryBefore (a b : ScheduleEntry) : Prop :=
  a.predicted < b.predicted ∨ a.predicted = b.predicted ∧ a.station < b.station

theorem mem_insertEntry (e x : ScheduleEntry) (l : List ScheduleEntry) : x ∈ insertEntry e l ↔ x = e ∨ x ∈ l := by
  induction l with
  | nil => simp [insertEntry]
  | cons a rest ih =>
    unfold insertEntry
    split
    next => simp only [List.mem_cons, ih]; exact or_left_comm
    next => simp only [List.mem_cons]

theorem insertEntry_sorted {e : ScheduleEntry} {l : List ScheduleEntry} (sorted : l.Pairwise EntryBefore)
    (last : ∀ a ∈ l, a.station < e.station) : (insertEntry e l).Pairwise EntryBefore := by
  induction l with
  | nil => exact List.pairwise_singleton _ _
  | cons a rest ih =>
    obtain ⟨first, others⟩ := List.pairwise_cons.1 sorted
    unfold insertEntry
    split
    next before =>
      refine List.pairwise_cons.2 ⟨fun x mem => ?_, ih others fun x mem => last x (List.mem_cons_of_mem _ mem)⟩
      rcases (mem_insertEntry e x rest).1 mem with rfl | mem
      · rcases lt_or_eq_of_le before with less | equal
        · exact .inl less
        · exact .inr ⟨equal, last a List.mem_cons_self⟩
      · exact first x mem
    next after =>
      have ahead : e.predicted < a.predicted := Int.not_le.1 after
      refine List.pairwise_cons.2 ⟨fun x mem => .inl ?_, sorted⟩
      rcases List.mem_cons.1 mem with rfl | mem
      · exact ahead
      · rcases first x mem with less | ⟨equal, -⟩
        · exact ahead.trans less
        · exact equal ▸ ahead

/-- Entries inserted in ascending station order come out in the order of a schedule. -/
theorem foldl_insertEntry {l acc : List ScheduleEntry} (ascending : l.Pairwise fun a b => a.station < b.station)
    (sorted : acc.Pairwise EntryBefore) (before : ∀ a ∈ acc, ∀ e ∈ l, a.station < e.station) :
    (l.foldl (fun acc e => insertEntry e acc) acc).Pairwise EntryBefore ∧
      ∀ x, x ∈ l.foldl (fun acc e => insertEntry e acc) acc ↔ x ∈ l ∨ x ∈ acc := by
  induction l generalizing acc with
  | nil => exact ⟨sorted, fun x => by simp⟩
  | cons e rest ih =>
    obtain ⟨first, others⟩ := List.pairwise_cons.1 ascending
    rw [List.foldl_cons]
    obtain ⟨order, members⟩ := ih (acc := insertEntry e acc) others
      (insertEntry_sorted sorted fun a mem => before a mem e List.mem_cons_self) fun a mem x later => by
        rcases (mem_insertEntry e a acc).1 mem with rfl | mem
        · exact first x later
        · exact before a mem x (List.mem_cons_of_mem _ later)
    refine ⟨order, fun x => ?_⟩
    rw [members, mem_insertEntry, List.mem_cons]
    tauto

theorem buildEntry_eq_some_iff (s : State) (c : Cursor) (i : Station) (e : ScheduleEntry) :
    buildEntry s c i = some e ↔ e.station = i ∧ (s.phase i).settle = none ∧
      e.intended = (c.index * c.length : Nat) + ((s.stationCfg i).markOffset : Int) + (s.phase i).base + (s.phase i).trim ∧
      e.predicted = e.intended + (s.phase i).correction ∧
      e.opensAt = c.origin + e.predicted - s.prof.window + s.prof.readerDistance ∧
      e.closesAt = c.origin + e.predicted + s.prof.window + s.prof.readerDistance ∧
      e.state = (if e.opensAt ≤ (s.wt.p : Int) then .skipped else .waiting) ∧ e.measured = none := by
  unfold buildEntry
  cases settle : (s.phase i).settle with
  | some p => simp
  | none =>
    rw [if_neg (by simp)]
    dsimp only
    rw [Option.some_inj]
    constructor
    · rintro rfl
      exact ⟨rfl, rfl, rfl, rfl, rfl, rfl, rfl, rfl⟩
    · obtain ⟨station, intended, predicted, opensAt, closesAt, state, measured⟩ := e
      rintro ⟨rfl, -, h1, h2, h3, h4, h5, h6⟩
      dsimp only at h1 h2 h3 h4 h5 h6
      subst h1 h2 h3 h4 h6
      rw [h5]

theorem buildEntries_ascending (s : State) (c : Cursor) :
    ((stationList.filter fun i => inSet c.set i).filterMap (buildEntry s c)).Pairwise fun a b => a.station < b.station := by
  have stations : stationList.Pairwise (· < ·) := by decide
  refine List.Pairwise.filterMap (R := (· < ·)) (buildEntry s c) (fun i j less a first b second => ?_) (stations.filter _)
  rw [((buildEntry_eq_some_iff s c i a).1 first).1, ((buildEntry_eq_some_iff s c j b).1 second).1]
  exact less

theorem buildSchedule_entries (s : State) (c : Cursor) :
    (buildSchedule s c).entries.Pairwise EntryBefore ∧
      ∀ e, e ∈ (buildSchedule s c).entries ↔ inSet c.set e.station = true ∧ buildEntry s c e.station = some e := by
  obtain ⟨sorted, members⟩ := foldl_insertEntry (acc := []) (buildEntries_ascending s c) List.Pairwise.nil
    fun a mem => by cases mem
  refine ⟨sorted, fun e => (members e).trans ?_⟩
  simp only [List.mem_filterMap, List.mem_filter, mem_stationList, true_and, List.not_mem_nil, or_false]
  refine ⟨fun ⟨i, member, entry⟩ => ?_, fun ⟨member, entry⟩ => ⟨e.station, member, entry⟩⟩
  obtain rfl := ((buildEntry_eq_some_iff s c i e).1 entry).1
  exact ⟨member, entry⟩

/-- Settles O19: edge and windows by the entry they change, openings and builds by their cases. -/
theorem edgeFindsTheOpenWindow : Obligations.EdgeFindsTheOpenWindow := by
  unfold Obligations.EdgeFindsTheOpenWindow
  intro s
  refine ⟨fun c sch reset opened current found => ⟨beginEvaluating s c
    (some ((s.wt.p : Int) - sch.origin - s.prof.readerDistance)), ?_, ?_, fun e entry => ?_, rfl⟩, fun shut => ?_,
    ⟨closingNow_iff s, fun early => ?_, fun c sch e opened current found entry closes => ?_⟩,
    ⟨mem_openingsHere s, ?_, rfl⟩, fun sch now e x printed found entry printedIff => ?_,
    fun tag index => ⟨evaluateIfComplete_absent, fun sch found =>
      ⟨evaluateIfComplete_settled found, evaluateIfComplete_unsettled found⟩⟩, keyOf_eq_some_iff, rfl, fun c => ?_⟩
  · rw [exec_markEdge, if_neg (by simp [reset]), readEdge_opened opened current found]
  · have changed := scheduleOf_changeEntry s c.tag c.index c.station fun e =>
      { e with state := .evaluating, measured := some ((s.wt.p : Int) - sch.origin - s.prof.readerDistance) }
    rw [found] at changed
    refine (congrArg (fun o => Option.bind o fun x => entryOf x c.station) changed).trans ?_
    exact entryOf_withEntry sch c.station fun _ => rfl
  · exact entryBecomes_of_changeEntry (f := fun e =>
      { e with state := .evaluating, measured := some ((s.wt.p : Int) - sch.origin - s.prof.readerDistance) })
      found entry (fun _ => rfl) rfl
  · rw [exec_markEdge]
    rcases shut with asserted | shut
    · rw [if_pos asserted]
    · rw [readEdge_shut shut, ite_self]
  · simp [meetClosing, early]
  · have now := (closingNow_iff s).2 ⟨opened, c, sch, e, current, found, entry, closes⟩
    refine ⟨_, meetClosing_closes now current, ?_, rfl⟩
    exact entryBecomes_of_changeEntry (f := fun e => { e with state := .evaluating, measured := none })
      found entry (fun _ => rfl) rfl
  · exact flatMap_sublist _ fun sch => List.filter_sublist.map _
  · have marked : markPrinted s sch e = printed := Bool.eq_iff_iff.2 ((markPrinted_iff s sch e).trans printedIff.symm)
    have becomes (st : EntryState) (u : State)
        (schedules : u.mr.schedules =
          (changeEntry s sch.tag sch.index e.station fun e => { e with state := st }).mr.schedules) :
        EntryBecomes s u now e.station { x with state := st } :=
      entryBecomes_of_changeEntry (f := fun e => { e with state := st }) found entry (fun _ => rfl) schedules
    unfold testOpening
    dsimp only
    rw [marked]
    refine ⟨fun blank => ⟨_, becomes .dropped _ rfl, rfl, ?_⟩, fun mark idle => ?_,
      fun mark busy => ⟨_, becomes .skipped _ rfl, rfl, ?_⟩⟩
    · rw [blank]
      rfl
    · refine ⟨changeEntry { s with mr.reader := .opened, mr.current := some ⟨sch.tag, sch.index, e.station⟩ } sch.tag sch.index
        e.station fun e => { e with state := .opened }, becomes .opened _ rfl, rfl, ?_⟩
      simp only [mark, idle, Bool.not_true, Bool.false_eq_true, if_false, beq_self_eq_true, if_true]
    · have other : (s.mr.reader == .idle) = false := by simpa using busy
      simp only [mark, other, Bool.not_true, Bool.false_eq_true, if_false]
  · refine ⟨decide_eq_true_iff, repeatBegins_iff s c, fun early => ?_, fun now past => ?_, fun u now begins value => ?_,
      _, rfl, ?_⟩
    · simp [meetBuild, early]
    · simp [meetBuild, now, past]
    · have advanced : advanceCursor s c = u := value.symm
      rw [meetBuild_builds now begins, advanced]
      exact ⟨fun full => if_pos full, fun room => if_neg (Nat.not_le.2 room)⟩
    · obtain ⟨sorted, members⟩ := buildSchedule_entries s c
      refine ⟨sorted, fun e => (members e).trans ?_⟩
      rw [buildEntry_eq_some_iff]
      simp only [true_and]

end Sys2Proof.Machine
end

section
/-! PROOF. The evaluation timer (R107), misses (R108) and repeat evaluations (R109 to R111), with a failed proof (R42). -/

namespace Sys2Proof.Machine

/-! ### What the neighbours of the mark reader touch -/

/-- `t` is `s` but for the Phase Unit and a report posted. -/
def PhaseWork (s t : State) : Prop := ∃ p x e n, t = { s with pu := p, xi := x, events := e, draws := n }

theorem PhaseWork.refl (s : State) : PhaseWork s s := ⟨s.pu, s.xi, s.events, s.draws, rfl⟩

theorem PhaseWork.trans {s t u : State} (a : PhaseWork s t) (b : PhaseWork t u) : PhaseWork s u := by
  obtain ⟨p, x, e, n, first⟩ := a
  obtain ⟨q, y, f, m, second⟩ := b
  exact ⟨q, y, f, m, by rw [second, first]⟩

theorem PhaseWork.of_pu {s t : State} (pu : ∃ p, t = { s with pu := p }) : PhaseWork s t := by
  obtain ⟨p, same⟩ := pu
  exact ⟨p, s.xi, s.events, s.draws, same⟩

theorem PhaseWork.mr {s t : State} (h : PhaseWork s t) : t.mr = s.mr := by
  obtain ⟨p, x, e, n, same⟩ := h
  rw [same]

theorem setPhase_phaseWork (s : State) (i : Station) (p : PhaseStation) : PhaseWork s (s.setPhase i p) := .of_pu ⟨_, rfl⟩

theorem changePhaseOrder_phaseWork (s : State) (tag : Word) (f : PhaseOrder → PhaseOrder) :
    PhaseWork s (changePhaseOrder s tag f) := .of_pu ⟨_, rfl⟩

theorem post_phaseWork (s : State) (b : ReportBody) : PhaseWork s (post s b) := by
  rw [post_eq]
  exact ⟨_, _, _, _, rfl⟩

theorem storeCorrection_phaseWork (s : State) (i : Station) (v : Int) : PhaseWork s (storeCorrection s i v) := by
  unfold storeCorrection
  split
  next => exact .refl s
  next =>
    refine PhaseWork.trans ?_ (setPhase_phaseWork _ i _)
    unfold driveTarget
    split
    next => exact (setPhase_phaseWork s i _).trans (setPhase_phaseWork _ i _)
    next => exact setPhase_phaseWork s i _

theorem applyCorrection_phaseWork (s : State) (i : Station) (tag : Word) (raw e : Int) :
    PhaseWork s (applyCorrection s i tag raw e) := by
  have stored := storeCorrection_phaseWork s i (clampTo s.prof.correctionRange raw)
  unfold applyCorrection
  dsimp only
  split
  next =>
    split
    next => exact stored
    next => exact (stored.trans (setPhase_phaseWork _ i _)).trans (post_phaseWork _ _)
  next => exact stored.trans (setPhase_phaseWork _ i _)

theorem joinOrder_phaseWork (s : State) (i : Station) (o : PhaseOrder) : PhaseWork s (joinOrder s i o) := by
  unfold joinOrder
  split
  next => exact (changePhaseOrder_phaseWork s _ _).trans (setPhase_phaseWork _ i _)
  next => exact .refl s

theorem capture_phaseWork (s : State) (i : Station) (o : PhaseOrder) (index : Nat) (e : Int) :
    PhaseWork s (capture s i o index e) := by
  unfold capture refuseCapture
  split
  next => exact (setPhase_phaseWork s i _).trans (applyCorrection_phaseWork _ i _ _ _)
  next =>
    split
    next => exact .refl s
    next => exact (changePhaseOrder_phaseWork s _ _).trans (post_phaseWork _ _)

theorem track_phaseWork (s : State) (i : Station) (tag : Word) (e : Int) : PhaseWork s (track s i tag e) := by
  unfold track
  split
  next => exact .refl s
  next => exact applyCorrection_phaseWork s i _ _ _

theorem correctStation_phaseWork (tag : Word) (index : Nat) (s : State) (named : Station × Int) :
    PhaseWork s (correctStation tag index s named) := by
  unfold correctStation
  split
  next => exact .refl s
  next o _ =>
    split
    next => exact .refl s
    next =>
      dsimp only
      split
      next => exact (joinOrder_phaseWork s _ o).trans (track_phaseWork _ _ _ _)
      next => exact (joinOrder_phaseWork s _ o).trans (capture_phaseWork _ _ _ _ _)

theorem correctStations_phaseWork (tag : Word) (index : Nat) (errors : List (Station × Int)) (s : State) :
    PhaseWork s (errors.foldl (correctStation tag index) s) :=
  foldl_keeps (P := PhaseWork s) (fun t e h => h.trans (correctStation_phaseWork tag index t e)) errors (.refl s)

/-! ### The end of an order computed again (R31, R40) -/

theorem startRead_eq (s : State) (t : Transaction) (st : NextStatus) : ∃ o x,
    startRead s t st = { s with os := o, xi := { s.xi with queue := x } } := by
  unfold startRead
  split
  next => exact ⟨_, s.xi.queue, rfl⟩
  next => exact ⟨_, _, rfl⟩

theorem startSlotRead_eq (s : State) : ∃ o x, startSlotRead s = { s with os := o, xi := { s.xi with queue := x } } := by
  by_cases suspended : s.xi.suspended = true
  · rw [startSlotRead_suspended suspended]
    exact ⟨_, s.xi.queue, rfl⟩
  · rw [startSlotRead_open suspended]
    exact ⟨_, _, rfl⟩

theorem atConfirmPoint_eq (s : State) : ∃ o x, atConfirmPoint s = { s with os := o, xi := { s.xi with queue := x } } := by
  unfold atConfirmPoint
  split
  next => exact startRead_eq s _ _
  next => exact startSlotRead_eq s
  next => exact ⟨_, s.xi.queue, rfl⟩
  all_goals exact ⟨s.os, s.xi.queue, rfl⟩

theorem reckonEnd_eq (s : State) (r : InFlight) : ∃ o c x,
    reckonEnd s r = { s with os := o, cp := c, xi := { s.xi with queue := x } } := by
  unfold reckonEnd
  dsimp only
  split
  next => exact ⟨_, s.cp, s.xi.queue, rfl⟩
  next =>
    split
    next =>
      obtain ⟨o, x, confirmed⟩ := atConfirmPoint_eq (moveEnd s { r with finish := leastEnd r })
      rw [confirmed]
      exact ⟨_, _, _, rfl⟩
    next => exact ⟨_, _, s.xi.queue, rfl⟩

theorem reckonEnd_mr (s : State) (r : InFlight) : (reckonEnd s r).mr = s.mr := by
  obtain ⟨o, c, x, moved⟩ := reckonEnd_eq s r
  rw [moved]

theorem failProof_mr (s : State) (r : InFlight) (index : Nat) (station : Station) : (failProof s r index station).mr = s.mr := by
  have raised := (raiseCause_lineOnly (changeOrder s r.slot fun _ => withFailure r index station) .order none).mr
  unfold failProof
  dsimp only
  split
  next => exact (reckonEnd_mr _ _).trans raised
  next => exact raised

theorem compareProof_mr (s : State) (tag : Word) (index : Nat) (w : Option (Station × Nat)) :
    (compareProof s tag index w).mr = s.mr := by
  unfold compareProof
  split
  next =>
    split
    next => exact failProof_mr s _ _ _
    next => rfl
  next => rfl

theorem raiseWorst_mr (s : State) (tag : Word) (w : Option (Station × Nat)) : (raiseWorst s tag w).mr = s.mr := by
  unfold raiseWorst
  split
  next => split <;> rfl
  next => rfl

theorem checkTolerance_mr (s : State) (sch : Schedule) (errors : List (Station × Int)) :
    (checkTolerance s sch errors).mr = s.mr := by
  unfold checkTolerance
  split <;> rfl

theorem evaluateReferenced_mr (s : State) (sch : Schedule) (d : Int) : (evaluateReferenced s sch d).mr = s.mr := by
  unfold evaluateReferenced
  dsimp only
  rw [compareProof_mr, raiseWorst_mr, (correctStations_phaseWork _ _ _ _).mr, checkTolerance_mr]

/-- A repeat evaluation takes its schedule out of the list; nothing else of the reader changes (R111). -/
theorem evaluateRepeat_mr (s : State) (sch : Schedule) :
    (evaluateRepeat s sch).mr =
      { s.mr with schedules := s.mr.schedules.filter fun x => !isScheduleOf sch.tag sch.index x } := by
  unfold evaluateRepeat
  cases keyDeviation sch with
  | none => rfl
  | some d =>
    dsimp only
    rw [evaluateReferenced_mr]

/-! ### Misses (R108) -/

theorem overlaps_iff (sch : Schedule) (r : Segment) :
    overlaps sch r = true ↔ r.tag = sch.tag ∧ r.start < sch.origin + (sch.index + 1) * sch.length ∧
      sch.origin + sch.index * sch.length < r.pEnd := by
  simp [overlaps, and_assoc]

/-- The register defect on the records of a repeat, as a change of the map (R108, R110). -/
def defectMap (sch : Schedule) (l : List Segment) : List Segment :=
  l.map fun r => if r.tag = sch.tag ∧ r.start < sch.origin + (sch.index + 1) * sch.length ∧
      sch.origin + sch.index * sch.length < r.pEnd then { r with registerDefect := true } else r

theorem setRegisterDefect_eq (s : State) (sch : Schedule) :
    setRegisterDefect s sch = { s with wt.map := defectMap sch s.wt.map } := by
  have same : (fun r : Segment => if overlaps sch r then { r with registerDefect := true } else r) =
      fun r => if r.tag = sch.tag ∧ r.start < sch.origin + (sch.index + 1) * sch.length ∧
        sch.origin + sch.index * sch.length < r.pEnd then { r with registerDefect := true } else r :=
    funext fun r => if_congr (overlaps_iff sch r) rfl rfl
  unfold setRegisterDefect defectMap
  dsimp only
  rw [same]

/-- A register defect hides no record and changes no serial. -/
theorem serialOr0_defect (s : State) (sch : Schedule) (p : Nat) :
    serialOr0 (recordAt { s with wt.map := defectMap sch s.wt.map } p) = serialOr0 (recordAt s p) := by
  have serials (x : Option Segment) (f : Segment → Segment) (keeps : ∀ r, (f r).serial = r.serial) :
      serialOr0 (x.map f) = serialOr0 x := by
    cases x with
    | none => rfl
    | some r => exact keeps r
  have covers (r : Segment) : Segment.covers (if r.tag = sch.tag ∧ r.start < sch.origin + (sch.index + 1) * sch.length ∧
      sch.origin + sch.index * sch.length < r.pEnd then { r with registerDefect := true } else r) p = r.covers p := by
    split <;> rfl
  unfold recordAt defectMap
  dsimp only
  rw [List.find?_map, serials _ _ fun r => by split <;> rfl]
  refine congrArg (fun test => serialOr0 (List.find? test s.wt.map)) (funext fun r => ?_)
  exact covers r

/-- MARK_LOST (R108). -/
def markLostReport (s : State) (sch : Schedule) (e : ScheduleEntry) : Posting :=
  { kind := .markLost, tag := sch.tag, station := wordOfNat (e.station.val + 1),
    serial := wordOfNat
      (if (sch.origin : Int) + e.predicted < 0 then 0
      else serialOr0 (recordAt s ((sch.origin : Int) + e.predicted).toNat)),
    clock := s.clock, first := wordOfNat sch.index, second := wordOfNat s.prof.missLimit }

theorem missEntry_below {s : State} {sch : Schedule} {e : ScheduleEntry}
    (below : s.mr.misses.get e.station + 1 < s.prof.missLimit) :
    missEntry s sch e = setMisses { s with wt.map := defectMap sch s.wt.map } e.station (s.mr.misses.get e.station + 1) := by
  unfold missEntry
  rw [setRegisterDefect_eq]
  exact if_neg (Nat.not_le.2 below)

theorem missEntry_atLimit {s : State} {sch : Schedule} {e : ScheduleEntry}
    (limit : s.prof.missLimit ≤ s.mr.misses.get e.station + 1) :
    missEntry s sch e = uncapture (afterReport (setMisses { s with wt.map := defectMap sch s.wt.map } e.station 0)
      (markLostReport s sch e)) e.station := by
  have serial : serialOr0 (recordAtFabric { s with wt.map := defectMap sch s.wt.map } sch.origin e.predicted) =
      if (sch.origin : Int) + e.predicted < 0 then 0
      else serialOr0 (recordAt s ((sch.origin : Int) + e.predicted).toNat) := by
    unfold recordAtFabric
    split
    next => rfl
    next => exact serialOr0_defect s sch _
  unfold missEntry
  rw [setRegisterDefect_eq]
  dsimp only
  rw [if_pos limit, post_eq, markLostReport, ← serial]
  rfl

theorem setMisses_get (s : State) (i j : Station) (n : Nat) :
    (setMisses s i n).mr.misses.get j = if j = i then n else s.mr.misses.get j := by
  simp only [setMisses, Vector.get_eq_getElem]
  by_cases same : j = i
  · subst same
    simp
  · have other : i.val ≠ j.val := fun h => same (Fin.ext h.symm)
    simp [same, other]

/-- What a miss does (R108). -/
theorem missEntry_work (s : State) (sch : Schedule) (e : ScheduleEntry) :
    ∃ t, missEntry s sch e = t ∧ t.mr = { s.mr with misses := t.mr.misses } ∧
      t.mr.misses.get e.station =
        (if s.mr.misses.get e.station + 1 < s.prof.missLimit then s.mr.misses.get e.station + 1 else 0) ∧
      (∀ j, j ≠ e.station → t.mr.misses.get j = s.mr.misses.get j) ∧
      t = { s with
        wt := { s.wt with map := t.wt.map }
        mr := t.mr
        pu := { s.pu with stations := t.pu.stations }
        xi := t.xi
        events := if s.mr.misses.get e.station + 1 < s.prof.missLimit then s.events else eventsAfterReport s
        draws := if s.mr.misses.get e.station + 1 < s.prof.missLimit then s.draws else s.draws + 1 } := by
  refine ⟨_, rfl, ?_⟩
  by_cases below : s.mr.misses.get e.station + 1 < s.prof.missLimit
  · rw [missEntry_below below, if_pos below, if_pos below, if_pos below]
    exact ⟨rfl, (setMisses_get _ _ _ _).trans (if_pos rfl), fun j other => (setMisses_get _ _ _ _).trans (if_neg other), rfl⟩
  · rw [missEntry_atLimit (Nat.not_lt.1 below), if_neg below, if_neg below, if_neg below]
    exact ⟨rfl, (setMisses_get _ _ _ _).trans (if_pos rfl), fun j other => (setMisses_get _ _ _ _).trans (if_neg other), rfl⟩

theorem missEntry_map (s : State) (sch : Schedule) (e : ScheduleEntry) :
    (missEntry s sch e).wt.map = defectMap sch s.wt.map := by
  by_cases below : s.mr.misses.get e.station + 1 < s.prof.missLimit
  · rw [missEntry_below below]
    rfl
  · rw [missEntry_atLimit (Nat.not_lt.1 below)]
    rfl

/-! ### The evaluation timer (R107) -/

theorem evaluateIfComplete_mr (s : State) (tag : Word) (index : Nat) :
    ∃ l, (evaluateIfComplete s tag index).mr = { s.mr with schedules := l } := by
  unfold evaluateIfComplete
  split
  next sch _ =>
    split
    next => exact ⟨_, evaluateRepeat_mr s sch⟩
    next => exact ⟨_, rfl⟩
  next => exact ⟨_, rfl⟩

theorem exec_evaluationTimerExpiry (s : State) : exec .evaluationTimerExpiry s = .next (evaluationExpiry s) := rfl

theorem evaluationExpiry_current {s : State} {c : CurrentEntry}
    (due : timerDue s.mr.timer (s.prof.evaluationTime / 1000) s.clock = true) (current : s.mr.current = some c) :
    evaluationExpiry s = evaluateIfComplete (idleReader (settleEntry s c)) c.tag c.index := by
  rw [evaluationExpiry, if_pos due, current]

theorem settleEntry_found {s : State} {c : CurrentEntry} {sch : Schedule} {e : ScheduleEntry}
    (found : scheduleOf s c.tag c.index = some sch) (entry : entryOf sch c.station = some e)
    (read : e.measured.isSome = true) :
    settleEntry s c =
      setMisses (changeEntry s c.tag c.index c.station fun e => { e with state := .found }) c.station 0 := by
  rw [settleEntry, found]
  dsimp only
  rw [entry]
  exact if_pos read

theorem settleEntry_missed {s : State} {c : CurrentEntry} {sch : Schedule} {e : ScheduleEntry}
    (found : scheduleOf s c.tag c.index = some sch) (entry : entryOf sch c.station = some e)
    (unread : e.measured = none) :
    settleEntry s c =
      missEntry (changeEntry s c.tag c.index c.station fun e => { e with state := .missed }) sch e := by
  rw [settleEntry, found]
  dsimp only
  rw [entry]
  dsimp only
  rw [unread]
  exact if_neg Bool.false_ne_true

/-- The state of a settled entry (R107). -/
def settledState (e : ScheduleEntry) : EntryState := if e.measured.isSome then .found else .missed

/-- The schedule list with the current entry settled, and nothing else changed. -/
def withSettled (s : State) (c : CurrentEntry) (e : ScheduleEntry) : State :=
  changeEntry s c.tag c.index c.station fun x => { x with state := settledState e }

theorem settleEntry_read {s : State} {c : CurrentEntry} {sch : Schedule} {e : ScheduleEntry}
    (found : scheduleOf s c.tag c.index = some sch) (entry : entryOf sch c.station = some e)
    (read : e.measured.isSome = true) :
    settleEntry s c = setMisses (withSettled s c e) c.station 0 := by
  rw [settleEntry_found found entry read, withSettled, settledState, if_pos read]

theorem settleEntry_unread {s : State} {c : CurrentEntry} {sch : Schedule} {e : ScheduleEntry}
    (found : scheduleOf s c.tag c.index = some sch) (entry : entryOf sch c.station = some e)
    (unread : e.measured = none) :
    settleEntry s c = missEntry (withSettled s c e) sch e := by
  rw [settleEntry_missed found entry unread, withSettled, settledState, unread]
  rfl

/-- A settling entry changes the miss counts alone of the reader. -/
theorem settleEntry_mr {s : State} {c : CurrentEntry} {sch : Schedule} {e : ScheduleEntry}
    (found : scheduleOf s c.tag c.index = some sch) (entry : entryOf sch c.station = some e) :
    ∃ m, (settleEntry s c).mr = { (withSettled s c e).mr with misses := m } ∧
      (∀ j, j ≠ c.station → m.get j = s.mr.misses.get j) ∧
      (e.measured.isSome = true → m.get c.station = 0) ∧
      (e.measured = none → m.get c.station =
        if s.mr.misses.get c.station + 1 < s.prof.missLimit then s.mr.misses.get c.station + 1 else 0) := by
  have here : e.station = c.station := by simpa using List.find?_some entry
  cases measured : e.measured with
  | some x =>
    have read : e.measured.isSome = true := by rw [measured]; rfl
    rw [settleEntry_read found entry read]
    exact ⟨_, rfl, fun j other => (setMisses_get _ _ _ _).trans (if_neg other),
      fun _ => (setMisses_get _ _ _ _).trans (if_pos rfl), nofun⟩
  | none =>
    rw [settleEntry_unread found entry measured]
    obtain ⟨t, rfl, mr, count, others, -⟩ := missEntry_work (withSettled s c e) sch e
    rw [here] at count others
    exact ⟨_, mr, others, nofun, fun _ => count⟩

/-- Settles O20: the expiry is a settling, the reader idle, and an evaluation of the repeat; each has its effect on the reader
as a lemma, and a miss is taken apart at the miss limit. -/
theorem evaluationTimerSettlesTheReading : Obligations.EvaluationTimerSettlesTheReading := by
  unfold Obligations.EvaluationTimerSettlesTheReading
  intro s
  refine ⟨fun early => ?_, fun c sch e due current found entry => ?_,
    fun sch e => ⟨missEntry_map s sch e, fun below => ?_, fun limit => ?_,
    missEntry_work s sch e⟩⟩
  · rw [exec_evaluationTimerExpiry, evaluationExpiry, ite_timerDue_neg early]
  · obtain ⟨m, settled, others, read, unread⟩ := settleEntry_mr found entry
    have now : scheduleOf (withSettled s c e) c.tag c.index =
        some (withEntry c.station (fun x => { x with state := settledState e }) sch) := by
      rw [withSettled, scheduleOf_changeEntry, found]
      rfl
    have idle : scheduleOf (idleReader (settleEntry s c)) c.tag c.index =
        some (withEntry c.station (fun x => { x with state := settledState e }) sch) := by
      rw [← now]
      have same : (settleEntry s c).mr.schedules = (withSettled s c e).mr.schedules := by rw [settled]
      exact congrArg (List.find? (isScheduleOf c.tag c.index)) same
    have ends := evaluationExpiry_current ((timerDue_iff _ _ _).2 due) current
    obtain ⟨l, reader⟩ := evaluateIfComplete_mr (idleReader (settleEntry s c)) c.tag c.index
    have after : (evaluationExpiry s).mr =
        { (withSettled s c e).mr with
          misses := m, schedules := l, reader := .idle, current := none, timer := .stopped } := by
      have idled : (idleReader (settleEntry s c)).mr =
          { (settleEntry s c).mr with reader := .idle, current := none, timer := .stopped } := rfl
      rw [ends, reader, idled, settled]
    refine ⟨_, rfl, (evaluationExpiry_closed board_calm s).undisturbed, ?_, ?_, ?_, ?_, ?_, withSettled s c e, settleEntry s c,
      idleReader (settleEntry s c), _,
      entryBecomes_of_changeEntry (f := fun x => { x with state := settledState e }) found entry (fun _ => rfl) rfl,
      rfl, now, fun isRead => ⟨?_, ?_, ?_⟩,
      settleEntry_unread found entry, rfl, fun complete => ends.trans (evaluateIfComplete_settled idle complete),
      fun waiting => ends.trans (evaluateIfComplete_unsettled idle waiting)⟩
    · rw [after]
      exact ⟨rfl, rfl, rfl, rfl⟩
    · rw [after]
      exact others
    · rw [after]
      exact read
    · rw [after]
      exact fun missed below => (unread missed).trans (if_pos below)
    · rw [after]
      exact fun missed limit => (unread missed).trans (if_neg (Nat.not_lt.2 limit))
    · rw [settleEntry_read found entry isRead]
      rfl
    · rw [settled]
      exact read isRead
    · rw [settled]
      exact others
  · rw [missEntry_below below]
    exact ⟨rfl, rfl⟩
  · rw [missEntry_atLimit limit]
    exact ⟨State.setPhase_phase_self _ _ _, fun j other => State.setPhase_phase_of_ne _ _ _ _ other.symm, rfl⟩

/-! ### Deviations and relative errors (R109) -/

theorem stationDeviation_iff (sch : Schedule) (i : Station) (d : Int) :
    stationDeviation sch i = some d ↔
      ∃ e x, entryOf sch i = some e ∧ e.state = .found ∧ e.measured = some x ∧ d = x - e.intended := by
  have ofEntry (e : ScheduleEntry) :
      deviationOf e = some d ↔ e.state = .found ∧ ∃ x, e.measured = some x ∧ d = x - e.intended := by
    unfold deviationOf
    by_cases here : e.state = .found
    · simp [here, eq_comm]
    · simp [here]
  rw [stationDeviation, Option.bind_eq_some_iff]
  simp only [ofEntry]
  exact ⟨fun ⟨e, entry, state, x, read, dev⟩ => ⟨e, x, entry, state, read, dev⟩,
    fun ⟨e, x, entry, state, read, dev⟩ => ⟨e, entry, state, x, read, dev⟩⟩

theorem keyDeviation_iff (sch : Schedule) (d : Int) :
    keyDeviation sch = some d ↔ ∃ i e x, sch.key = some i ∧ entryOf sch i = some e ∧ e.state = .found ∧
      e.measured = some x ∧ d = x - e.intended := by
  rw [keyDeviation, Option.bind_eq_some_iff]
  simp only [stationDeviation_iff]
  exact ⟨fun ⟨i, key, e, x, rest⟩ => ⟨i, e, x, key, rest⟩, fun ⟨i, e, x, key, rest⟩ => ⟨i, key, e, x, rest⟩⟩

theorem mem_relativeErrors (sch : Schedule) (dKey : Int) (i : Station) (err : Int) :
    (i, err) ∈ relativeErrors sch dKey ↔ ∃ e x, entryOf sch i = some e ∧ e.state = .found ∧
      e.measured = some x ∧ err = x - e.intended - dKey := by
  have named : (i, err) ∈ relativeErrors sch dKey ↔ ∃ d, stationDeviation sch i = some d ∧ err = d - dKey := by
    simp only [relativeErrors, List.mem_filterMap, Option.map_eq_some_iff, Prod.mk.injEq]
    exact ⟨fun ⟨_, _, d, dev, same, value⟩ => ⟨d, same ▸ dev, value.symm⟩,
      fun ⟨d, dev, value⟩ => ⟨i, mem_stationList i, d, dev, rfl, value.symm⟩⟩
  rw [named]
  simp only [stationDeviation_iff]
  exact ⟨fun ⟨d, ⟨e, x, entry, state, read, dev⟩, value⟩ => ⟨e, x, entry, state, read, dev ▸ value⟩,
    fun ⟨e, x, entry, state, read, value⟩ => ⟨_, ⟨e, x, entry, state, read, rfl⟩, value⟩⟩

theorem stationList_ascends : stationList.Pairwise fun i j => i < j := by decide

theorem relativeErrors_ascend (sch : Schedule) (dKey : Int) :
    (relativeErrors sch dKey).Pairwise fun a b => a.1 < b.1 := by
  refine List.Pairwise.filterMap _ (fun i j lt a ha b hb => ?_) stationList_ascends
  obtain ⟨_, -, rfl⟩ := Option.map_eq_some_iff.1 ha
  obtain ⟨_, -, rfl⟩ := Option.map_eq_some_iff.1 hb
  exact lt

/-! ### The worst error (R42, R46) -/

/-- What the worst error of a list is: none of an empty one, else the greatest magnitude, at its lowest station. -/
def IsWorst (errors : List (Station × Int)) (worst : Option (Station × Nat)) : Prop :=
  (worst = none ↔ errors = []) ∧
    ∀ i w, worst = some (i, w) → (∃ e, (i, e) ∈ errors ∧ e.natAbs = w) ∧
      ∀ j e, (j, e) ∈ errors → e.natAbs < w ∨ e.natAbs = w ∧ i ≤ j

theorem worstOf_append (errors : List (Station × Int)) (last : Station × Int) :
    worstOf (errors ++ [last]) =
      match worstOf errors with
      | some (i, w) => if w < last.2.natAbs then some (last.1, last.2.natAbs) else some (i, w)
      | none => some (last.1, last.2.natAbs) := by
  rw [worstOf, List.foldl_append, ← worstOf]
  cases worstOf errors <;> rfl

theorem isWorst_worstOf (errors : List (Station × Int)) (ascend : errors.Pairwise fun a b => a.1 < b.1) :
    IsWorst errors (worstOf errors) := by
  induction errors using List.reverseRecOn with
  | nil => exact ⟨⟨fun _ => rfl, fun _ => rfl⟩, nofun⟩
  | append_singleton l last ih =>
    obtain ⟨before, -, after⟩ := List.pairwise_append.1 ascend
    have later (j : Station) (e : Int) (mem : (j, e) ∈ l) : j < last.1 := after _ mem _ (List.mem_singleton_self last)
    obtain ⟨empty, greatest⟩ := ih before
    rw [worstOf_append]
    cases best : worstOf l with
    | none =>
      obtain rfl := empty.1 best
      refine ⟨by simp, fun i w is => ?_⟩
      obtain ⟨rfl, rfl⟩ := Prod.mk.inj (Option.some.inj is)
      refine ⟨⟨last.2, by simp, rfl⟩, fun j e mem => ?_⟩
      obtain rfl : (j, e) = last := by simpa using mem
      exact .inr ⟨rfl, le_refl _⟩
    | some found =>
      obtain ⟨i₀, w₀⟩ := found
      obtain ⟨⟨e₀, mem₀, rfl⟩, most⟩ := greatest i₀ w₀ best
      dsimp only
      split
      next more =>
        refine ⟨by simp, fun i w is => ?_⟩
        obtain ⟨rfl, rfl⟩ := Prod.mk.inj (Option.some.inj is)
        refine ⟨⟨last.2, by simp, rfl⟩, fun j e mem => ?_⟩
        rcases List.mem_append.1 mem with inside | isLast
        · rcases most j e inside with less | ⟨same, -⟩
          · exact .inl (less.trans more)
          · exact .inl (same ▸ more)
        · obtain rfl : (j, e) = last := by simpa using isLast
          exact .inr ⟨rfl, le_refl _⟩
      next less =>
        refine ⟨by simp, fun i w is => ?_⟩
        obtain ⟨rfl, rfl⟩ := Prod.mk.inj (Option.some.inj is)
        refine ⟨⟨e₀, List.mem_append_left _ mem₀, rfl⟩, fun j e mem => ?_⟩
        rcases List.mem_append.1 mem with inside | isLast
        · exact most j e inside
        · obtain rfl : (j, e) = last := by simpa using isLast
          exact (Nat.lt_or_eq_of_le (Nat.not_lt.1 less)).imp_right fun same => ⟨same, (later _ _ mem₀).le⟩

/-! ### What an evaluation hands over (R110, R111) -/

theorem evaluateRepeat_unreferenced {s : State} {sch : Schedule} (unreferenced : keyDeviation sch = none) :
    evaluateRepeat s sch =
      { s with mr.schedules := s.mr.schedules.filter fun x => !isScheduleOf sch.tag sch.index x } := by
  rw [evaluateRepeat, unreferenced]

theorem evaluateRepeat_referenced {s : State} {sch : Schedule} {d : Int} (referenced : keyDeviation sch = some d) :
    evaluateRepeat s sch =
      { evaluateReferenced s sch d with
        mr.schedules := (evaluateReferenced s sch d).mr.schedules.filter fun x => !isScheduleOf sch.tag sch.index x } := by
  rw [evaluateRepeat, referenced]

theorem checkTolerance_eq (s : State) (sch : Schedule) (errors : List (Station × Int)) :
    checkTolerance s sch errors =
      if ∃ e ∈ errors, s.prof.tolerance < e.2.natAbs then { s with wt.map := defectMap sch s.wt.map } else s := by
  have anyIff : errors.any (fun e => decide (s.prof.tolerance < e.2.natAbs)) = true ↔
      ∃ e ∈ errors, s.prof.tolerance < e.2.natAbs := by simp
  unfold checkTolerance
  rw [setRegisterDefect_eq]
  by_cases above : ∃ e ∈ errors, s.prof.tolerance < e.2.natAbs
  · rw [if_pos above, if_pos (anyIff.2 above)]
  · rw [if_neg above, if_neg (mt anyIff.1 above)]

theorem raiseWorst_some {s : State} {tag : Word} {r : InFlight} (named : orderOfTag s tag = some r) (i : Station) (w : Nat) :
    raiseWorst s tag (some (i, w)) =
      if r.worst < w then changeOrder s r.slot fun r => { r with worst := w, worstStation := stationNo i } else s := by
  unfold raiseWorst
  rw [named]

theorem compareProof_some {s : State} {tag : Word} {r : InFlight} (named : orderOfTag s tag = some r)
    (index : Nat) (i : Station) (w : Nat) :
    compareProof s tag index (some (i, w)) =
      if r.order.kind == .proof && r.proofFailure.isNone && decide (r.order.tolerance < w) then failProof s r index i
      else s := by
  unfold compareProof
  rw [named]

/-- The record of the order of a slot, in the table after a change of it. -/
theorem find?_changeOrder (s : State) (i : Slot) {f : InFlight → InFlight} (keeps : ∀ r, r.slot = i → (f r).slot = i) :
    (changeOrder s i f).os.table.find? (fun x => x.slot == i) = (s.os.table.find? fun x => x.slot == i).map f :=
  find?_modifyFirst (fun r here => by
    rw [beq_iff_eq] at here ⊢
    exact keeps r here) s.os.table

/-! ### A failed proof (R42) -/

/-- The record of the entry order with its end computed again, unless that is fixed (R40). -/
def reckoned (s : State) (r : InFlight) : InFlight :=
  if endFixed s r then r else { r with finish := leastEnd r }

theorem endFixed_iff (s : State) (r : InFlight) : endFixed s r = true ↔ r.ended = true ∨ r.finish ≤ s.wt.p := by
  simp [endFixed]

theorem reckoned_finish {s : State} {r : InFlight} (running : r.ended = false) :
    (reckoned s r).finish = if s.wt.p < r.finish then leastEnd r else r.finish := by
  have ahead : s.wt.p < r.finish ↔ ¬ endFixed s r = true := by
    rw [endFixed_iff, running]
    simp
  unfold reckoned
  by_cases fixed : endFixed s r = true
  · rw [if_pos fixed, if_neg fun lt => ahead.1 lt fixed]
  · rw [if_neg fixed, if_pos (ahead.2 fixed)]

theorem leastEnd_reckoned (s : State) (r : InFlight) : leastEnd (reckoned s r) = leastEnd r := by
  unfold reckoned
  split <;> rfl

theorem reckoned_slot (s : State) (r : InFlight) : (reckoned s r).slot = r.slot := by
  unfold reckoned
  split <;> rfl

theorem atConfirmPoint_barred {s : State} (barred : s.os.status = .barred) : atConfirmPoint s = s := by
  rw [atConfirmPoint, barred]

/-- With the next order barred, the end computed again moves the record and its cuts, and nothing else. -/
theorem reckonEnd_barred {s : State} (r : InFlight) (barred : s.os.status = .barred) : ∃ c,
    reckonEnd s r =
      { s with os.table := modifyFirst (fun x => x.slot == r.slot) (fun _ => reckoned s r) s.os.table, cp := c } := by
  unfold reckonEnd reckoned
  by_cases fixed : endFixed s r = true
  · simp only [fixed, Bool.true_or, if_true]
    exact ⟨s.cp, rfl⟩
  · by_cases same : leastEnd r = r.finish
    · simp only [fixed, same, beq_self_eq_true, Bool.or_true, if_true]
      exact ⟨s.cp, rfl⟩
    · have moves : ¬ (endFixed s r || leastEnd r == r.finish) = true := by simp [fixed, same]
      dsimp only
      rw [if_neg moves, if_neg fixed, atConfirmPoint_barred (s := moveEnd s { r with finish := leastEnd r }) barred, ite_self]
      exact ⟨_, rfl⟩

theorem find?_withFailure {s : State} {r : InFlight} (index : Nat) (i : Station)
    (slot : s.os.table.find? (fun x => x.slot == r.slot) = some r) :
    (changeOrder s r.slot fun _ => withFailure r index i).os.table.find? (fun x => x.slot == r.slot) =
      some (withFailure r index i) := by
  rw [find?_changeOrder s r.slot (f := fun _ => withFailure r index i) fun _ _ => rfl, slot]
  rfl

theorem failProof_eq (s : State) (r : InFlight) (index : Nat) (i : Station) :
    failProof s r index i =
      if s.os.entry = some r.slot && !r.ended then
        reckonEnd (barNext (raiseCause (changeOrder s r.slot fun _ => withFailure r index i) .order none))
          (withProofEnd (withFailure r index i) s.wt.p)
      else raiseCause (changeOrder s r.slot fun _ => withFailure r index i) .order none := by
  have os := (raiseCause_lineOnly (changeOrder s r.slot fun _ => withFailure r index i) .order none).os
  unfold failProof
  dsimp only
  rw [os]
  rfl

/-- The record of a failed proof (R42). -/
theorem failProof_other {s : State} {r : InFlight} (index : Nat) (i : Station) (isOpen : lineOpen s = true)
    (slot : s.os.table.find? (fun x => x.slot == r.slot) = some r) (other : s.os.entry ≠ some r.slot ∨ r.ended = true) :
    ∃ t, failProof s r index i = t ∧ t.lc.line = s.lc.line ∧ t.lc.holds = { s.lc.holds with order := true } ∧
      t.os.table.find? (fun x => x.slot == r.slot) = some (withFailure r index i) ∧
      t.os.status = s.os.status ∧ t.os.copy = s.os.copy := by
  have raised := raiseCause_lineOnly (changeOrder s r.slot fun _ => withFailure r index i) .order none
  have stays : ¬ (s.os.entry = some r.slot && !r.ended) = true := by
    rcases other with entry | ended
    · simp [entry]
    · simp [ended]
  rw [failProof_eq, if_neg stays]
  refine ⟨_, rfl, raiseCause_line _ _ _, ?_, ?_, ?_, ?_⟩
  · refine (raiseCause_holds (changeOrder s r.slot fun _ => withFailure r index i) .order none isOpen).trans ?_
    simp [HoldSet.join, holdOf, changeOrder]
  · rw [raised.os]
    exact find?_withFailure index i slot
  · rw [raised.os]
    rfl
  · rw [raised.os]
    rfl

/-- A failed proof of the entry order bars the next one and computes the end again (R42). -/
theorem failProof_entry {s : State} {r : InFlight} (index : Nat) (i : Station) (isOpen : lineOpen s = true)
    (slot : s.os.table.find? (fun x => x.slot == r.slot) = some r) (entry : s.os.entry = some r.slot)
    (running : r.ended = false) :
    ∃ t, failProof s r index i = t ∧ t.lc.line = s.lc.line ∧ t.lc.holds = { s.lc.holds with order := true } ∧
      t.os.table.find? (fun x => x.slot == r.slot) =
        some (reckoned s (withProofEnd (withFailure r index i) s.wt.p)) ∧
      t.os.status = .barred ∧ t.os.copy = none ∧ (∀ x ∈ t.xi.queue, isOrderRead x = false) ∧
      t.xi.inHand = s.xi.inHand.map discardInHand := by
  have raised := raiseCause_lineOnly (changeOrder s r.slot fun _ => withFailure r index i) .order none
  have line : (raiseCause (changeOrder s r.slot fun _ => withFailure r index i) .order none).lc.line = s.lc.line :=
    raiseCause_line _ _ _
  have holds := raiseCause_holds (changeOrder s r.slot fun _ => withFailure r index i) .order none isOpen
  have ends : (s.os.entry = some r.slot && !r.ended) = true := by simp [entry, running]
  rw [failProof_eq, if_pos ends]
  generalize raiseCause (changeOrder s r.slot fun _ => withFailure r index i) .order none = u at raised line holds
  have same : reckoned (barNext u) (withProofEnd (withFailure r index i) s.wt.p) =
      reckoned s (withProofEnd (withFailure r index i) s.wt.p) := by
    have p := congrArg WebTracker.p raised.wt
    rw [reckoned, reckoned, endFixed, endFixed, show (barNext u).wt.p = s.wt.p from p]
  obtain ⟨c, reckon⟩ := reckonEnd_barred (s := barNext u) (withProofEnd (withFailure r index i) s.wt.p) rfl
  refine ⟨_, reckon, line, ?_, ?_, rfl, rfl, ?_, ?_⟩
  · exact holds.trans (by simp [HoldSet.join, holdOf, changeOrder])
  · have table : u.os.table = (changeOrder s r.slot fun _ => withFailure r index i).os.table := by rw [raised.os]
    have found : u.os.table.find? (fun x => x.slot == r.slot) = some (withFailure r index i) := by
      rw [table]
      exact find?_withFailure index i slot
    have keeps : (reckoned s (withProofEnd (withFailure r index i) s.wt.p)).slot = r.slot := reckoned_slot _ _
    rw [same]
    refine (find?_modifyFirst (fun _ _ => by rw [keeps]; exact beq_self_eq_true _) u.os.table).trans ?_
    rw [found]
    rfl
  · intro x mem
    simpa using (List.mem_filter.1 mem).2
  · exact congrArg (Option.map discardInHand) raised.inHand

/-- Settles O21: each hand-off of an evaluation by its own lemma; a failed proof is a record changed, its cause raised, and,
for the entry order, the next order barred and the end computed again. -/
theorem repeatsAreEvaluated : Obligations.RepeatsAreEvaluated := by
  unfold Obligations.RepeatsAreEvaluated
  intro s sch
  refine ⟨keyDeviation_iff sch, fun dKey => ⟨mem_relativeErrors sch dKey, relativeErrors_ascend sch dKey⟩, isWorst_worstOf,
    evaluateRepeat_unreferenced, ?_, checkTolerance_eq s sch, ?_⟩
  · rintro d errors worst t referenced rfl rfl rfl
    exact ⟨_, rfl, evaluateRepeat_referenced referenced⟩
  · intro r i w named slot
    have order : orderOfTag s sch.tag = some r := named
    refine ⟨fun le => ?_, fun more => ?_, fun none => ?_, fun proof first above isOpen => ?_⟩
    · rw [raiseWorst_some order, if_neg (Nat.not_lt.2 le)]
    · rw [raiseWorst_some order, if_pos more]
      refine ⟨_, rfl, rfl, ?_⟩
      rw [find?_changeOrder s r.slot (f := fun r => { r with worst := w, worstStation := stationNo i }) fun _ here => here,
        slot]
      rfl
    · rw [compareProof_some order, if_neg]
      rcases none with other | failed | within
      · simp [other]
      · simp [Option.isSome_iff_ne_none.1 failed]
      · simp [within]
    · rw [compareProof_some order, if_pos (by simp [proof, first, above])]
      by_cases entry : s.os.entry = some r.slot ∧ r.ended = false
      · obtain ⟨entry, running⟩ := entry
        obtain ⟨t, rfl, line, holds, found, status, copy, queue, inHand⟩ :=
          failProof_entry sch.index i isOpen slot entry running
        have finish := reckoned_finish (s := s) (r := withProofEnd (withFailure r sch.index i) s.wt.p) running
        refine ⟨_, _, rfl, line, holds, found, ?_, fun _ _ => ⟨status, copy, queue, inHand, ?_, ?_⟩, fun no => ?_⟩
        · unfold reckoned
          split <;> rfl
        · unfold reckoned
          split <;> rfl
        · rw [finish, leastEnd_reckoned]
          rfl
        · rcases no with other | ended
          · exact absurd entry other
          · exact absurd (running.symm.trans ended) Bool.false_ne_true
      · have other : s.os.entry ≠ some r.slot ∨ r.ended = true := by
          by_cases is : s.os.entry = some r.slot
          · exact .inr (by simpa [is] using entry)
          · exact .inl is
        obtain ⟨t, rfl, line, holds, found, status, copy⟩ := failProof_other sch.index i isOpen slot other
        exact ⟨_, _, rfl, line, holds, found, rfl, fun is running => absurd ⟨is, running⟩ entry,
          fun _ => ⟨rfl, rfl, status, copy⟩⟩

end Sys2Proof.Machine
end

section
/-! PROOF. The profile: the first failing item of its check (R173, R174), and the words that spell it (R172, R179). -/

namespace Sys2Proof.Machine

/-! ### Searches that give the lowest number with a property -/

/-- A search gives the lowest number with a property, and nothing if no number has it. -/
def Finds (x : Option Nat) (P : Nat → Prop) : Prop := ∀ n, x = some n ↔ Lowest P n

theorem lowest_exists {P : Nat → Prop} {n : Nat} (h : P n) : ∃ m, Lowest P m := by
  classical
  exact ⟨Nat.find ⟨n, h⟩, Nat.find_spec ⟨n, h⟩, fun m lt => Nat.find_min ⟨n, h⟩ lt⟩

theorem Finds.none_iff {x : Option Nat} {P : Nat → Prop} (h : Finds x P) : x = none ↔ ∀ n, ¬P n := by
  constructor
  · intro no n here
    obtain ⟨m, low⟩ := lowest_exists here
    rw [(h m).2 low] at no
    cases no
  · intro no
    cases found : x with
    | none => rfl
    | some n => exact absurd ((h n).1 found).1 (no n)

theorem Finds.congr {x : Option Nat} {P Q : Nat → Prop} (h : Finds x P) (same : ∀ n, P n ↔ Q n) : Finds x Q := by
  rwa [← funext fun n => propext (same n)]

theorem finds_none {P : Nat → Prop} (no : ∀ n, ¬P n) : Finds none P :=
  fun n => ⟨nofun, fun low => absurd low.1 (no n)⟩

theorem finds_some {P : Nat → Prop} {n : Nat} (low : Lowest P n) : Finds (some n) P := by
  intro m
  refine ⟨fun is => Option.some.inj is ▸ low, fun other => ?_⟩
  have le : ¬ m < n := fun lt => low.2 m lt other.1
  have ge : ¬ n < m := fun lt => other.2 n lt low.1
  rw [Nat.le_antisymm (Nat.not_lt.1 ge) (Nat.not_lt.1 le)]

/-- A check of one item: its number, if it fails. -/
theorem finds_ite {c : Prop} [Decidable c] (n : Nat) : Finds (if c then some n else none) fun m => m = n ∧ c := by
  by_cases h : c
  · rw [if_pos h]
    exact finds_some ⟨⟨rfl, h⟩, fun m lt is => absurd is.1 (Nat.ne_of_lt lt)⟩
  · rw [if_neg h]
    exact finds_none fun n is => h is.2

/-- One search after another, where the numbers of the first come before those of the second. -/
theorem Finds.orElse {x y : Option Nat} {P Q : Nat → Prop} (first : Finds x P) (second : x = none → Finds y Q)
    (before : ∀ m n, P m → Q n → m < n) : Finds (x <|> y) fun n => P n ∨ Q n := by
  cases found : x with
  | none =>
    have no := first.none_iff.1 found
    exact (second found).congr fun n => ⟨.inr, fun h => h.resolve_left (no n)⟩
  | some n =>
    have low := (first n).1 found
    exact finds_some ⟨.inl low.1, fun m lt is => is.elim (low.2 m lt) fun late => Nat.lt_asymm lt (before n m low.1 late)⟩

/-- A search through a list whose members' numbers ascend from one member to the next. -/
theorem finds_findSome? {α : Type} {g : α → Option Nat} {P : α → Nat → Prop} (l : List α)
    (each : ∀ a ∈ l, Finds (g a) (P a)) (ascend : l.Pairwise fun a b => ∀ m n, P a m → P b n → m < n) :
    Finds (l.findSome? g) fun n => ∃ a ∈ l, P a n := by
  induction l with
  | nil => exact finds_none fun n ⟨_, mem, _⟩ => by simp at mem
  | cons a rest ih =>
    obtain ⟨here, later⟩ := List.pairwise_cons.1 ascend
    have tail := ih (fun b mem => each b (List.mem_cons_of_mem a mem)) later
    have both := (each a List.mem_cons_self).orElse (fun _ => tail) fun m n p ⟨b, mem, q⟩ => here b mem m n p q
    have same : (a :: rest).findSome? g = (g a <|> rest.findSome? g) := by
      rw [List.findSome?_cons]
      cases g a <;> rfl
    rw [same]
    exact both.congr fun n => by simp

/-- The first member of a list with ascending numbers that has a property. -/
theorem finds_firstOf {α : Type} {key : α → Nat} {P : α → Prop} [DecidablePred P] (l : List α)
    (ascend : l.Pairwise fun a b => key a < key b) :
    Finds (l.findSome? fun a => if P a then some (key a) else none) fun n => ∃ a ∈ l, n = key a ∧ P a :=
  finds_findSome? l (fun a _ => finds_ite (key a)) (ascend.imp fun lt m n is other => by rwa [is.1, other.1])

theorem finds_range {P : Nat → Prop} [DecidablePred P] (base count : Nat) :
    Finds ((List.range count).findSome? fun i => if P i then some (base + i) else none)
      fun n => ∃ i, i < count ∧ n = base + i ∧ P i :=
  (finds_firstOf (List.range count) (List.pairwise_lt_range.imp fun lt => Nat.add_lt_add_left lt base)).congr
    fun n => by simp only [List.mem_range]

/-- The last member of a list with ascending numbers that has a property has the highest number. -/
theorem findSome?_reverse_iff {α : Type} {key : α → Nat} {P : α → Prop} [DecidablePred P] (l : List α)
    (ascend : l.Pairwise fun a b => key a < key b) (n : Nat) :
    (l.reverse.findSome? fun a => if P a then some (key a) else none) = some n ↔
      Highest (fun n => ∃ a ∈ l, n = key a ∧ P a) n := by
  induction l using List.reverseRecOn with
  | nil => simp [Highest]
  | append_singleton rest a ih =>
    obtain ⟨before, -, last⟩ := List.pairwise_append.1 ascend
    have below (b : α) (mem : b ∈ rest) : key b < key a := last b mem a (List.mem_singleton_self a)
    rw [List.reverse_append, List.reverse_singleton, List.singleton_append, List.findSome?_cons]
    by_cases here : P a
    · rw [if_pos here]
      constructor
      · intro is
        obtain rfl := Option.some.inj is
        refine ⟨⟨a, by simp, rfl, here⟩, fun m lt ⟨b, mem, is, _⟩ => ?_⟩
        rcases List.mem_append.1 mem with inside | isLast
        · exact absurd (below b inside) (by omega)
        · obtain rfl := List.mem_singleton.1 isLast
          omega
      · rintro ⟨⟨b, mem, rfl, _⟩, highest⟩
        rcases List.mem_append.1 mem with inside | isLast
        · exact absurd ⟨a, by simp, rfl, here⟩ (highest (key a) (below b inside))
        · rw [List.mem_singleton.1 isLast]
    · rw [if_neg here]
      have same (m : Nat) : (∃ b ∈ rest ++ [a], m = key b ∧ P b) ↔ ∃ b ∈ rest, m = key b ∧ P b := by
        constructor
        · rintro ⟨b, mem, is, holds⟩
          rcases List.mem_append.1 mem with inside | isLast
          · exact ⟨b, inside, is, holds⟩
          · exact absurd (List.mem_singleton.1 isLast ▸ holds) here
        · exact fun ⟨b, mem, rest⟩ => ⟨b, List.mem_append_left _ mem, rest⟩
      simp only [Highest, same]
      exact ih before

/-! ### The stations of a profile (R179) -/

theorem profileOf_station (w : Nat → Word) (i : Station) : (profileOf w).stations.get i = stationProfileOf w i := by
  have at' : (stationList.map (stationProfileOf w))[i.val]? = some (stationProfileOf w i) := by
    rw [List.getElem?_map]
    have here : stationList[i.val]? = some i := by
      revert i
      decide
    rw [here]
    rfl
  have get : (profileOf w).stations.toList[i.val]? = some ((profileOf w).stations.get i) := by
    rw [Vector.get_eq_getElem]
    simp
  exact Option.some.inj (get.symm.trans at')

theorem profileOf_page (w : Nat → Word) (p : Page) : (profileOf w).pages.get p = pointsOf w p.val := by
  fin_cases p <;> rfl

theorem inServiceList_ascends (f : Profile) : (inServiceList f).Pairwise fun i j => i < j :=
  stationList_ascends.filter _

theorem mem_inServiceList (f : Profile) (i : Station) : i ∈ inServiceList f ↔ (f.stations.get i).inService = true := by
  simp [inServiceList, mem_stationList]

/-- The stations in service with their numbers, ascending. -/
theorem inServiceList_numbers (f : Profile) : (inServiceList f).Pairwise fun i j => stationNo i < stationNo j :=
  (inServiceList_ascends f).imp fun lt => Nat.succ_lt_succ lt

/-! ### Item 1: the field ranges -/

theorem outside_iff (v lo hi : Nat) : outside v lo hi = true ↔ v < lo ∨ hi < v := by simp [outside]

theorem finds_outside (w : Nat → Word) (n lo hi : Nat) :
    Finds (if outside (w n).toNat lo hi then some n else none) fun m => m = n ∧ ((w n).toNat < lo ∨ hi < (w n).toNat) :=
  (finds_ite n).congr fun m => by rw [outside_iff]

/-- A general field out of its range. -/
def GeneralOutside (w : Nat → Word) (n : Nat) : Prop :=
  ∃ lo hi, (n, lo, hi) ∈ generalRanges ∧ ((w n).toNat < lo ∨ hi < (w n).toNat)

theorem finds_general (w : Nat → Word) :
    Finds (generalRanges.findSome? fun (i, lo, hi) => if outside (w i).toNat lo hi then some i else none)
      (GeneralOutside w) := by
  have ascend : generalRanges.Pairwise fun a b => a.1 < b.1 := by decide
  refine (finds_findSome? (P := fun a n => n = a.1 ∧ ((w a.1).toNat < a.2.1 ∨ a.2.2 < (w a.1).toNat)) generalRanges
    (fun a _ => finds_outside w a.1 a.2.1 a.2.2) (ascend.imp fun lt m n is other => by rwa [is.1, other.1])).congr
    fun n => ?_
  constructor
  · rintro ⟨⟨_, lo, hi⟩, mem, rfl, out⟩
    exact ⟨lo, hi, mem, out⟩
  · rintro ⟨lo, hi, mem, out⟩
    exact ⟨(n, lo, hi), mem, rfl, out⟩

/-- A word of a station entry out of its range. -/
def StationOutside (w : Nat → Word) (i : Station) (n : Nat) : Prop :=
  let b := 0x40 + 8 * i.val
  let out (lo hi : Nat) : Prop := (w n).toNat < lo ∨ hi < (w n).toNat
  n = b ∧ out 0 1 ∨
    w b = 1#32 ∧ (n = b + 1 ∧ out 50 50000 ∨ n = b + 2 ∧ out 0 10000 ∨ n = b + 3 ∧ out 400000 1400000 ∨
      n = b + 4 ∧ ((w n).toInt < -200000 ∨ 200000 < (w n).toInt) ∨ n = b + 5 ∧ out 0 1400000)

theorem StationOutside.within {w : Nat → Word} {i : Station} {n : Nat} (h : StationOutside w i n) :
    0x40 + 8 * i.val ≤ n ∧ n < 0x40 + 8 * (i.val + 1) := by
  unfold StationOutside at h
  omega

theorem word_eq_one_iff (x : Word) : x = 1#32 ↔ x.toNat = 1 := by
  rw [← BitVec.toNat_inj]
  rfl

/-- A chain of checks stops at the first that fails. -/
theorem finds_chain {c : Prop} [Decidable c] {x : Option Nat} {P : Nat → Prop} (n : Nat) (rest : Finds x P)
    (after : ∀ m, P m → n < m) : Finds (if c then some n else x) fun m => m = n ∧ c ∨ P m := by
  have both := (finds_ite (c := c) n).orElse (fun _ => rest) fun a b is other => by
    rw [is.1]
    exact after b other
  by_cases h : c
  · rwa [if_pos h] at both ⊢
  · rwa [if_neg h] at both ⊢

theorem finds_station (w : Nat → Word) (i : Station) : Finds (stationRangeFault w i) (StationOutside w i) := by
  unfold stationRangeFault stationWord
  dsimp only
  generalize base : 0x40 + 8 * i.val = b
  have fields := finds_chain (c := outside (w (b + 1)).toNat 50 50000 = true) (b + 1)
    (finds_chain (c := outside (w (b + 2)).toNat 0 10000 = true) (b + 2)
      (finds_chain (c := outside (w (b + 3)).toNat 400000 1400000 = true) (b + 3)
        (finds_chain (c := (w (b + 4)).toInt < -200000 ∨ 200000 < (w (b + 4)).toInt) (b + 4)
          (finds_ite (c := outside (w (b + 5)).toNat 0 1400000 = true) (b + 5)) (by omega)) (by omega)) (by omega)) (by omega)
  simp only [outside_iff] at fields ⊢
  by_cases many : 1 < (w b).toNat
  · rw [if_pos many]
    refine finds_some ⟨?_, fun m lt out => ?_⟩
    · simp only [StationOutside, base]
      exact .inl ⟨trivial, .inr many⟩
    · have := out.within
      omega
  · rw [if_neg many]
    by_cases idle : (w b).toNat = 0
    · rw [if_pos idle]
      refine finds_none fun n out => ?_
      simp only [StationOutside, base, word_eq_one_iff] at out
      rcases out with ⟨rfl, out⟩ | ⟨one, -⟩
      · omega
      · omega
    · rw [if_neg idle]
      have one : (w b).toNat = 1 := by omega
      refine fields.congr fun n => ?_
      simp only [StationOutside, base, word_eq_one_iff]
      constructor
      · intro out
        refine .inr ⟨one, ?_⟩
        rcases out with ⟨rfl, c⟩ | ⟨rfl, c⟩ | ⟨rfl, c⟩ | ⟨rfl, c⟩ | ⟨rfl, c⟩
        exacts [.inl ⟨rfl, c⟩, .inr (.inl ⟨rfl, c⟩), .inr (.inr (.inl ⟨rfl, c⟩)), .inr (.inr (.inr (.inl ⟨rfl, c⟩))),
          .inr (.inr (.inr (.inr ⟨rfl, c⟩)))]
      · intro out
        rcases out with ⟨rfl, c⟩ | ⟨-, ⟨rfl, c⟩ | ⟨rfl, c⟩ | ⟨rfl, c⟩ | ⟨rfl, c⟩ | ⟨rfl, c⟩⟩
        · omega
        exacts [.inl ⟨rfl, c⟩, .inr (.inl ⟨rfl, c⟩), .inr (.inr (.inl ⟨rfl, c⟩)), .inr (.inr (.inr (.inl ⟨rfl, c⟩))),
          .inr (.inr (.inr (.inr ⟨rfl, c⟩)))]

/-- A word of the zone table out of its range. -/
def ZoneOutside (w : Nat → Word) (n : Nat) : Prop :=
  ∃ k, k < 2 * (w 0x17).toNat ∧ n = 0xC0 + k ∧ ((w n).toNat < 0 ∨ 150000 < (w n).toNat)

theorem finds_zones (w : Nat → Word) : Finds (zoneRangeFault w) (ZoneOutside w) := by
  refine (finds_range (P := fun k => outside (w (zoneWord 0 + k)).toNat 0 150000 = true) (zoneWord 0)
    (2 * (w 0x17).toNat)).congr fun n => ?_
  refine exists_congr fun k => and_congr_right fun _ => and_congr_right fun is => ?_
  subst is
  rw [outside_iff]

/-- A word of the curve of a page out of its range. -/
def PageOutside (w : Nat → Word) (p n : Nat) : Prop :=
  ∃ i, 2 ≤ (w (0x100 + 32 * p)).toNat ∧ (w (0x100 + 32 * p)).toNat ≤ 16 ∧ i < (w (0x100 + 32 * p)).toNat ∧
    n = 0x100 + 32 * p + 1 + i ∧ (3000 < bitField (w n) 0 16 ∨ 10000 < bitField (w n) 16 16)

theorem finds_page (w : Nat → Word) (p : Nat) : Finds (pageRangeFault w p) (PageOutside w p) := by
  unfold pageRangeFault pageWord
  dsimp only
  by_cases out : outside (w (0x100 + 32 * p)).toNat 2 16 = true
  · rw [if_pos out]
    rw [outside_iff] at out
    exact finds_none fun n ⟨i, least, most, _⟩ => by omega
  · rw [if_neg out]
    rw [outside_iff] at out
    refine (finds_range (P := fun i => 3000 < bitField (w (0x100 + 32 * p + 1 + i)) 0 16 ∨
      10000 < bitField (w (0x100 + 32 * p + 1 + i)) 16 16) (0x100 + 32 * p + 1) (w (0x100 + 32 * p)).toNat).congr fun n => ?_
    constructor
    · rintro ⟨i, lt, rfl, high⟩
      exact ⟨i, by omega, by omega, lt, rfl, high⟩
    · rintro ⟨i, -, -, lt, rfl, high⟩
      exact ⟨i, lt, rfl, high⟩

theorem PageOutside.within {w : Nat → Word} {p n : Nat} (h : PageOutside w p n) :
    0x100 + 32 * p < n ∧ n < 0x100 + 32 * (p + 1) := by
  obtain ⟨i, least, most, lt, is, _⟩ := h
  omega

theorem GeneralOutside.early {w : Nat → Word} {n : Nat} (h : GeneralOutside w n) : n < 0x40 := by
  have early : ∀ a ∈ generalRanges, a.1 < 0x40 := by decide
  obtain ⟨lo, hi, mem, -⟩ := h
  exact early _ mem

theorem finds_fields (w : Nat → Word) : Finds (fieldRangeFault w) (FieldOutside generalRanges w) := by
  have stations := finds_findSome? stationList (fun i _ => finds_station w i)
    (stationList_ascends.imp fun {i j} lt m n h k => by
      have := h.within
      have := k.within
      have : i.val < j.val := lt
      omega)
  have pages := finds_findSome? (List.range 8) (fun p _ => finds_page w p)
    (List.pairwise_lt_range.imp fun lt m n h k => by
      have := h.within
      have := k.within
      omega)
  have zoned (few : (w 0x17).toNat ≤ 12) := (finds_zones w).orElse (fun _ => pages) fun m n ⟨k, lt, is, _⟩ ⟨p, _, out⟩ => by
    have := out.within
    omega
  have later (few : (w 0x17).toNat ≤ 12) := stations.orElse (fun _ => zoned few) fun m n ⟨i, _, out⟩ other => by
    have := out.within
    have := i.isLt
    rcases other with ⟨k, _, is, _⟩ | ⟨p, _, out⟩
    · omega
    · have := out.within
      omega
  have all := (finds_general w).orElse (fun no => later ?_) fun m n out other => ?_
  · refine all.congr fun n => ?_
    have inStations : (∃ i ∈ stationList, StationOutside w i n) ↔ ∃ i, StationOutside w i n :=
      exists_congr fun i => and_iff_right (mem_stationList i)
    have inPages : (∃ p ∈ List.range 8, PageOutside w p n) ↔ ∃ p i, p < 8 ∧ 2 ≤ (w (0x100 + 32 * p)).toNat ∧
        (w (0x100 + 32 * p)).toNat ≤ 16 ∧ i < (w (0x100 + 32 * p)).toNat ∧ n = 0x100 + 32 * p + 1 + i ∧
        (3000 < bitField (w n) 0 16 ∨ 10000 < bitField (w n) 16 16) :=
      exists_congr fun p => by
        rw [List.mem_range]
        exact exists_and_left.symm
    rw [inStations, inPages]
    rfl
  · have inRange := (finds_general w).none_iff.1 no 0x17
    by_contra many
    exact inRange ⟨1, 12, by decide, .inr (Nat.not_le.1 many)⟩
  · have := out.early
    rcases other with ⟨i, _, out⟩ | ⟨k, _, is, _⟩ | ⟨p, _, out⟩
    · have := out.within
      omega
    · omega
    · have := out.within
      omega

/-! ### Items 2 to 4 and 12: the stations in service -/

/-- Neighbours of an ascending list of stations: nothing of the list lies between them. -/
theorem neighbours_iff {l : List Station} (ascend : l.Pairwise fun i j => i < j) (j i : Station) :
    (∃ pre post, l = pre ++ j :: i :: post) ↔ j < i ∧ i ∈ l ∧ j ∈ l ∧ ∀ x, j < x → x < i → x ∉ l := by
  constructor
  · rintro ⟨pre, post, rfl⟩
    obtain ⟨-, rest, before⟩ := List.pairwise_append.1 ascend
    obtain ⟨next, rest⟩ := List.pairwise_cons.1 rest
    obtain ⟨after, -⟩ := List.pairwise_cons.1 rest
    refine ⟨next i (by simp), by simp, by simp, fun x low high mem => ?_⟩
    rcases List.mem_append.1 mem with early | late
    · exact absurd (before x early j (by simp)) (not_lt_of_gt low)
    · rcases List.mem_cons.1 late with rfl | late
      · exact lt_irrefl _ low
      · rcases List.mem_cons.1 late with rfl | late
        · exact lt_irrefl _ high
        · exact absurd (after x late) (not_lt_of_gt high)
  · rintro ⟨lt, memI, memJ, between⟩
    obtain ⟨pre, rest, rfl⟩ := List.append_of_mem memJ
    obtain ⟨-, later, before⟩ := List.pairwise_append.1 ascend
    obtain ⟨-, later⟩ := List.pairwise_cons.1 later
    have inRest : i ∈ rest := by
      rcases List.mem_append.1 memI with early | late
      · exact absurd (before i early j (by simp)) (not_lt_of_gt lt)
      · exact (List.mem_cons.1 late).resolve_left (ne_of_gt lt)
    cases rest with
    | nil => simp at inRest
    | cons k post =>
      obtain ⟨next, -⟩ := List.pairwise_cons.1 later
      have ahead : j < k := (List.pairwise_cons.1 (List.pairwise_append.1 ascend).2.1).1 k (by simp)
      rcases List.mem_cons.1 inRest with rfl | late
      · exact ⟨pre, post, rfl⟩
      · exact absurd (show k ∈ pre ++ j :: k :: post by simp) (between k ahead (next i late))

theorem finds_stationOrder (f : Profile) (l : List Station) (ascend : l.Pairwise fun i j => i < j) :
    Finds (stationOrderFault f l) fun n => ∃ i j, n = i.val + 1 ∧ (∃ pre post, l = pre ++ j :: i :: post) ∧
      (f.stations.get i).distance ≤ (f.stations.get j).distance := by
  induction l with
  | nil => exact finds_none fun n ⟨_, _, _, ⟨_, _, h⟩, _⟩ => by simp at h
  | cons a rest ih =>
    cases rest with
    | nil =>
      refine finds_none fun n ⟨_, _, _, ⟨pre, post, h⟩, _⟩ => ?_
      have := congrArg List.length h
      simp only [List.length_append, List.length_cons, List.length_nil] at this
      omega
    | cons b rest =>
      obtain ⟨first, later⟩ := List.pairwise_cons.1 ascend
      obtain ⟨second, -⟩ := List.pairwise_cons.1 later
      have after (n : Nat) (h : ∃ i j, n = i.val + 1 ∧ (∃ pre post, b :: rest = pre ++ j :: i :: post) ∧
          (f.stations.get i).distance ≤ (f.stations.get j).distance) : stationNo b < n := by
        obtain ⟨i, j, rfl, pair, -⟩ := h
        obtain ⟨lt, -, memJ, -⟩ := (neighbours_iff later j i).1 pair
        have le : b ≤ j := by
          rcases List.mem_cons.1 memJ with rfl | mem
          · exact le_refl _
          · exact (second j mem).le
        exact Nat.succ_lt_succ (lt_of_le_of_lt le lt)
      refine (finds_chain (c := (f.stations.get b).distance ≤ (f.stations.get a).distance) (stationNo b) (ih later)
        after).congr fun n => ?_
      constructor
      · rintro (⟨rfl, near⟩ | ⟨i, j, rfl, ⟨pre, post, pair⟩, near⟩)
        · exact ⟨b, a, rfl, ⟨[], rest, rfl⟩, near⟩
        · exact ⟨i, j, rfl, ⟨a :: pre, post, by rw [pair]; rfl⟩, near⟩
      · rintro ⟨i, j, rfl, ⟨pre, post, pair⟩, near⟩
        cases pre with
        | nil =>
          obtain ⟨rfl, rfl, -⟩ : a = j ∧ b = i ∧ rest = post := by simpa using pair
          exact .inl ⟨rfl, near⟩
        | cons x pre =>
          rw [List.cons_append, List.cons.injEq] at pair
          exact .inr ⟨i, j, rfl, ⟨pre, post, pair.2⟩, near⟩

/-- A check of the stations in service, one by one. -/
theorem finds_inService (f : Profile) (P : Station → Prop) [DecidablePred P] :
    Finds ((inServiceList f).findSome? fun i => if P i then some (stationNo i) else none)
      fun n => ∃ i : Station, n = i.val + 1 ∧ (f.stations.get i).inService = true ∧ P i :=
  (finds_firstOf (inServiceList f) (inServiceList_numbers f)).congr fun n => exists_congr fun i => by
    rw [mem_inServiceList]
    exact and_left_comm

/-! ### Item 8: the zone table -/

theorem finds_zoneTable (limit : Nat) (zones : List (Nat × Nat)) (base : Nat) :
    Finds (zoneTableFault limit base zones) fun n => ∃ z a b, n = z + base ∧ zones[z]? = some (a, b) ∧
      (b ≤ a ∨ (∃ c d, zones[z + 1]? = some (c, d) ∧ c < b) ∨ limit < b) := by
  induction zones generalizing base with
  | nil => exact finds_none fun n ⟨_, _, _, _, h, _⟩ => by simp at h
  | cons zone rest ih =>
    obtain ⟨a, b⟩ := zone
    have next : (rest.head?.any fun nx => decide (nx.1 < b)) = true ↔ ∃ c d, rest[0]? = some (c, d) ∧ c < b := by
      cases rest with
      | nil => simp
      | cons zone rest =>
        obtain ⟨c, d⟩ := zone
        simp
    refine (finds_chain (c := b ≤ a ∨ limit < b ∨ (rest.head?.any fun nx => decide (nx.1 < b)) = true) base (ih (base + 1))
      ?_).congr fun n => ?_
    · rintro n ⟨z, _, _, rfl, -⟩
      omega
    · rw [next]
      constructor
      · rintro (⟨rfl, bad⟩ | ⟨z, x, y, rfl, at', bad⟩)
        · exact ⟨0, a, b, (Nat.zero_add _).symm, rfl, bad.imp_right Or.symm⟩
        · exact ⟨z + 1, x, y, by omega, at', bad⟩
      · rintro ⟨z, x, y, rfl, at', bad⟩
        cases z with
        | zero =>
          obtain ⟨rfl, rfl⟩ : a = x ∧ b = y := by simpa using at'
          exact .inl ⟨Nat.zero_add _, bad.imp_right Or.symm⟩
        | succ z => exact .inr ⟨z, x, y, by omega, at', bad⟩

/-! ### Item 9: the curves -/

theorem pointsAscend_iff (l : List (Nat × Nat)) :
    pointsAscend l = false ↔ ∃ i a b, l[i]? = some a ∧ l[i + 1]? = some b ∧ (b.1 ≤ a.1 ∨ b.2 < a.2) := by
  induction l with
  | nil => simp [pointsAscend]
  | cons a rest ih =>
    cases rest with
    | nil => simp [pointsAscend]
    | cons b rest =>
      rw [pointsAscend, Bool.and_eq_false_iff, ih]
      constructor
      · rintro (bad | ⟨i, x, y, at', next, bad⟩)
        · refine ⟨0, a, b, rfl, rfl, ?_⟩
          simp only [Bool.and_eq_false_iff, decide_eq_false_iff_not, Nat.not_lt, Nat.not_le] at bad
          exact bad
        · exact ⟨i + 1, x, y, at', next, bad⟩
      · rintro ⟨i, x, y, at', next, bad⟩
        cases i with
        | zero =>
          obtain ⟨rfl, rfl⟩ : a = x ∧ b = y := by simpa using And.intro at' next
          left
          simp only [Bool.and_eq_false_iff, decide_eq_false_iff_not, Nat.not_lt, Nat.not_le]
          exact bad
        | succ i => exact .inr ⟨i, x, y, at', next, bad⟩

/-- What item 9 objects to in a page. -/
def CurveBad (w : Nat → Word) (p : Nat) : Prop :=
  (w (pageWord p)).toNat ≠ 0 ∧ (outside (w (pageWord p)).toNat 2 16 || !pointsAscend (pointsOf w p)) = true

theorem finds_curve (w : Nat → Word) :
    Finds (curveFault w) fun n => ∃ p : Page, n = p.val ∧ (w (0x100 + 32 * p.val)).toNat ≠ 0 ∧
      ((w (0x100 + 32 * p.val)).toNat < 2 ∨ 16 < (w (0x100 + 32 * p.val)).toNat ∨
        ∃ i a b, ((profileOf w).pages.get p)[i]? = some a ∧ ((profileOf w).pages.get p)[i + 1]? = some b ∧
          (b.1 ≤ a.1 ∨ b.2 < a.2)) := by
  have : DecidablePred (CurveBad w) := fun p => inferInstanceAs (Decidable (_ ∧ _))
  have same : curveFault w = (List.range 8).findSome? fun p => if CurveBad w p then some p else none := by
    unfold curveFault
    refine congrArg (List.findSome? · (List.range 8)) (funext fun p => ?_)
    dsimp only
    by_cases zero : (w (pageWord p)).toNat = 0
    · rw [if_pos zero, if_neg fun h => h.1 zero]
    · rw [if_neg zero]
      exact if_congr ⟨fun bad => ⟨zero, bad⟩, fun bad => bad.2⟩ rfl rfl
  rw [same]
  refine (finds_firstOf (key := fun p => p) (List.range 8) List.pairwise_lt_range).congr fun n => ?_
  have bad (p : Page) : CurveBad w p.val ↔ (w (0x100 + 32 * p.val)).toNat ≠ 0 ∧
      ((w (0x100 + 32 * p.val)).toNat < 2 ∨ 16 < (w (0x100 + 32 * p.val)).toNat ∨
        ∃ i a b, ((profileOf w).pages.get p)[i]? = some a ∧ ((profileOf w).pages.get p)[i + 1]? = some b ∧
          (b.1 ≤ a.1 ∨ b.2 < a.2)) := by
    rw [profileOf_page, ← pointsAscend_iff, CurveBad, pageWord, Bool.or_eq_true, outside_iff, Bool.not_eq_true', or_assoc]
  constructor
  · rintro ⟨p, mem, rfl, h⟩
    exact ⟨⟨n, List.mem_range.1 mem⟩, rfl, (bad _).1 h⟩
  · rintro ⟨p, rfl, h⟩
    exact ⟨p.val, List.mem_range.2 p.isLt, rfl, (bad p).2 h⟩

/-! ### Item 13: the room of the web map -/

theorem mapNeed_iff (f : Profile) (n : Nat) :
    (if Config.mapCapacity < mapNeed f then some (mapNeed f) else none) = some n ↔
      2048 < n ∧ ∃ q, Lowest (fun x => f.tableExit + f.festoonCapacity + f.ovenLength ≤ x * f.segmentLength) q ∧
        n = q + 64 := by
  unfold mapNeed
  generalize f.tableExit + f.festoonCapacity + f.ovenLength = total
  generalize f.segmentLength = len
  have ceiling (positive : 0 < len) : Lowest (fun x => total ≤ x * len) ((total + len - 1) / len) := by
    constructor
    · have := Nat.div_add_mod (total + len - 1) len
      have := Nat.mod_lt (total + len - 1) positive
      show total ≤ (total + len - 1) / len * len
      rw [Nat.mul_comm]
      omega
    · intro m lt le
      have := (Nat.lt_div_iff_mul_lt positive).1 lt
      omega
  have unique {a b : Nat} {P : Nat → Prop} (x : Lowest P a) (y : Lowest P b) : a = b := by
    rcases Nat.lt_trichotomy a b with lt | same | lt
    · exact absurd x.1 (y.2 a lt)
    · exact same
    · exact absurd y.1 (x.2 b lt)
  rcases Nat.eq_zero_or_pos len with rfl | positive
  · constructor
    · intro h
      simp [Config.mapCapacity] at h
    · rintro ⟨big, q, low, rfl⟩
      have : q = 0 := Nat.eq_zero_of_not_pos fun pos => low.2 0 pos low.1
      omega
  · constructor
    · intro h
      split at h
      next big => exact Option.some.inj h ▸ ⟨big, _, ceiling positive, rfl⟩
      next => cases h
    · rintro ⟨big, q, low, rfl⟩
      obtain rfl := unique (ceiling positive) low
      exact if_pos big

/-! ### The items in the order of the table (R173) -/

theorem itemStationOrder_iff (w : Nat → Word) (n : Nat) :
    stationOrderFault (profileOf w) (inServiceList (profileOf w)) = some n ↔ ItemFails generalRanges w 2 n := by
  unfold ItemFails
  dsimp only
  refine (finds_stationOrder (profileOf w) (inServiceList (profileOf w)) (inServiceList_ascends _)).congr (fun m => ?_) n
  refine exists_congr fun i => exists_congr fun j => and_congr_right fun _ => ?_
  rw [neighbours_iff (inServiceList_ascends _), mem_inServiceList, mem_inServiceList]
  simp only [mem_inServiceList, Bool.not_eq_true, and_assoc]

theorem itemLead_iff (w : Nat → Word) (n : Nat) : leadFault (profileOf w) = some n ↔ ItemFails generalRanges w 3 n := by
  unfold ItemFails leadFault
  dsimp only
  refine (finds_inService (profileOf w) fun i => ((profileOf w).stations.get i).distance <
    (profileOf w).segmentLength + ((profileOf w).stations.get i).lead).congr (fun m => ?_) n
  exact exists_congr fun i => and_congr_right fun _ => and_congr_right fun _ => by omega

theorem itemReader_iff (w : Nat → Word) (n : Nat) : readerFault (profileOf w) = some n ↔ ItemFails generalRanges w 4 n := by
  have found := findSome?_reverse_iff (P := fun i => (profileOf w).readerDistance ≤
    ((profileOf w).stations.get i).distance + (profileOf w).window) (inServiceList (profileOf w))
    (inServiceList_numbers _) n
  have same (m : Nat) : (∃ i ∈ inServiceList (profileOf w), m = stationNo i ∧ (profileOf w).readerDistance ≤
      ((profileOf w).stations.get i).distance + (profileOf w).window) ↔
      ∃ i : Station, m = i.val + 1 ∧ ((profileOf w).stations.get i).inService = true ∧
        ((profileOf w).readerDistance : Int) - (profileOf w).window ≤ ((profileOf w).stations.get i).distance := by
    refine exists_congr fun i => ?_
    rw [mem_inServiceList]
    exact and_left_comm.trans (and_congr_right fun _ => and_congr_right fun _ => by omega)
  simp only [Highest, same] at found
  exact found

theorem itemMarkOffset_iff (w : Nat → Word) (n : Nat) :
    markOffsetFault (profileOf w) = some n ↔ ItemFails generalRanges w 12 n := by
  unfold ItemFails markOffsetFault
  dsimp only
  refine (finds_inService (profileOf w) fun i => ((profileOf w).stations.get i).markOffset <
      (profileOf w).window + (profileOf w).correctionRange ∨ ((profileOf w).stations.get i).circumference <
      ((profileOf w).stations.get i).markOffset + (profileOf w).window + (profileOf w).correctionRange).congr
    (fun m => ?_) n
  exact exists_congr fun i => and_congr_right fun _ => and_congr_right fun _ => or_congr_right (by omega)

theorem itemZones_iff (w : Nat → Word) (n : Nat) :
    zoneTableFault (profileOf w).ovenLength 1 (profileOf w).zones = some n ↔ ItemFails generalRanges w 8 n :=
  finds_zoneTable (profileOf w).ovenLength (profileOf w).zones 1 n

theorem itemCurve_iff (w : Nat → Word) (n : Nat) : curveFault w = some n ↔ ItemFails generalRanges w 9 n :=
  finds_curve w n

/-- An item of the table that has no item number: it fails with 0, or with one number. -/
theorem ite_some_iff {c : Prop} [Decidable c] {n m : Nat} : (if c then some m else none) = some n ↔ n = m ∧ c := by
  by_cases h : c
  · simp [h, eq_comm]
  · simp [h]

theorem itemFestoon_iff (w : Nat → Word) (n : Nat) :
    (if (profileOf w).highMark ≤ (profileOf w).resumeMark ∨ (profileOf w).festoonCapacity ≤ (profileOf w).highMark ∨
      (profileOf w).festoonCapacity < (profileOf w).festoonFill then some 0 else none) = some n ↔
      ItemFails generalRanges w 7 n := by
  unfold ItemFails
  dsimp only
  rw [ite_some_iff]
  exact and_congr_right fun _ => by omega

/-- A check gives the first item from `lo` on that fails, with its number. -/
def FirstItem (F : Nat → Nat → Prop) (lo : Nat) (x : Option (Nat × Nat)) : Prop :=
  ∀ k n, x = some (k, n) ↔ lo ≤ k ∧ F k n ∧ ∀ j m, lo ≤ j → j < k → ¬F j m

theorem FirstItem.cons {F : Nat → Nat → Prop} {lo : Nat} {x : Option (Nat × Nat)} {item : Option Nat}
    (here : ∀ n, item = some n ↔ F lo n) (later : FirstItem F (lo + 1) x) : FirstItem F lo (tagFault lo item <|> x) := by
  intro k n
  cases found : item with
  | some m =>
    have fails := (here m).1 found
    constructor
    · intro is
      obtain ⟨rfl, rfl⟩ : lo = k ∧ m = n := by simpa [tagFault] using is
      exact ⟨le_refl _, fails, fun j _ low high => absurd high (Nat.not_lt.2 low)⟩
    · rintro ⟨low, is, first⟩
      have same : lo = k := (Nat.lt_or_eq_of_le low).resolve_left fun lt => first lo m (le_refl _) lt fails
      subst same
      have := (here n).2 is
      rw [found] at this
      rw [Option.some.inj this]
      rfl
  | none =>
    have passes (m : Nat) : ¬F lo m := fun fails => by
      have := (here m).2 fails
      rw [found] at this
      cases this
    refine (later k n).trans ⟨?_, ?_⟩
    · rintro ⟨low, is, first⟩
      refine ⟨Nat.le_of_succ_le low, is, fun j m lo' high => ?_⟩
      rcases Nat.lt_or_eq_of_le lo' with lt | rfl
      · exact first j m lt high
      · exact passes m
    · rintro ⟨low, is, first⟩
      refine ⟨?_, is, fun j m lo' high => first j m (Nat.le_of_succ_le lo') high⟩
      rcases Nat.lt_or_eq_of_le low with lt | rfl
      · exact lt
      · exact absurd is (passes n)

theorem firstItem_profileFault (w : Nat → Word) : FirstItem (ItemFails generalRanges w) 1 (profileFault w) := by
  have none' : FirstItem (ItemFails generalRanges w) 14 none := by
    intro k n
    refine ⟨nofun, fun ⟨low, fails, _⟩ => ?_⟩
    obtain ⟨m, rfl⟩ := Nat.exists_eq_add_of_le low
    rw [Nat.add_comm] at fails
    exact fails.elim
  have last := none'.cons (lo := 13) (mapNeed_iff (profileOf w))
  have same (x : Option (Nat × Nat)) : (x <|> none) = x := by cases x <;> rfl
  rw [same] at last
  have marks := (last.cons (lo := 12) (itemMarkOffset_iff w)).cons (lo := 11) fun n => ite_some_iff
  have page := marks.cons (lo := 10) fun n => (ite_some_iff (c := (w (pageWord 7)).toNat = 0) (m := 7)).trans
    (and_congr_right fun _ => BitVec.toNat_inj (y := 0#32))
  have tables := (page.cons (lo := 9) (itemCurve_iff w)).cons (lo := 8) (itemZones_iff w)
  have festoon := tables.cons (lo := 7) (itemFestoon_iff w)
  have lengths := (festoon.cons (lo := 6) fun n => ite_some_iff).cons (lo := 5) fun n => ite_some_iff
  exact (((lengths.cons (lo := 4) (itemReader_iff w)).cons (lo := 3) (itemLead_iff w)).cons (lo := 2)
    (itemStationOrder_iff w)).cons (lo := 1) (finds_fields w)

/-- Settles O42: each item of the table finds its lowest (item 4: its highest) failing number, and the check is the first of
them that does. -/
theorem profileChecksFollowTheItems : Obligations.ProfileChecksFollowTheItems := by
  unfold Obligations.ProfileChecksFollowTheItems
  rintro general w rfl
  have first := firstItem_profileFault w
  have zero (m : Nat) : ¬ItemFails generalRanges w 0 m := id
  have given (k n : Nat) : profileFault w = some (k, n) ↔
      ItemFails generalRanges w k n ∧ ∀ j m, j < k → ¬ItemFails generalRanges w j m := by
    refine (first k n).trans ⟨fun ⟨_, fails, before⟩ => ⟨fails, fun j m lt is => ?_⟩,
      fun ⟨fails, before⟩ => ⟨?_, fails, fun j m _ lt => before j m lt⟩⟩
    · rcases Nat.eq_zero_or_pos j with rfl | pos
      · exact zero m is
      · exact before j m pos lt is
    · rcases Nat.eq_zero_or_pos k with rfl | pos
      · exact (zero n fails).elim
      · exact pos
  refine ⟨given, fun no k n fails => ?_, fun no => ?_⟩
  · obtain ⟨j, ⟨m, low⟩, least⟩ := lowest_exists (P := fun k => ∃ n, ItemFails generalRanges w k n) ⟨n, fails⟩
    rw [(given j m).2 ⟨low, fun i x lt is => least i lt ⟨x, is⟩⟩] at no
    cases no
  · cases found : profileFault w with
    | none => rfl
    | some p => exact absurd ((given p.1 p.2).1 found).1 (no p.1 p.2)

/-! ### The words of a profile (R172, R179) -/

theorem exec_loadProfile_accepted {s : State} (reset : s.pins.resetAsserted = false) (idle : s.busy = false)
    (unloaded : s.lc.line = .unloaded) : exec .loadProfile s = .next (beginLoad s) := by
  refine congrArg Host.Outcome.next (judgeCommand_accepted reset idle ?_ beginLoad)
  rw [unloaded]
  rfl

theorem profileOf_zones_length (w : Nat → Word) : (profileOf w).zones.length = min (w 0x17).toNat 12 := by
  simp [profileOf]

theorem profileOf_zone {w : Nat → Word} {z a b : Nat} (zone : (profileOf w).zones[z]? = some (a, b)) :
    a = (w (0xC0 + 2 * z)).toNat * 1000 ∧ b = (w (0xC1 + 2 * z)).toNat * 1000 := by
  simp only [profileOf, List.getElem?_map, Option.map_eq_some_iff, Prod.mk.injEq] at zone
  obtain ⟨y, at', rfl, rfl⟩ := zone
  obtain ⟨_, rfl⟩ := List.getElem?_eq_some_iff.1 at'
  rw [List.getElem_range, zoneWord, mm, mm, Nat.add_right_comm]
  exact ⟨rfl, rfl⟩

theorem pointsOf_length (w : Nat → Word) (p : Nat) : (pointsOf w p).length = min (w (0x100 + 32 * p)).toNat 16 := by
  simp [pointsOf, pageWord]

theorem pointsOf_point {w : Nat → Word} {p k : Nat} {a : Nat × Nat} (point : (pointsOf w p)[k]? = some a) :
    a.1 = ((w (0x101 + 32 * p + k)).extractLsb' 0 16).toNat ∧ a.2 = ((w (0x101 + 32 * p + k)).extractLsb' 16 16).toNat := by
  simp only [pointsOf, List.getElem?_map, Option.map_eq_some_iff] at point
  obtain ⟨y, at', rfl⟩ := point
  obtain ⟨_, rfl⟩ := List.getElem?_eq_some_iff.1 at'
  rw [List.getElem_range, pageWord, Nat.add_right_comm 0x100 (32 * p) 1]
  exact ⟨rfl, rfl⟩

theorem stationProfileOf_idle {w : Nat → Word} {i : Station} (idle : w (0x40 + 8 * i.val) ≠ 1#32) :
    (stationProfileOf w i).inService = false := by
  unfold stationProfileOf stationWord
  dsimp only
  rw [if_neg fun one => idle ((word_eq_one_iff _).2 one)]
  rfl

theorem stationProfileOf_inService {w : Nat → Word} {i : Station} (one : w (0x40 + 8 * i.val) = 1#32) :
    stationProfileOf w i =
      { inService := true, distance := (w (0x41 + 8 * i.val)).toNat * 1000, lead := (w (0x42 + 8 * i.val)).toNat * 1000,
        circumference := (w (0x43 + 8 * i.val)).toNat, base := (w (0x44 + 8 * i.val)).toInt,
        markOffset := (w (0x45 + 8 * i.val)).toNat } := by
  unfold stationProfileOf stationWord
  dsimp only
  rw [if_pos ((word_eq_one_iff _).1 one)]
  simp only [mm, Nat.add_right_comm 0x40]

/-- Settles O41: the acceptance field by field, and each part of the profile from its words. -/
theorem loadReadsTheProfile : Obligations.LoadReadsTheProfile := by
  unfold Obligations.LoadReadsTheProfile
  refine ⟨fun s reset idle unloaded => exec_loadProfile_accepted reset idle unloaded, ?_⟩
  rintro w f rfl
  refine ⟨rfl, profileOf_zones_length w, fun z a b => profileOf_zone, fun i => ?_, fun p => ?_⟩
  · rw [profileOf_station]
    exact ⟨stationProfileOf_inService, stationProfileOf_idle⟩
  · rw [profileOf_page]
    exact ⟨pointsOf_length w p.val, fun k a => pointsOf_point⟩

end Sys2Proof.Machine
end

section
/-! PROOF. The advances (R1, R3, R5, R6): the sections of a segment, the position limit, the two advances part by part. -/

namespace Sys2Proof.Machine

/-! ### The frame of the advances -/

theorem Board.undisturbed_tracker {s t : State} {w : WebTracker} (h : Board { s with wt := w } t) : Undisturbed s t :=
  have same := h.undisturbed
  { clock := same.clock, exbase := same.exbase, busy := same.busy, busRead := same.busRead, retired := same.retired
    written := same.written, pins := same.pins, prof := same.prof, pending := same.pending, mem := same.mem }

/-- A position written on both sides of a board relation. -/
theorem Board.atP {s t : State} (h : Board s t) (n : Nat) : Board { s with wt.p := n } { t with wt.p := n } :=
  { h with p := rfl }

theorem advanceOne_board (s : State) : Board { s with wt.p := s.wt.p + 1 } (advanceOne s) := by
  have moved : Board { s with wt.p := s.wt.p + 1 } { s with wt.p := s.wt.p + 1, cp := detectorTravel s.cp } := by
    constructor <;> first | rfl | exact id
  exact moved.trans (meetThresholds_closed board_closed _)

theorem advanceBy_board (d : Nat) (s : State) : Board { s with wt.p := s.wt.p + d } (advanceBy d s) := by
  induction d generalizing s with
  | zero => exact Board.refl s
  | succ d ih =>
    have first := (advanceOne_board s).atP (s.wt.p + (d + 1))
    have rest := ih (advanceOne s)
    rw [(advanceOne_board s).p, Nat.add_assoc, Nat.add_comm 1 d] at rest
    exact first.trans rest

theorem endUnderrun_board (s : State) : Board { s with wt.underrun := none } (endUnderrun s) := by
  unfold endUnderrun
  split
  next => exact (post_quiet _ _).board
  next ended =>
    have same : { s with wt.underrun := none } = s := by rw [← ended]
    rw [same]
    exact Board.refl s

theorem printAdvance_board (s : State) (d : Nat) :
    Board { s with wt.p := s.wt.p + d, wt.underrun := none } (printAdvance s d) := by
  have before : Board { s with wt.underrun := none } (restartStandstill (endUnderrun s)) :=
    (endUnderrun_board s).trans (restartStandstill_quiet _).board
  have after (t : State) : Board t (deliverFestoon (driveTargets t)) :=
    (driveTargets_closed board_calm t).trans (deliverFestoon_closed board_calm _)
  have moved := advanceBy_board d (restartStandstill (endUnderrun s))
  rw [before.p] at moved
  exact ((before.atP (s.wt.p + d)).trans moved).trans (after _)

theorem ovenAdvance_board (s : State) (d : Nat) :
    Board (reanchor { s with wt.q := s.wt.q + d }) (ovenAdvance s d) :=
  ((deliverFestoon_closed board_calm _).trans (setbackAdvance_closed board_calm _)).trans
    (horizonIfClear_closed board_calm _)

/-- The position limit changes its own flag alone of what the board and the encoders move. -/
theorem reachLimit_board (s : State) : Board { s with wt.limitPosted := true } (reachLimit s) := by
  unfold reachLimit
  split
  next posted =>
    have same : { s with wt.limitPosted := true } = s := by rw [← posted]
    rw [same]
    exact Board.refl s
  next => exact (board_calm.fault _ .trackingLost).trans (post_quiet _ _).board

theorem reachLimit_ite_board (c : Prop) [Decidable c] (s : State) :
    ∃ b, Board { s with wt.limitPosted := b } (if c then reachLimit s else s) := by
  split
  · exact ⟨true, reachLimit_board s⟩
  · exact ⟨s.wt.limitPosted, Board.refl s⟩

/-- The flag of the position limit written on both sides of a board relation. -/
theorem Board.atLimit {s t : State} (h : Board s t) (b : Bool) :
    Board { s with wt.limitPosted := b } { t with wt.limitPosted := b } :=
  { h with limitPosted := rfl }

/-! ### Forward counts (R1, R3) -/

/-- The state after the travel of a print forward count, before the position limit is judged. -/
def printMoved (s : State) : State :=
  if travelLeft s.wt.p (s.prof.printResolution - s.wt.printDebt) = 0 then
    { s with wt.printDebt := s.wt.printDebt - s.prof.printResolution, wt.printReverse := .none }
  else
    printAdvance { s with wt.printDebt := s.wt.printDebt - s.prof.printResolution, wt.printReverse := .none }
      (travelLeft s.wt.p (s.prof.printResolution - s.wt.printDebt))

theorem printForward_eq (s : State) :
    printForward s =
      if travelLeft s.wt.p (s.prof.printResolution - s.wt.printDebt) < s.prof.printResolution - s.wt.printDebt then
        reachLimit (printMoved s)
      else printMoved s := rfl

/-- The state after the travel of an oven forward count, before the position limit is judged. -/
def ovenMoved (s : State) : State :=
  if travelLeft s.wt.q (s.prof.ovenResolution - s.wt.ovenDebt) = 0 then
    { s with wt.ovenDebt := s.wt.ovenDebt - s.prof.ovenResolution, wt.ovenReverse := .none }
  else
    ovenAdvance { s with wt.ovenDebt := s.wt.ovenDebt - s.prof.ovenResolution, wt.ovenReverse := .none }
      (travelLeft s.wt.q (s.prof.ovenResolution - s.wt.ovenDebt))

theorem ovenForward_eq (s : State) :
    ovenForward s =
      if travelLeft s.wt.q (s.prof.ovenResolution - s.wt.ovenDebt) < s.prof.ovenResolution - s.wt.ovenDebt then
        reachLimit (ovenMoved s)
      else ovenMoved s := rfl

theorem printMoved_board (s : State) : ∃ u, Board { s with wt := { s.wt with
    p := s.wt.p + travelLeft s.wt.p (s.prof.printResolution - s.wt.printDebt)
    printDebt := s.wt.printDebt - s.prof.printResolution
    printReverse := .none
    underrun := u } } (printMoved s) := by
  unfold printMoved
  split
  next still =>
    rw [still]
    exact ⟨s.wt.underrun, Board.refl _⟩
  next =>
    exact ⟨none, printAdvance_board { s with
      wt.printDebt := s.wt.printDebt - s.prof.printResolution, wt.printReverse := .none } _⟩

/-! ### Re-anchoring (R6) -/

theorem deficit_advanced (s : State) (d : Nat) :
    deficit { s with wt.q := s.wt.q + d } = ((d : Int) - festoon s).toNat := by
  unfold deficit festoon
  dsimp only
  omega

/-- An oven advance with its re-anchoring, field by field (R1, R6). -/
theorem reanchor_eq (s : State) (d : Nat) :
    reanchor { s with wt.q := s.wt.q + d } = { s with wt := { s.wt with
      q := s.wt.q + d
      k := s.wt.k + ((d : Int) - festoon s).toNat
      underrun := if (d : Int) ≤ festoon s then s.wt.underrun
        else some (min (s.wt.underrun.getD 0 + ((d : Int) - festoon s).toNat) Config.wordLimit) } } := by
  unfold reanchor
  rw [deficit_advanced]
  by_cases enough : (d : Int) ≤ festoon s
  · have lacks : ((d : Int) - festoon s).toNat = 0 := by omega
    rw [if_pos lacks, if_pos enough, lacks]
    rfl
  · have lacks : ¬ ((d : Int) - festoon s).toNat = 0 := by omega
    rw [if_neg lacks, if_neg enough]

/-- K follows Q only as far as the festoon lacks fabric. -/
theorem ovenMoved_board (s : State) : ∃ k u, Board { s with wt := { s.wt with
      q := s.wt.q + travelLeft s.wt.q (s.prof.ovenResolution - s.wt.ovenDebt)
      k := k
      ovenDebt := s.wt.ovenDebt - s.prof.ovenResolution
      ovenReverse := .none
      underrun := u } } (ovenMoved s) ∧
    (FestoonLaw s →
      k = s.wt.k + ((travelLeft s.wt.q (s.prof.ovenResolution - s.wt.ovenDebt) : Int) - festoon s).toNat) := by
  unfold ovenMoved
  split
  next still =>
    rw [still]
    refine ⟨s.wt.k, s.wt.underrun, Board.refl _, fun law => ?_⟩
    unfold FestoonLaw at law
    omega
  next =>
    have moved := ovenAdvance_board { s with
      wt.ovenDebt := s.wt.ovenDebt - s.prof.ovenResolution, wt.ovenReverse := .none }
      (travelLeft s.wt.q (s.prof.ovenResolution - s.wt.ovenDebt))
    rw [reanchor_eq] at moved
    exact ⟨_, _, moved, fun _ => rfl⟩

/-! ### Sections (R14) -/

/-- A count of an encoder takes the print position nowhere back, and K no farther than Q (R1, R6). -/
def Forward (s t : State) : Prop :=
  t.prof = s.prof ∧ s.wt.p ≤ t.wt.p ∧ (s.wt.q : Int) - s.wt.k ≤ (t.wt.q : Int) - t.wt.k

theorem inSection_table_iff (s : State) (r : Segment) :
    inSection s r .table = true ↔ (s.wt.p : Int) - r.pEnd < s.prof.tableExit := by
  simp only [inSection, onTable, decide_eq_true_eq]
  omega

theorem inSection_festoon_iff (s : State) (r : Segment) :
    inSection s r .festoon = true ↔ (s.prof.tableExit : Int) ≤ (s.wt.p : Int) - r.pEnd ∧ s.wt.q < r.pEnd + s.wt.k := by
  simp only [inSection, inFestoon, Bool.and_eq_true, decide_eq_true_eq]
  omega

theorem inSection_oven_iff (s : State) (r : Segment) :
    inSection s r .oven = true ↔
      r.pEnd + s.wt.k ≤ s.wt.q ∧ (s.wt.q : Int) - (r.pEnd + s.wt.k : Nat) < s.prof.ovenLength := by
  simp only [inSection, inOven, Bool.and_eq_true, decide_eq_true_eq]
  omega

theorem inSection_exited_iff (s : State) (r : Segment) :
    inSection s r .exited = true ↔ (s.prof.ovenLength : Int) ≤ (s.wt.q : Int) - (r.pEnd + s.wt.k : Nat) := by
  simp only [inSection, exited, decide_eq_true_eq]
  omega

/-- The section of a segment, read from the press to the exit (R14). -/
def sectionOf (s : State) (r : Segment) : FabricSection :=
  if (s.wt.p : Int) - r.pEnd < s.prof.tableExit then .table
  else if s.wt.q < r.pEnd + s.wt.k then .festoon
  else if (s.wt.q : Int) - (r.pEnd + s.wt.k : Nat) < s.prof.ovenLength then .oven
  else .exited

/-- Fabric in the oven has left the table, since the festoon between them is never negative (R6, R14). -/
theorem inSection_iff {s : State} (law : FestoonLaw s) (r : Segment) (x : FabricSection) :
    inSection s r x = true ↔ x = sectionOf s r := by
  unfold FestoonLaw festoon at law
  unfold sectionOf
  cases x with
  | table =>
    rw [inSection_table_iff]
    split_ifs <;> simp only [iff_true, iff_false] <;> omega
  | festoon =>
    rw [inSection_festoon_iff]
    split_ifs <;> simp only [iff_true, iff_false] <;> omega
  | oven =>
    rw [inSection_oven_iff]
    split_ifs <;> simp only [iff_true, iff_false] <;> omega
  | exited =>
    rw [inSection_exited_iff]
    split_ifs <;> simp only [iff_true, iff_false] <;> omega

theorem printReverseCount_board (s : State) : Board { s with
    wt.printDebt := min (s.wt.printDebt + s.prof.printResolution) Config.debtLimit
    wt.printReverse := stretchAfter s.wt.printReverse
      (decide (0 < s.wt.printDebt + s.prof.printResolution - Config.debtLimit)) } (printReverseCount s) :=
  reportReverse_board _ _ _ _

theorem ovenReverseCount_board (s : State) : Board { s with
    wt.ovenDebt := min (s.wt.ovenDebt + s.prof.ovenResolution) Config.debtLimit
    wt.ovenReverse := stretchAfter s.wt.ovenReverse
      (decide (0 < s.wt.ovenDebt + s.prof.ovenResolution - Config.debtLimit)) } (ovenReverseCount s) :=
  reportReverse_board _ _ _ _

theorem count_forward {s t : State} (law : FestoonLaw s) {c : Instr}
    (count : c = .printForwardCount ∨ c = .ovenForwardCount ∨ ∃ e, c = .reverseCount e) (runs : exec c s = .next t) :
    Forward s t := by
  have still : Forward s s := ⟨rfl, le_refl _, le_refl _⟩
  have taken {x : State} (fwd : Forward s x) (is : Host.Outcome.next (if takesEvents s then x else s) =
      (Host.Outcome.next t : Host.Outcome State Fault Refusal)) : Forward s t := by
    obtain rfl := Host.Outcome.next.inj is
    split
    · exact fwd
    · exact still
  have ofBoard {x y : State} (same : Board x y) (wt : x.wt.p = s.wt.p ∧ x.wt.q = s.wt.q ∧ x.wt.k = s.wt.k)
      (prof : x.prof = s.prof) : Forward s y := by
    refine ⟨same.prof.trans prof, ?_, ?_⟩
    · rw [same.p, wt.1]
    · rw [same.q, same.k, wt.2.1, wt.2.2]
  rcases count with rfl | rfl | ⟨e, rfl⟩
  · obtain ⟨u, moved⟩ := printMoved_board s
    obtain ⟨b, limited⟩ := reachLimit_ite_board (travelLeft s.wt.p (s.prof.printResolution - s.wt.printDebt) <
      s.prof.printResolution - s.wt.printDebt) (printMoved s)
    have ends := (moved.atLimit b).trans limited
    refine taken ⟨ends.prof, ?_, ?_⟩ ((exec_printForwardCount s).symm.trans runs)
    · rw [ends.p]
      exact Nat.le_add_right _ _
    · rw [ends.q, ends.k]
  · obtain ⟨k, u, moved, anchored⟩ := ovenMoved_board s
    obtain ⟨b, limited⟩ := reachLimit_ite_board (travelLeft s.wt.q (s.prof.ovenResolution - s.wt.ovenDebt) <
      s.prof.ovenResolution - s.wt.ovenDebt) (ovenMoved s)
    have ends := (moved.atLimit b).trans limited
    refine taken ⟨ends.prof, ?_, ?_⟩ ((exec_ovenForwardCount s).symm.trans runs)
    · rw [ends.p]
    · rw [ends.q, ends.k, anchored law]
      unfold FestoonLaw at law
      dsimp only
      omega
  · cases e with
    | print => exact taken (ofBoard (printReverseCount_board s) ⟨rfl, rfl, rfl⟩ rfl) ((exec_reverseCount_print s).symm.trans runs)
    | oven => exact taken (ofBoard (ovenReverseCount_board s) ⟨rfl, rfl, rfl⟩ rfl) ((exec_reverseCount_oven s).symm.trans runs)

/-- Settles O7: the conditions of R14 by arithmetic, and each count by where it leaves P, Q and K. -/
theorem sectionsFollowThePositions : Obligations.SectionsFollowThePositions := by
  unfold Obligations.SectionsFollowThePositions
  intro s r law
  refine ⟨⟨_, (inSection_iff law r _).2 rfl, fun y => (inSection_iff law r y).1⟩,
    inSection_table_iff s r, inSection_festoon_iff s r, inSection_oven_iff s r,
    inSection_exited_iff s r, fun c t count runs => ?_⟩
  obtain ⟨prof, p, turned⟩ := count_forward law count runs
  simp only [inSection_table_iff, inSection_oven_iff, inSection_exited_iff, prof]
  omega

/-! ### The line through an advance -/

theorem advanceOne_open {s : State} (isOpen : lineOpen s = true) : lineOpen (advanceOne s) = true :=
  (meetThresholds_orderly keepsTravel_offLine.closed.opened.orderly
    { s with wt.p := s.wt.p + 1, cp := detectorTravel s.cp } isOpen).2

theorem advanceBy_open (d : Nat) {s : State} (isOpen : lineOpen s = true) : lineOpen (advanceBy d s) = true := by
  induction d generalizing s with
  | zero => exact isOpen
  | succ d ih => exact ih (advanceOne_open isOpen)

theorem printAdvance_open {s : State} (d : Nat) (isOpen : lineOpen s = true) : lineOpen (printAdvance s d) = true := by
  have before : lineOpen (restartStandstill (endUnderrun s)) = lineOpen s :=
    lineOpen_of_calm fun _ C => C.trans (endUnderrun_closed C s) (C.quiet (restartStandstill_quiet _))
  have after (t : State) : lineOpen (deliverFestoon (driveTargets t)) = lineOpen t :=
    lineOpen_of_calm fun _ C => C.trans (driveTargets_closed C t) (deliverFestoon_closed C _)
  exact (after _).trans (advanceBy_open d (before.trans isOpen))

theorem ovenAdvance_open {s : State} (d : Nat) (isOpen : lineOpen s = true) : lineOpen (ovenAdvance s d) = true := by
  have after (t : State) : lineOpen (horizonIfClear (setbackAdvance (deliverFestoon t))) = lineOpen t :=
    lineOpen_of_calm fun _ C =>
      C.trans (C.trans (deliverFestoon_closed C t) (setbackAdvance_closed C _)) (horizonIfClear_closed C _)
  refine (after _).trans ?_
  rw [reanchor_eq]
  exact isOpen

theorem takesEvents_open {s : State} (takes : takesEvents s = true) : lineOpen s = true := by
  simpa [takesEvents] using (Bool.and_eq_true_iff.1 takes).2

/-! ### The position limit (R3) -/

theorem reachLimit_posted {s : State} (posted : s.wt.limitPosted = true) : reachLimit s = s := if_pos posted

theorem unstatedStation_le (n : Nat) : (wordOfNat (Config.unstatedStation n).val).toNat ≤ 16 := by
  have := (Config.unstatedStation n).isLt
  simp only [wordOfNat, BitVec.toNat_ofNat]
  omega

/-- The first count past the limit raises FAULT, and then reports it (R3). -/
theorem reachLimit_first {s : State} (unposted : s.wt.limitPosted = false) (isOpen : lineOpen s = true) :
    ∃ v p, RaisesFault { s with wt.limitPosted := true } v .trackingLost ∧ TrackingLost s.clock p ∧ p.first = 2#32 ∧
      reachLimit s = afterReport v p := by
  have raised := raiseFault_raises { s with wt.limitPosted := true } .trackingLost isOpen
  have clock := (board_calm.fault { s with wt.limitPosted := true } .trackingLost).clock
  refine ⟨_, postingOf (raiseFault { s with wt.limitPosted := true } .trackingLost) { kind := .trackingLost, first := some 2#32 }
    (raiseFault { s with wt.limitPosted := true } .trackingLost).clock, raised, ⟨rfl, ?_, clock⟩, rfl, ?_⟩
  · exact unstatedStation_le _
  · rw [reachLimit, if_neg (by simp [unposted]), post_eq]

theorem printMoved_open {s : State} (isOpen : lineOpen s = true) : lineOpen (printMoved s) = true := by
  unfold printMoved
  split
  · exact isOpen
  · exact printAdvance_open _ isOpen

theorem ovenMoved_open {s : State} (isOpen : lineOpen s = true) : lineOpen (ovenMoved s) = true := by
  unfold ovenMoved
  split
  · exact isOpen
  · exact ovenAdvance_open _ isOpen

/-- A count past the limit, once its travel is made (R3). -/
theorem limit_passed {s u : State} (isOpen : lineOpen u = true) (clock : u.clock = s.clock)
    (posted : u.wt.limitPosted = s.wt.limitPosted) {c : Instr} (runs : exec c s = .next (reachLimit u)) :
    (s.wt.limitPosted = true → exec c s = .next u) ∧
      (s.wt.limitPosted = false → ∃ v p, RaisesFault { u with wt.limitPosted := true } v .trackingLost ∧
        TrackingLost s.clock p ∧ p.first = 2#32 ∧ exec c s = .next (afterReport v p)) := by
  refine ⟨fun yes => ?_, fun no => ?_⟩
  · rw [runs, reachLimit_posted (posted.trans yes)]
  · obtain ⟨v, p, raised, lost, first, ends⟩ := reachLimit_first (posted.trans no) isOpen
    rw [clock] at lost
    exact ⟨v, p, raised, lost, first, by rw [runs, ends]⟩

/-- Settles O6: the travel left by the limit, and the report of the limit by whether it was posted. -/
theorem countsStopAtThePositionLimit : Obligations.CountsStopAtThePositionLimit := by
  unfold Obligations.CountsStopAtThePositionLimit
  intro s d takes
  have isOpen := takesEvents_open takes
  refine ⟨fun count within passes => ?_, fun count within passes => ?_⟩
  · have paid : s.prof.printResolution - s.wt.printDebt = d := by omega
    have owed : s.wt.printDebt - s.prof.printResolution = 0 := by omega
    have left : travelLeft s.wt.p d = Config.positionLimit - s.wt.p := Nat.min_eq_right (by omega)
    obtain ⟨u, moved⟩ := printMoved_board s
    rw [paid, owed, left] at moved
    have runs : exec .printForwardCount s = .next (reachLimit (printMoved s)) := by
      rw [exec_printForwardCount, if_pos takes, printForward_eq, paid, left, if_pos (by omega)]
    refine ⟨printMoved s, moved.undisturbed_tracker, moved.p.trans (Nat.add_sub_cancel' within),
      moved.printDebt, moved.limitPosted,
      fun there => ?_, limit_passed (s := s) (printMoved_open isOpen) moved.clock moved.limitPosted runs⟩
    rw [printMoved, paid, owed, left, there, Nat.sub_self, if_pos rfl]
  · have paid : s.prof.ovenResolution - s.wt.ovenDebt = d := by omega
    have owed : s.wt.ovenDebt - s.prof.ovenResolution = 0 := by omega
    have left : travelLeft s.wt.q d = Config.positionLimit - s.wt.q := Nat.min_eq_right (by omega)
    obtain ⟨k, u, moved, -⟩ := ovenMoved_board s
    rw [paid, owed, left] at moved
    have runs : exec .ovenForwardCount s = .next (reachLimit (ovenMoved s)) := by
      rw [exec_ovenForwardCount, if_pos takes, ovenForward_eq, paid, left, if_pos (by omega)]
    refine ⟨ovenMoved s, moved.undisturbed_tracker, moved.q.trans (Nat.add_sub_cancel' within), moved.ovenDebt,
      moved.limitPosted, fun there => ?_,
      limit_passed (s := s) (ovenMoved_open isOpen) moved.clock moved.limitPosted runs⟩
    rw [ovenMoved, paid, owed, left, there, Nat.sub_self, if_pos rfl]

/-! ### The festoon content delivered (R7, R151) -/

theorem compareMarks_lineOnly (s : State) : LineOnly s (compareMarks s) := by
  unfold compareMarks
  split
  · split
    · exact clearCauses_lineOnly s _
    · exact LineOnly.refl s
  · split
    · exact raiseCause_lineOnly s _ _
    · exact LineOnly.refl s

theorem LineOnly.tracker {s t : State} (h : LineOnly s t) :
    t.wt.p = s.wt.p ∧ t.wt.q = s.wt.q ∧ t.wt.k = s.wt.k ∧ t.wt.underrun = s.wt.underrun := by
  have p := congrArg WebTracker.p h.wt
  have q := congrArg WebTracker.q h.wt
  have k := congrArg WebTracker.k h.wt
  have underrun := congrArg WebTracker.underrun h.wt
  exact ⟨p, q, k, underrun⟩

theorem LineOnly.festoon_eq {s t : State} (h : LineOnly s t) : festoon t = festoon s := by
  obtain ⟨p, q, k, -⟩ := h.tracker
  rw [festoon, p, q, k, h.prof, festoon]

theorem compareMarks_below {s : State} (clear : s.lc.holds.festoon = false) (below : festoon s < s.prof.highMark) :
    compareMarks s = s := by
  simp [compareMarks, clear, below]

theorem compareMarks_high {s : State} (clear : s.lc.holds.festoon = false) (high : s.prof.highMark ≤ festoon s) :
    compareMarks s = raiseCause s .festoon none := by
  simp [compareMarks, clear, high]

theorem compareMarks_above {s : State} (held : s.lc.holds.festoon = true) (above : s.prof.resumeMark < festoon s) :
    compareMarks s = s := by
  simp [compareMarks, held, above]

theorem compareMarks_low {s : State} (held : s.lc.holds.festoon = true) (low : festoon s ≤ s.prof.resumeMark) :
    compareMarks s = clearCauses s { festoon := true } := by
  simp [compareMarks, held, low]

/-- FESTOON taken out of a set leaves the other causes. -/
theorem HoldSet.minus_festoon (h : HoldSet) : h.minus { festoon := true } = { h with festoon := false } := by
  simp [HoldSet.minus]

theorem HoldSet.other_than_festoon {h : HoldSet} (held : h.festoon = true) (more : h ≠ { festoon := true }) :
    (h.minus { festoon := true }).any = true := by
  rw [HoldSet.minus_festoon]
  by_contra empty
  apply more
  cases h
  simp_all [HoldSet.any]

/-- FESTOON cleared while other causes hold the line (R145, R151). -/
theorem clearFestoon_stays {s : State} (held : s.lc.holds.festoon = true) (more : s.lc.holds ≠ { festoon := true }) :
    clearCauses s { festoon := true } = { s with lc.holds := { s.lc.holds with festoon := false } } := by
  rw [clearCauses_stays (.inr (HoldSet.other_than_festoon held more)), HoldSet.minus_festoon]

/-- FESTOON cleared as the last cause: HOLD_OFF lists it (R147, R151). -/
theorem clearFestoon_exits {s : State} (isOpen : lineOpen s = true) (only : s.lc.holds = { festoon := true }) :
    clearCauses s { festoon := true } =
      { afterReport s
        { kind := .holdOff, tag := entryTag s, station := 0#32, serial := wordOfNat s.wt.nextSerial, clock := s.clock,
          first := 4#32, second := s.clock - s.lc.holdStart } with
        lc := { s.lc with holds := {}, permit := true } } := by
  rw [clearCauses_exits isOpen (by rw [only]; rfl) (by rw [only]; rfl), only]
  rfl

theorem compareMarks_armed (s : State) : (compareMarks s).wt.overfillArmed = s.wt.overfillArmed := by
  have raised : (raiseCause s .festoon none).wt.overfillArmed = s.wt.overfillArmed := by
    by_cases isOpen : lineOpen s = true
    · by_cases held : s.lc.holds.any = true
      · rw [raiseCause_held isOpen held]
      · have entered := (raiseCause_enters isOpen (by simpa using held) .festoon).rest
        rw [entered]
    · rw [raiseCause_closed (by simpa using isOpen)]
  have cleared : (clearCauses s { festoon := true }).wt.overfillArmed = s.wt.overfillArmed := by
    unfold clearCauses
    dsimp only
    split
    · rw [holdExit_posts]
      rfl
    · rfl
  unfold compareMarks
  split
  · split
    · exact cleared
    · rfl
  · split
    · exact raised
    · rfl

theorem checkOverfill_within {s : State} (within : festoon s ≤ s.prof.festoonCapacity) :
    checkOverfill s = { s with wt.overfillArmed := true } := if_neg (Int.not_lt.2 within)

theorem checkOverfill_spent {s : State} (full : s.prof.festoonCapacity < festoon s) (spent : s.wt.overfillArmed = false) :
    checkOverfill s = s := by
  simp [checkOverfill, full, spent]

/-- The first overfill since the content came back raises FAULT (R7). -/
theorem checkOverfill_raises {s : State} (isOpen : lineOpen s = true) (full : s.prof.festoonCapacity < festoon s)
    (armed : s.wt.overfillArmed = true) :
    RaisesFault { s with wt.overfillArmed := false } (checkOverfill s) .festoonOverfill := by
  rw [checkOverfill, if_pos full, if_pos armed]
  exact raiseFault_raises { s with wt.overfillArmed := false } .festoonOverfill isOpen

/-! ### The oven advance part by part (R126, R127, R18) -/

/-- The setback ended by an oven advance at the state `y` (R126, R127). -/
theorem setbackAdvance_eq (s : State) :
    setbackAdvance s =
      if s.ci.setback then
        afterReport { s with ci := { s.ci with setback := false, setbackTimer := .running s.clock } }
          { kind := .setbackOff, tag := 0#32, station := 0#32, serial := 0#32, clock := s.clock,
            first := wordOfNat (s.wt.q / 1000), second := s.clock - s.ci.setbackStart }
      else { s with ci := { s.ci with setback := false, setbackTimer := .running s.clock } } := by
  unfold setbackAdvance
  split
  next => rw [post_eq]; rfl
  next off =>
    have off : s.ci.setback = false := by simpa using off
    rw [← off]
    rfl

theorem exitWaits_iff (s : State) : exitWaits s = true ↔ ∃ r, s.wt.map.head? = some r ∧ exited s r = true := by
  unfold exitWaits
  cases s.wt.map <;> simp

theorem horizonIfClear_waits {s : State}
    (waits : s.co.waiting.isSome = true ∨ ∃ r, s.wt.map.head? = some r ∧ exited s r = true) : horizonIfClear s = s := by
  unfold horizonIfClear
  rw [← exitWaits_iff] at waits
  rw [if_pos (by rcases waits with h | h <;> simp [h])]

theorem horizonIfClear_clear {s : State} (free : s.co.waiting = none)
    (inside : ∀ r, s.wt.map.head? = some r → exited s r = false) : horizonIfClear s = giveHorizon s := by
  have none' : exitWaits s = false := by
    by_contra waits
    obtain ⟨r, head, out⟩ := (exitWaits_iff s).1 (by simpa using waits)
    exact Bool.noConfusion ((inside r head).symm.trans out)
  unfold horizonIfClear
  rw [if_neg (by simp [none', free])]

theorem giveHorizon_eq (s : State) {x : Int} (position : x = (s.wt.q : Int) - s.wt.k - s.prof.ovenLength) :
    giveHorizon s = if x < 0 then s else testClose { s with wt.horizon := some x.toNat } := by
  subst position
  rfl

theorem horizonIfClear_keeps (s : State) :
    (horizonIfClear s).wt.underrun = s.wt.underrun ∧ (horizonIfClear s).ci = s.ci := by
  unfold horizonIfClear giveHorizon
  dsimp only
  split
  · exact ⟨rfl, rfl⟩
  · split
    · exact ⟨rfl, rfl⟩
    · obtain ⟨l, y, x, e, n, same⟩ := testClose_eq { s with
        wt.horizon := some ((s.wt.q : Int) - s.wt.k - s.prof.ovenLength).toNat }
      rw [same]
      exact ⟨rfl, rfl⟩

/-- An oven count with travel beyond the debt, within the position limit (R1, R3). -/
theorem exec_ovenForwardCount_moves {s : State} {d : Nat} (takes : takesEvents s = true)
    (count : s.prof.ovenResolution = s.wt.ovenDebt + d) (moves : 0 < d) (within : s.wt.q + d ≤ Config.positionLimit) :
    exec .ovenForwardCount s = .next (ovenAdvance { s with wt.ovenDebt := 0, wt.ovenReverse := .none } d) := by
  have paid : s.prof.ovenResolution - s.wt.ovenDebt = d := by omega
  have owed : s.wt.ovenDebt - s.prof.ovenResolution = 0 := by omega
  have left : travelLeft s.wt.q d = d := Nat.min_eq_left (by omega)
  rw [exec_ovenForwardCount, if_pos takes, ovenForward_eq, paid, left, if_neg (Nat.lt_irrefl d), ovenMoved, paid, owed, left,
    if_neg (Nat.ne_of_gt moves)]

/-- The state of an oven advance with Q, K and the underrun moved, before the festoon content is delivered (R1, R6). -/
def turned (s : State) (d : Nat) : State :=
  { s with wt := { s.wt with
    q := s.wt.q + d
    k := s.wt.k + ((d : Int) - festoon s).toNat
    ovenDebt := 0
    ovenReverse := .none
    underrun := if (d : Int) ≤ festoon s then s.wt.underrun
      else some (min (s.wt.underrun.getD 0 + ((d : Int) - festoon s).toNat) 4294967295) } }

theorem ovenAdvance_turned (s : State) (d : Nat) :
    ovenAdvance { s with wt.ovenDebt := 0, wt.ovenReverse := .none } d =
      horizonIfClear (setbackAdvance (deliverFestoon (turned s d))) := by
  rw [ovenAdvance, reanchor_eq]
  rfl

/-- Settles O5: the advance is its travel with re-anchoring, the content delivered, the setback ended and the horizon judged;
the content delivered is the two marks and then the overfill detection. -/
theorem ovenAdvanceMovesTheConveyor : Obligations.OvenAdvanceMovesTheConveyor := by
  unfold Obligations.OvenAdvanceMovesTheConveyor
  refine ⟨fun s d takes count moves within => ?_, ?_⟩
  · have runs := exec_ovenForwardCount_moves takes count moves within
    rw [ovenAdvance_turned] at runs
    have line := deliverFestoon_lineOnly (turned s d)
    obtain ⟨-, q, k, underrun⟩ := line.tracker
    have setback : setbackAdvance (deliverFestoon (turned s d)) = if s.ci.setback then
        afterReport { deliverFestoon (turned s d) with
            ci := { s.ci with setback := false, setbackTimer := .running s.clock } }
          { kind := .setbackOff, tag := 0#32, station := 0#32, serial := 0#32, clock := s.clock,
            first := wordOfNat ((s.wt.q + d) / 1000), second := s.clock - s.ci.setbackStart }
      else { deliverFestoon (turned s d) with ci := { s.ci with setback := false, setbackTimer := .running s.clock } } := by
      have ci : (deliverFestoon (turned s d)).ci = s.ci := line.ci
      have clock : (deliverFestoon (turned s d)).clock = s.clock := line.clock
      have q : (deliverFestoon (turned s d)).wt.q = s.wt.q + d := q
      rw [setbackAdvance_eq]
      dsimp only
      rw [ci, clock, q]
    have afterSetback : (setbackAdvance (deliverFestoon (turned s d))).wt = (deliverFestoon (turned s d)).wt ∧
        (setbackAdvance (deliverFestoon (turned s d))).ci =
          { s.ci with setback := false, setbackTimer := .running s.clock } ∧
        (setbackAdvance (deliverFestoon (turned s d))).prof = s.prof := by
      rw [setback]
      split
      · exact ⟨rfl, rfl, line.prof⟩
      · exact ⟨rfl, rfl, line.prof⟩
    obtain ⟨wt, ci, prof⟩ := afterSetback
    refine ⟨?_, ?_⟩
    · have moved := ovenAdvance_board { s with wt.ovenDebt := 0, wt.ovenReverse := .none } d
      have isOpen := ovenAdvance_open (s := { s with wt.ovenDebt := 0, wt.ovenReverse := .none }) d (takesEvents_open takes)
      obtain ⟨keptUnderrun, keptCi⟩ := horizonIfClear_keeps (setbackAdvance (deliverFestoon (turned s d)))
      rw [reanchor_eq, ovenAdvance_turned] at moved
      rw [ovenAdvance_turned] at isOpen
      refine ⟨_, runs, Board.undisturbed_tracker (s := s) moved, moved.q, moved.ovenDebt, moved.ovenReverse, moved.k, ?_, ?_, ?_,
        ⟨moved.p, moved.printDebt, moved.printReverse⟩, moved.zones, isOpen⟩
      · rw [keptUnderrun, wt, underrun]
        rfl
      · rw [keptCi, ci]
      · rw [keptCi, ci]
    · intro u v w hu hv hw
      obtain rfl : u = turned s d := hu
      subst hv
      obtain rfl : w = setbackAdvance (deliverFestoon (turned s d)) := hw.trans setback.symm
      refine ⟨fun waits => ?_, fun x free inside position => ?_⟩
      · rw [runs, horizonIfClear_waits waits]
      · have horizon := giveHorizon_eq (setbackAdvance (deliverFestoon (turned s d))) (x := x)
          (by rw [wt, q, k, prof]; exact position)
        rw [runs, horizonIfClear_clear free inside, horizon]
        exact ⟨fun negative => by rw [if_pos negative], fun positive => by rw [if_neg (Int.not_lt.2 positive)]⟩
  · rintro u f rfl isOpen
    have line := compareMarks_lineOnly u
    have same := line.festoon_eq
    refine ⟨compareMarks u, compareMarks_below, fun clear high => ⟨fun held => ?_, fun empty => ?_⟩, compareMarks_above,
      fun held low => ⟨fun more => ?_, fun only => ?_⟩, fun within => ?_, fun full spent => ?_, fun full armed => ?_⟩
    · rw [compareMarks_high clear high, raiseCause_held isOpen held]
      simp [HoldSet.join, holdOf]
    · rw [compareMarks_high clear high]
      exact raiseCause_enters isOpen empty .festoon
    · rw [compareMarks_low held low, clearFestoon_stays held more]
    · rw [compareMarks_low held low, clearFestoon_exits isOpen only]
    · exact checkOverfill_within (by rwa [same, line.prof])
    · exact checkOverfill_spent (by rwa [same, line.prof]) ((compareMarks_armed u).trans spent)
    · exact checkOverfill_raises ((lineOpen_of_calm fun _ C => compareMarks_closed C u).trans isOpen)
        (by rwa [same, line.prof]) ((compareMarks_armed u).trans armed)

end Sys2Proof.Machine
end

section
/-! PROOF. A print advance: its parts in order, the actors due at a position, the phase targets (R1, R5, R6, R86, R150). -/

namespace Sys2Proof.Machine

/-! ### Phase targets (R86) -/

/-- A station's phase with its target at the present P (R86). -/
def targeted (s : State) (i : Station) (p : PhaseStation) : PhaseStation :=
  if (s.stationCfg i).inService then
    { p with
      target := targetOf ((s.wt.p : Int) - p.origin - (s.stationCfg i).distance - (p.base + p.trim + p.correction))
        (s.stationCfg i).circumference }
  else p

theorem driveTarget_phaseOnly {s t : State} (h : PhaseOnly s t) (i : Station) : PhaseOnly s (driveTarget t i) := by
  unfold driveTarget
  split
  · exact h.setPhase i _
  · exact h

theorem driveTarget_phase_of_ne (s : State) (i j : Station) (other : j ≠ i) :
    (driveTarget s i).phase j = s.phase j := by
  unfold driveTarget
  split
  · exact State.setPhase_phase_of_ne _ _ _ _ other.symm
  · rfl

theorem driveTarget_phase (s : State) (i : Station) : (driveTarget s i).phase i = targeted s i (s.phase i) := by
  unfold driveTarget targeted
  split
  · exact State.setPhase_phase_self _ _ _
  · rfl

theorem driveTargets_fold (s : State) : driveTargets s = stationList.foldl driveTarget s := rfl

theorem driveTargets_phaseOnly (s : State) : PhaseOnly s (driveTargets s) := by
  rw [driveTargets_fold]
  exact foldl_keeps (P := PhaseOnly s) (f := driveTarget) (fun _ i h => driveTarget_phaseOnly h i) stationList (.refl s)

theorem PhaseOnly.cfg {s t : State} (h : PhaseOnly s t) (i : Station) : t.stationCfg i = s.stationCfg i := by
  rw [h]
  rfl

theorem PhaseOnly.position {s t : State} (h : PhaseOnly s t) : t.wt.p = s.wt.p := by rw [h]

theorem driveTargets_phase (s : State) (i : Station) : (driveTargets s).phase i = targeted s i (s.phase i) := by
  rw [driveTargets_fold]
  refine foldl_local (P := PhaseOnly s) (get := State.phase) (f := driveTarget) (g := targeted s i)
    (fun _ i h => driveTarget_phaseOnly h i) driveTarget_phase_of_ne (fun t h => ?_) stationList_nodup (mem_stationList i)
    (.refl s)
  rw [driveTarget_phase, targeted, targeted, h.cfg, h.position]

/-- A phase with the target of R86 at the present P. -/
theorem target_of_targeted {s t : State} {i : Station} (only : PhaseOnly s t) (phase : t.phase i = targeted s i (s.phase i))
    (inService : (s.stationCfg i).inService = true) :
    (t.phase i).target = targetOf (phaseX t i) (s.stationCfg i).circumference := by
  rw [phaseX, only.cfg, only.position, phase, targeted, if_pos inService]
  rfl

/-- A station in service has the target of R86 at the present P once the targets are driven. -/
theorem driveTargets_target (s : State) {i : Station} (inService : (s.stationCfg i).inService = true) :
    ((driveTargets s).phase i).target = targetOf (phaseX (driveTargets s) i) (s.stationCfg i).circumference :=
  target_of_targeted (driveTargets_phaseOnly s) (driveTargets_phase s i) inService

/-- What the phase targets driven leave as it was (R86). -/
theorem driveTargets_moves (u : State) : ∃ t, driveTargets u = t ∧
    t = { u with pu := { u.pu with stations := t.pu.stations } } ∧ ∀ i, t.phase i = targeted u i (u.phase i) := by
  have only := driveTargets_phaseOnly u
  have phase := driveTargets_phase u
  generalize driveTargets u = t at only phase
  exact ⟨t, rfl, only, phase⟩

/-! ### The actors due at a position (R1; log entry 6) -/

theorem insertActor_perm (key : Actor → Nat) (a : Actor) (l : List Actor) : (insertActor key a l).Perm (a :: l) := by
  induction l with
  | nil => exact .refl _
  | cons b rest ih =>
    unfold insertActor
    split
    · exact (ih.cons b).trans (.swap a b rest)
    · exact .refl _

theorem orderOfActors_perm (draw : Nat) (due : List Actor) : (orderOfActors draw due).Perm due := by
  have sorted (l acc : List Actor) :
      (l.foldl (fun acc a => insertActor (fun x => Config.tieKey draw x.code) a acc) acc).Perm (l ++ acc) := by
    induction l generalizing acc with
    | nil => exact .refl _
    | cons a rest ih =>
      rw [List.foldl_cons]
      exact (ih _).trans (((insertActor_perm _ a acc).append_left rest).trans List.perm_middle)
  have all := sorted due []
  rwa [List.append_nil] at all

theorem actorList_nodup : actorList.Nodup := by decide

theorem mem_actorList (a : Actor) : a ∈ actorList := by
  cases a <;> decide

/-- The actors due at a position. -/
def actorsDue (s : State) : List Actor := actorList.filter (actorDue s)

theorem mem_actorsDue (s : State) (a : Actor) : a ∈ actorsDue s ↔ actorDue s a = true := by
  rw [actorsDue, List.mem_filter, and_iff_right (mem_actorList a)]

theorem actorsDue_nodup (s : State) : (actorsDue s).Nodup := actorList_nodup.filter _

theorem meetThresholds_eq (s : State) : ∃ order : List Actor, order.Nodup ∧ (∀ a, a ∈ order ↔ actorDue s a = true) ∧
    meetThresholds s = order.foldl act (if 2 ≤ order.length then { s with draws := s.draws + 1 } else s) := by
  have once := actorsDue_nodup s
  have mem := mem_actorsDue s
  unfold meetThresholds
  rw [← actorsDue]
  match due : actorsDue s with
  | [] =>
    rw [due] at mem
    exact ⟨[], List.nodup_nil, mem, rfl⟩
  | [a] =>
    rw [due] at mem
    exact ⟨[a], List.nodup_singleton a, mem, rfl⟩
  | a :: b :: rest =>
    rw [due] at once mem
    have perm := orderOfActors_perm s.draws (a :: b :: rest)
    refine ⟨orderOfActors s.draws (a :: b :: rest), perm.nodup_iff.2 once, fun x => perm.mem_iff.trans (mem x), ?_⟩
    rw [if_pos (by rw [perm.length_eq]; simp)]

theorem meetThresholds_none {s : State} (still : ∀ a, actorDue s a = false) : meetThresholds s = s := by
  obtain ⟨order, -, mem, meets⟩ := meetThresholds_eq s
  cases order with
  | nil => exact meets
  | cons a rest => exact absurd ((mem a).1 List.mem_cons_self) (by simp [still a])

theorem meetThresholds_one {s : State} {a : Actor} (due : actorDue s a = true) (others : ∀ b, b ≠ a → actorDue s b = false) :
    meetThresholds s = act s a := by
  obtain ⟨order, once, mem, meets⟩ := meetThresholds_eq s
  have only (b : Actor) (h : b ∈ order) : b = a := by
    by_contra other
    exact Bool.noConfusion ((others b other).symm.trans ((mem b).1 h))
  have one : order = [a] := List.perm_singleton.1 ((List.perm_ext_iff_of_nodup once (List.nodup_singleton a)).2 fun b =>
    ⟨fun h => List.mem_singleton.2 (only b h), fun h => List.mem_singleton.1 h ▸ (mem a).2 due⟩)
  rw [meets, one]
  rfl

theorem switchHere_isSome_iff (s : State) (i : Station) :
    (switchHere s i).isSome = true ↔ ∃ o ∈ s.pu.switches, o + (s.stationCfg i).distance = s.wt.p := by
  simp [switchHere]

theorem settlesNow_iff (s : State) (i : Station) :
    settlesNow s i = true ↔ ∃ p, (s.phase i).settle = some p ∧ p ≤ s.wt.p := by
  unfold settlesNow
  cases (s.phase i).settle <;> simp

theorem anyStation_iff (p : Station → Bool) : stationList.any p = true ↔ ∃ i, p i = true := by
  simp [List.any_eq_true, mem_stationList]

/-! ### The parts of a print advance -/

/-- The seam detector's travel while it watches a level (R56). -/
theorem detectorTravel_eq (c : CutPlanner) :
    detectorTravel c = { c with
      travel := if c.detector = .rising ∨ c.detector = .clearing then c.travel + 1 else c.travel } := by
  unfold detectorTravel
  split
  next rising => rw [if_pos (.inl rising)]
  next clearing => rw [if_pos (.inr clearing)]
  next idle => rw [if_neg (by simp [idle])]
  next latched => rw [if_neg (by simp [latched])]

theorem advanceOne_eq (s : State) :
    advanceOne s = meetThresholds { s with
      wt.p := s.wt.p + 1
      cp.travel := if s.cp.detector = .rising ∨ s.cp.detector = .clearing then s.cp.travel + 1 else s.cp.travel } := by
  rw [advanceOne, detectorTravel_eq]

theorem endUnderrun_none {s : State} (none' : s.wt.underrun = none) : endUnderrun s = s := by
  rw [endUnderrun, none']

/-- UNDERRUN at the end of an episode (R6). -/
theorem endUnderrun_some {s : State} {total : Nat} (open' : s.wt.underrun = some total) :
    endUnderrun s = afterReport { s with wt.underrun := none }
      { kind := .underrun, tag := Config.unstatedField s.draws 0, station := 0#32, serial := 0#32, clock := s.clock,
        first := wordOfNat total, second := wordOfNat (s.wt.k / 1000) } := by
  rw [endUnderrun, open']
  exact post_eq _ _

theorem restartStandstill_eq (s : State) :
    restartStandstill s = { s with lc.standstill := match s.lc.standstill with
      | .stopped => .stopped
      | .running _ => .running s.clock } := by
  obtain ⟨clock, lc⟩ := s
  obtain ⟨line, holds, start, fault, engaged, standstill⟩ := lc
  cases standstill <;> rfl

/-- The state of a print advance before P moves: the debt paid, the underrun ended, the standstill timer restarted. -/
def printReady (s : State) : State :=
  { s with
    wt := { s.wt with printDebt := 0, printReverse := .none, underrun := none }
    lc.standstill := match s.lc.standstill with
      | .stopped => .stopped
      | .running _ => .running s.clock }

theorem printReady_of_none {s : State} (none' : s.wt.underrun = none) :
    restartStandstill (endUnderrun { s with wt.printDebt := 0, wt.printReverse := .none }) = printReady s := by
  rw [endUnderrun_none (s := { s with wt.printDebt := 0, wt.printReverse := .none }) none', restartStandstill_eq, printReady,
    ← none']

theorem printReady_of_some {s : State} {total : Nat} (open' : s.wt.underrun = some total) :
    restartStandstill (endUnderrun { s with wt.printDebt := 0, wt.printReverse := .none }) =
      afterReport (printReady s)
        { kind := .underrun, tag := Config.unstatedField s.draws 0, station := 0#32, serial := 0#32, clock := s.clock,
          first := wordOfNat total, second := wordOfNat (s.wt.k / 1000) } := by
  rw [endUnderrun_some (s := { s with wt.printDebt := 0, wt.printReverse := .none }) open', restartStandstill_eq]
  rfl

/-- A print count with travel beyond the debt, within the position limit (R1, R3). -/
theorem exec_printForwardCount_moves {s : State} {d : Nat} (takes : takesEvents s = true)
    (count : s.prof.printResolution = s.wt.printDebt + d) (moves : 0 < d) (within : s.wt.p + d ≤ Config.positionLimit) :
    exec .printForwardCount s = .next (printAdvance { s with wt.printDebt := 0, wt.printReverse := .none } d) := by
  have paid : s.prof.printResolution - s.wt.printDebt = d := by omega
  have owed : s.wt.printDebt - s.prof.printResolution = 0 := by omega
  have left : travelLeft s.wt.p d = d := Nat.min_eq_left (by omega)
  rw [exec_printForwardCount, if_pos takes, printForward_eq, paid, left, if_neg (Nat.lt_irrefl d), printMoved, paid, owed,
    left, if_neg (Nat.ne_of_gt moves)]

/-- The targets stand at the end of an advance: the content delivered last touches neither them nor P. -/
theorem deliverFestoon_target (s : State) {i : Station} (inService : (s.stationCfg i).inService = true) :
    ((deliverFestoon (driveTargets s)).phase i).target =
      targetOf (phaseX (deliverFestoon (driveTargets s)) i) (s.stationCfg i).circumference := by
  have line := deliverFestoon_lineOnly (driveTargets s)
  obtain ⟨p, -, -, -⟩ := line.tracker
  have same : (deliverFestoon (driveTargets s)).phase i = (driveTargets s).phase i := congrArg (·.stations.get i) line.pu
  have cfg : (deliverFestoon (driveTargets s)).stationCfg i = (driveTargets s).stationCfg i :=
    congrArg (·.stations.get i) line.prof
  rw [phaseX, same, cfg, p, ← phaseX]
  exact driveTargets_target s inService

theorem printAdvance_target (s : State) (d : Nat) {i : Station} (inService : (s.stationCfg i).inService = true) :
    ((printAdvance s d).phase i).target = targetOf (phaseX (printAdvance s d) i) (s.stationCfg i).circumference := by
  have before : Board s { restartStandstill (endUnderrun s) with wt := { (restartStandstill (endUnderrun s)).wt with
      underrun := s.wt.underrun } } := by
    have ends := (endUnderrun_board s).trans (restartStandstill_quiet _).board
    exact { ends with underrun := id }
  have cfg : (advanceBy d (restartStandstill (endUnderrun s))).stationCfg i = s.stationCfg i :=
    congrArg (·.stations.get i) ((advanceBy_board d (restartStandstill (endUnderrun s))).prof.trans before.prof)
  rw [printAdvance, ← cfg]
  exact deliverFestoon_target _ (cfg ▸ inService)

/-- What a print count that moves P leaves (R1, R3). -/
theorem printForwardCount_moves {s : State} {d : Nat} (takes : takesEvents s = true)
    (count : s.prof.printResolution = s.wt.printDebt + d) (moves : 0 < d) (within : s.wt.p + d ≤ Config.positionLimit) :
    ∃ t, exec .printForwardCount s = .next t ∧
      Board { s with wt := { s.wt with p := s.wt.p + d, printDebt := 0, printReverse := .none, underrun := none } } t ∧
      lineOpen t = true ∧
      ∀ i, (s.stationCfg i).inService = true →
        (t.phase i).target = targetOf (phaseX t i) (s.stationCfg i).circumference :=
  ⟨_, exec_printForwardCount_moves takes count moves within,
    printAdvance_board { s with wt.printDebt := 0, wt.printReverse := .none } d,
    printAdvance_open (s := { s with wt.printDebt := 0, wt.printReverse := .none }) d (takesEvents_open takes),
    fun _ inService => printAdvance_target { s with wt.printDebt := 0, wt.printReverse := .none } d inService⟩

/-- Settles O4: the advance is taken apart into the underrun's end, the standstill timer, the positions one by one, the
targets and the content; the actors of a position by their permutation. -/
theorem printAdvanceMovesTheBlanket : Obligations.PrintAdvanceMovesTheBlanket := by
  unfold Obligations.PrintAdvanceMovesTheBlanket
  intro s d takes count moves within
  have runs := exec_printForwardCount_moves takes count moves within
  refine ⟨?_, ?_, ?_, fun u => ⟨⟨rfl, fun n => ?_⟩, meetThresholds_eq u, ?_, driveTargets_moves u⟩⟩
  · obtain ⟨t, runs, moved, isOpen, targets⟩ := printForwardCount_moves takes count moves within
    exact ⟨t, runs, moved.undisturbed_tracker, moved.p, moved.printDebt, moved.printReverse, moved.underrun rfl,
      ⟨moved.q, moved.k, moved.ovenDebt, moved.ovenReverse⟩, moved.zones, isOpen, targets⟩
  · rintro u rfl none' stopped hu
    have ready : printReady s = { s with wt := { s.wt with printDebt := 0, printReverse := .none } } := by
      rw [printReady, stopped]
      dsimp only
      rw [← none', ← stopped]
    have first : advanceBy 1 (printReady s) = meetThresholds u := by
      rw [advanceBy, advanceBy, advanceOne_eq, ready, hu]
    rw [runs, printAdvance, printReady_of_none none', first]
    exact ⟨fun still => by rw [meetThresholds_none still], fun a due others => by rw [meetThresholds_one due others]⟩
  · refine ⟨Config.unstatedField s.draws 0, fun base hbase => ?_⟩
    obtain rfl : base = printReady s := hbase
    rw [runs, printAdvance]
    cases episode : s.wt.underrun with
    | none => rw [printReady_of_none episode]
    | some total =>
      rw [printReady_of_some episode]
  · rw [← advanceOne_eq, advanceBy]
  · refine ⟨⟨rfl, rfl⟩, ⟨rfl, rfl⟩, ⟨anyStation_iff _, rfl⟩, ⟨?_, rfl⟩, ⟨?_, rfl⟩, ⟨rfl, rfl⟩, ⟨?_, rfl⟩, ⟨?_, rfl⟩, ⟨rfl, rfl⟩,
      ?_, rfl⟩
    · exact (anyStation_iff fun i => (u.stationCfg i).inService && (switchHere u i).isSome).trans
        (exists_congr fun i => by rw [Bool.and_eq_true, switchHere_isSome_iff])
    · exact (anyStation_iff (settlesNow u)).trans (exists_congr fun i => settlesNow_iff u i)
    · simp [actorDue]
    · simp [actorDue]
    · simp [actorDue]

end Sys2Proof.Machine
end

section
/-! PROOF. The end of the entry order (R40 to R42) and the confirm point (R31, R34). -/

namespace Sys2Proof.Machine

/-! ### The ends (R40, R41) -/

theorem leastEnd_eq (r : InFlight) :
    leastEnd r = min (min (plannedEnd r.order r.origin) ((r.seamEnd.map Prod.snd).getD (plannedEnd r.order r.origin)))
      (r.proofEnd.getD (plannedEnd r.order r.origin)) := by
  unfold leastEnd
  cases r.seamEnd with
  | none => cases r.proofEnd <;> simp
  | some seam => cases r.proofEnd <;> simp

theorem leastEnd_le_planned (r : InFlight) : leastEnd r ≤ plannedEnd r.order r.origin := by
  rw [leastEnd_eq]
  omega

theorem leastEnd_le_seam {r : InFlight} {n e : Nat} (seam : r.seamEnd = some (n, e)) : leastEnd r ≤ e := by
  rw [leastEnd_eq, seam, Option.map_some, Option.getD_some]
  omega

theorem leastEnd_le_proof {r : InFlight} {e : Nat} (proof : r.proofEnd = some e) : leastEnd r ≤ e := by
  rw [leastEnd_eq, proof, Option.getD_some]
  omega

theorem leastEnd_cases (r : InFlight) :
    leastEnd r = plannedEnd r.order r.origin ∨ (∃ n, r.seamEnd = some (n, leastEnd r)) ∨ r.proofEnd = some (leastEnd r) := by
  unfold leastEnd
  cases seam : r.seamEnd with
  | none =>
    cases proof : r.proofEnd with
    | none => exact .inl rfl
    | some e =>
      rcases min_choice (plannedEnd r.order r.origin) e with least | least
      · exact .inl least
      · exact .inr (.inr (congrArg some least.symm))
  | some x =>
    obtain ⟨n, z⟩ := x
    cases proof : r.proofEnd with
    | none =>
      rcases min_choice (plannedEnd r.order r.origin) z with least | least
      · exact .inl least
      · exact .inr (.inl ⟨n, congrArg (fun y => some (n, y)) least.symm⟩)
    | some e =>
      rcases min_choice (min (plannedEnd r.order r.origin) z) e with least | least
      · rcases min_choice (plannedEnd r.order r.origin) z with inner | inner
        · exact .inl (least.trans inner)
        · exact .inr (.inl ⟨n, congrArg (fun y => some (n, y)) (least.trans inner).symm⟩)
      · exact .inr (.inr (congrArg some least.symm))

/-- The first repeat boundary greater than a position at or after the origin (R42). -/
theorem boundaryAfter_least {origin length p : Nat} (after : origin ≤ p) (long : 0 < length) :
    (∃ j, boundaryAfter origin length p = origin + j * length) ∧ p < boundaryAfter origin length p ∧
      ∀ j, p < origin + j * length → boundaryAfter origin length p ≤ origin + j * length := by
  unfold boundaryAfter
  refine ⟨⟨_, rfl⟩, ?_, fun j ahead => ?_⟩
  · have := (Nat.div_lt_iff_lt_mul long).1 (Nat.lt_succ_self ((p - origin) / length))
    rw [Nat.succ_eq_add_one] at this
    omega
  · have index := (Nat.div_lt_iff_lt_mul long).2 (show p - origin < j * length by omega)
    exact Nat.add_le_add_left (Nat.mul_le_mul_right length index) origin

/-- The first repeat boundary at or after a position at or after the origin (R41). -/
theorem boundaryFrom_least {origin length z : Nat} (long : 0 < length) :
    (∃ j, boundaryFrom origin length z = origin + j * length) ∧ z ≤ boundaryFrom origin length z ∧
      ∀ j, z ≤ origin + j * length → boundaryFrom origin length z ≤ origin + j * length := by
  unfold boundaryFrom
  refine ⟨⟨_, rfl⟩, ?_, fun j ahead => ?_⟩
  · have := (Nat.div_lt_iff_lt_mul long).1 (Nat.lt_succ_self ((z - origin + length - 1) / length))
    rw [Nat.succ_mul] at this
    omega
  · have next : z - origin + length - 1 < (j + 1) * length := by
      rw [Nat.succ_mul]
      omega
    have index := Nat.lt_succ_iff.1 ((Nat.div_lt_iff_lt_mul long).2 next)
    exact Nat.add_le_add_left (Nat.mul_le_mul_right length index) origin

theorem seamEndAt_design {r : InFlight} (design : r.order.kind = .print ∨ r.order.kind = .proof) (z : Nat) :
    seamEndAt r z = boundaryFrom r.origin r.order.length z := by
  rcases design with kind | kind <;> simp [seamEndAt, printsDesign, kind]

theorem seamEndAt_blank {r : InFlight} (kind : r.order.kind = .blank) (z : Nat) : seamEndAt r z = z := by
  simp [seamEndAt, printsDesign, kind]

/-! ### The seam that ends the order (R41) -/

theorem seamEndNow_none {r : InFlight} (q : List SeamEntry) (no : r.order.endCondition = .count ∨ r.order.kind = .halt) :
    seamEndNow r q = none := by
  unfold seamEndNow
  rcases no with count | halt
  · rw [count]
  · rw [halt]
    cases r.order.endCondition <;> rfl

theorem seamEndNow_seam {r : InFlight} (q : List SeamEntry) (cond : r.order.endCondition = .seam)
    (kind : r.order.kind ≠ .halt) :
    seamEndNow r q = match r.seamEnd with
      | none => firstSeamEnd r q
      | some (seam, finish) =>
        match q.find? (fun e => e.position == seam) with
        | none => some (seam, finish)
        | some e => if seamCounts r e then some (seam, seamEndAt r e.zoneEnd) else firstSeamEnd r q := by
  unfold seamEndNow
  rw [cond]
  cases h : r.order.kind with
  | halt => exact absurd h kind
  | print => rfl
  | proof => rfl
  | blank => rfl

theorem seamEndNow_fresh {r : InFlight} (q : List SeamEntry) (cond : r.order.endCondition = .seam)
    (kind : r.order.kind ≠ .halt) : seamEndNow { r with seamEnd := none } q = firstSeamEnd r q :=
  seamEndNow_seam (r := { r with seamEnd := none }) q cond kind

theorem seamCounts_iff (r : InFlight) (e : SeamEntry) :
    seamCounts r e = true ↔ r.origin < e.zoneEnd ∧ e.zoneEnd < plannedEnd r.order r.origin := by
  simp [seamCounts]

theorem seamCounts_false {r : InFlight} {e : SeamEntry}
    (out : e.zoneEnd ≤ r.origin ∨ plannedEnd r.order r.origin ≤ e.zoneEnd) : seamCounts r e = false := by
  by_contra counts
  obtain ⟨after, before⟩ := (seamCounts_iff r e).1 (by simpa using counts)
  omega

theorem firstSeamEnd_none {r : InFlight} {q : List SeamEntry}
    (out : ∀ e ∈ q, e.zoneEnd ≤ r.origin ∨ plannedEnd r.order r.origin ≤ e.zoneEnd) : firstSeamEnd r q = none := by
  rw [firstSeamEnd, List.find?_eq_none.2 fun e mem => by simp [seamCounts_false (out e mem)]]
  rfl

theorem firstSeamEnd_some {r : InFlight} {before after : List SeamEntry} {e : SeamEntry} (start : r.origin < e.zoneEnd)
    (finish : e.zoneEnd < plannedEnd r.order r.origin)
    (out : ∀ x ∈ before, x.zoneEnd ≤ r.origin ∨ plannedEnd r.order r.origin ≤ x.zoneEnd) :
    firstSeamEnd r (before ++ e :: after) = some (e.position, seamEndAt r e.zoneEnd) := by
  rw [firstSeamEnd, List.find?_append, List.find?_eq_none.2 fun x mem => by simp [seamCounts_false (out x mem)],
    Option.none_or, List.find?_cons, (seamCounts_iff r e).2 ⟨start, finish⟩]
  rfl

/-- A seam that set the end keeps setting it while its zone ends before the planned end (R41). -/
theorem seamEndNow_kept {r : InFlight} {q : List SeamEntry} {n finish : Nat} (cond : r.order.endCondition = .seam)
    (kind : r.order.kind ≠ .halt) (set : r.seamEnd = some (n, finish)) :
    (q.find? (fun e => e.position == n) = none → seamEndNow r q = some (n, finish)) ∧
      (∀ e, q.find? (fun e => e.position == n) = some e → r.origin < e.zoneEnd →
        (e.zoneEnd < plannedEnd r.order r.origin → seamEndNow r q = some (n, seamEndAt r e.zoneEnd)) ∧
        (plannedEnd r.order r.origin ≤ e.zoneEnd → seamEndNow r q = seamEndNow { r with seamEnd := none } q)) := by
  rw [seamEndNow_fresh q cond kind, seamEndNow_seam q cond kind, set]
  dsimp only
  refine ⟨fun gone => by rw [gone], fun e found start => ?_⟩
  rw [found]
  exact ⟨fun before => if_pos ((seamCounts_iff r e).2 ⟨start, before⟩),
    fun beyond => if_neg (by simp [seamCounts_false (.inr beyond)])⟩

/-! ### The confirm point (R31, R34) -/

theorem confirmPassed_eq (s : State) :
    confirmPassed s = match entryRecord s with
      | some r => decide (r.finish ≤ s.wt.p + 50000)
      | none => false := rfl

theorem startRead_suspended {s : State} (suspended : s.xi.suspended = true) (t : Transaction) (st : NextStatus) :
    startRead s t st = { s with os.status := .empty, os.copy := none } := if_pos suspended

theorem startRead_open {s : State} (isOpen : s.xi.suspended = false) (t : Transaction) (st : NextStatus) :
    startRead s t st = { s with os.status := st, xi.queue := s.xi.queue ++ [t] } :=
  if_neg (by simp [isOpen])

theorem atConfirmPoint_held {s : State} (held : s.os.status = .held) : atConfirmPoint s = startConfirmRead s := by
  rw [atConfirmPoint, held]

theorem atConfirmPoint_empty {s : State} (empty : s.os.status = .empty) : atConfirmPoint s = startSlotRead s := by
  rw [atConfirmPoint, empty]

theorem atConfirmPoint_reading {s : State} (reading : s.os.status = .reading) :
    atConfirmPoint s = { s with os.pastConfirm := true } := by
  rw [atConfirmPoint, reading]

theorem atConfirmPoint_other {s : State} (held : s.os.status ≠ .held) (empty : s.os.status ≠ .empty)
    (reading : s.os.status ≠ .reading) : atConfirmPoint s = s := by
  unfold atConfirmPoint
  cases status : s.os.status <;> simp_all

theorem startSlotRead_eq_open {s : State} (isOpen : s.xi.suspended = false) :
    startSlotRead s = { s with
      os := { s.os with
        status := .reading
        pastConfirm := match entryRecord s with
          | some x => decide (x.finish ≤ s.wt.p + 50000)
          | none => false }
      xi.queue := s.xi.queue ++ [.slotRead s.os.next] } := by
  rw [startSlotRead_open (by simp [isOpen]), confirmPassed_eq]
  rfl

/-- The confirm point moves the status and the queue alone: the records and the cuts stay. -/
theorem atConfirmPoint_keeps (s : State) :
    (atConfirmPoint s).os.table = s.os.table ∧ (atConfirmPoint s).os.entry = s.os.entry ∧ (atConfirmPoint s).cp = s.cp := by
  have read (u : State) (t : Transaction) (st : NextStatus) : (startRead u t st).os.table = u.os.table ∧
      (startRead u t st).os.entry = u.os.entry ∧ (startRead u t st).cp = u.cp := by
    unfold startRead
    split <;> exact ⟨rfl, rfl, rfl⟩
  have note : (noteConfirm s).os.table = s.os.table ∧ (noteConfirm s).os.entry = s.os.entry ∧ (noteConfirm s).cp = s.cp := by
    unfold noteConfirm
    split <;> exact ⟨rfl, rfl, rfl⟩
  unfold atConfirmPoint
  split
  · exact read s _ _
  · obtain ⟨table, entry, cp⟩ := read (noteConfirm s) (.slotRead s.os.next) .reading
    exact ⟨table.trans note.1, entry.trans note.2.1, cp.trans note.2.2⟩
  all_goals exact ⟨rfl, rfl, rfl⟩

theorem confirmHere_iff (s : State) :
    confirmHere s = true ↔ ∃ x, entryRecord s = some x ∧ x.ended = false ∧ x.finish = s.wt.p + 50000 := by
  unfold confirmHere
  cases entryRecord s with
  | none => simp
  | some r =>
    change (!r.ended && decide (r.finish = s.wt.p + 50000)) = true ↔ _
    simp

/-! ### The seam rule applied to the entry order (R40, R41) -/

theorem entryRecord_eq_some_iff (s : State) (r : InFlight) :
    entryRecord s = some r ↔ s.os.entry = some r.slot ∧ s.os.table.find? (fun x => x.slot == r.slot) = some r := by
  unfold entryRecord
  cases entry : s.os.entry with
  | none => simp
  | some i =>
    dsimp only
    constructor
    · intro found
      have here : r.slot = i := by simpa using List.find?_some found
      exact ⟨congrArg some here.symm, here ▸ found⟩
    · rintro ⟨here, found⟩
      exact Option.some.inj here ▸ found

/-- The entry order's record written back. -/
theorem entryRecord_written {s t : State} {r r' : InFlight} (record : entryRecord s = some r) (slot : r'.slot = r.slot)
    (entry : t.os.entry = s.os.entry)
    (table : t.os.table = modifyFirst (fun x => x.slot == r.slot) (fun _ => r') s.os.table) : entryRecord t = some r' := by
  obtain ⟨here, found⟩ := (entryRecord_eq_some_iff s r).1 record
  refine (entryRecord_eq_some_iff t r').2 ⟨entry.trans (slot ▸ here), ?_⟩
  rw [table, slot]
  refine (find?_modifyFirst (p := fun x : InFlight => x.slot == r.slot) (f := fun _ => r') (fun _ _ => ?_) s.os.table).trans ?_
  · simp [slot]
  · rw [found]
    rfl

theorem applySeamRule_fixed {s : State} {r : InFlight} (record : entryRecord s = some r)
    (fixed : r.finish ≤ s.wt.p ∨ r.ended = true) : applySeamRule s = s := by
  unfold applySeamRule
  rw [record]
  exact if_pos ((endFixed_iff s r).2 fixed.symm)

/-- The entry order's record with the ends by the seams now announced. -/
def seamRuled (s : State) (r : InFlight) : InFlight :=
  { r with seamEnd := seamEndNow r s.cp.seams, finish := leastEnd { r with seamEnd := seamEndNow r s.cp.seams } }

theorem reckonEnd_free {s : State} {r : InFlight} (free : endFixed s r = false) :
    reckonEnd s r =
      if leastEnd r = r.finish then changeOrder s r.slot fun _ => r
      else if leastEnd r ≤ s.wt.p + 50000 then atConfirmPoint (moveEnd s { r with finish := leastEnd r })
      else moveEnd s { r with finish := leastEnd r } := by
  unfold reckonEnd
  dsimp only
  rw [free, Bool.false_or]
  by_cases same : leastEnd r = r.finish
  · rw [if_pos same, if_pos (beq_iff_eq.2 same)]
  · rw [if_neg same, if_neg fun h => same (beq_iff_eq.1 h)]
    exact if_congr decide_eq_true_iff rfl rfl

theorem applySeamRule_running {s : State} {r : InFlight} (record : entryRecord s = some r) (ahead : s.wt.p < r.finish)
    (running : r.ended = false) :
    applySeamRule s =
      if (seamRuled s r).finish = r.finish then changeOrder s r.slot fun _ => seamRuled s r
      else if (seamRuled s r).finish ≤ s.wt.p + 50000 then atConfirmPoint (moveEnd s (seamRuled s r))
      else moveEnd s (seamRuled s r) := by
  have free : endFixed s r = false := by
    by_contra fixed
    rcases (endFixed_iff s r).1 (by simpa using fixed) with ended | reached
    · exact Bool.noConfusion (running.symm.trans ended)
    · omega
  unfold applySeamRule
  rw [record]
  dsimp only
  rw [if_neg (by simp [free]), reckonEnd_free (r := { r with seamEnd := seamEndNow r s.cp.seams }) free]
  by_cases same : leastEnd { r with seamEnd := seamEndNow r s.cp.seams } = r.finish
  · have whole : seamRuled s r = { r with seamEnd := seamEndNow r s.cp.seams } := by rw [seamRuled, same]
    rw [if_pos same, whole, if_pos rfl]
  · rw [if_neg same]
    exact (if_neg same).symm

theorem moveEnd_record {s : State} {r r' : InFlight} (record : entryRecord s = some r) (slot : r'.slot = r.slot) :
    entryRecord (moveEnd s r') = some r' :=
  entryRecord_written record slot rfl (by rw [moveEnd, slot])

theorem atConfirmPoint_record (s : State) : entryRecord (atConfirmPoint s) = entryRecord s := by
  obtain ⟨table, entry, -⟩ := atConfirmPoint_keeps s
  rw [entryRecord, table, entry, entryRecord]

/-- Settles O37: the end as a minimum, its boundaries by division, the seam rule by cases of its search, and a moved end by
whether it moves and whether the confirm point is reached. -/
theorem seamEndFollowsTheRule : Obligations.SeamEndFollowsTheRule := by
  unfold Obligations.SeamEndFollowsTheRule
  intro r q
  refine ⟨?_, ⟨leastEnd_le_planned r, fun n e => leastEnd_le_seam, fun e => leastEnd_le_proof, leastEnd_cases r⟩,
    fun p after long => boundaryAfter_least after long, fun z design after long => ?_, fun z kind => seamEndAt_blank kind z,
    seamEndNow_none q, fun cond kind fresh => ⟨fun out => ?_, ?_⟩, fun n finish cond kind set => seamEndNow_kept cond kind set,
    fun s record ahead running => ?_, fun s record fixed => applySeamRule_fixed record fixed, fun s => ?_⟩
  · unfold plannedEnd
    cases r.order.kind <;> cases r.order.endCondition <;> rfl
  · rw [seamEndAt_design design]
    exact boundaryFrom_least long
  · rw [seamEndNow_seam q cond kind, fresh]
    exact firstSeamEnd_none out
  · rintro before e after rfl start finish out
    rw [seamEndNow_seam _ cond kind, fresh]
    exact firstSeamEnd_some start finish out
  · have ruled := applySeamRule_running record ahead running
    have moved := moveEnd_record (r' := seamRuled s r) record rfl
    by_cases same : (seamRuled s r).finish = r.finish
    · rw [if_pos same] at ruled
      refine ⟨_, _, seamRuled s r, ruled, entryRecord_written record rfl rfl rfl, rfl, ?_, rfl, ?_⟩
      · rw [if_pos same]
        rfl
      · rw [if_pos (.inl same)]
        rfl
    · rw [if_neg same] at ruled
      by_cases near : (seamRuled s r).finish ≤ s.wt.p + 50000
      · rw [if_pos near] at ruled
        obtain ⟨table, entry, cp⟩ := atConfirmPoint_keeps (moveEnd s (seamRuled s r))
        refine ⟨_, _, seamRuled s r, ruled, (atConfirmPoint_record _).trans moved, rfl, ?_, rfl, ?_⟩
        · rw [if_neg same, cp]
          rfl
        · rw [if_neg (by omega), table, cp]
          rfl
      · rw [if_neg near] at ruled
        refine ⟨_, _, seamRuled s r, ruled, moved, rfl, ?_, rfl, ?_⟩
        · rw [if_neg same]
          rfl
        · rw [if_pos (.inr (by omega))]
          rfl
  · refine ⟨confirmHere_iff s, fun here => if_pos here, fun no => if_neg (by simp [no]),
      fun isOpen held => ?_, fun isOpen empty => ?_,
      atConfirmPoint_reading, fun suspended status => ?_, atConfirmPoint_other⟩
    · rw [atConfirmPoint_held held, startConfirmRead, startRead_open isOpen]
    · exact (atConfirmPoint_empty empty).trans (startSlotRead_eq_open isOpen)
    · rcases status with held | empty
      · rw [atConfirmPoint_held held, startConfirmRead, startRead_suspended suspended]
      · rw [atConfirmPoint_empty empty, startSlotRead_suspended suspended]

end Sys2Proof.Machine
end

section
/-! PROOF. The results of an order and its closing (R44, R45, R47 to R49). -/

namespace Sys2Proof.Machine

/-! ### Residual and outcome (R44) -/

theorem repeatsOf_design {r : InFlight} (design : r.order.kind = .print ∨ r.order.kind = .proof) :
    repeatsOf r = (r.finish - r.origin) / r.order.length := by
  rcases design with kind | kind <;> simp [repeatsOf, kind]

theorem residualOf_design {r : InFlight} (design : r.order.kind = .print ∨ r.order.kind = .proof) :
    residualOf r = (r.order.count : Int) - ((r.finish - r.origin) / r.order.length : Nat) := by
  rw [residualOf, repeatsOf_design design]
  rcases design with kind | kind <;> rw [kind]

theorem residualOf_blank {r : InFlight} (kind : r.order.kind = .blank) :
    residualOf r = (r.order.length : Int) - ((r.finish - r.origin) / 1000 : Nat) := by
  rw [residualOf, repeatsOf, kind]

theorem residualOf_halt {r : InFlight} (kind : r.order.kind = .halt) : residualOf r = 0 := by
  rw [residualOf, kind]

/-- An order that runs its overrun out to the planned end is over by that overrun (R44). -/
theorem residualOf_overrun {r : InFlight} (cond : r.order.endCondition = .seam)
    (design : r.order.kind = .print ∨ r.order.kind = .proof) (long : 0 < r.order.length)
    (finish : r.finish = plannedEnd r.order r.origin) : residualOf r = -(r.order.overrun : Int) := by
  have planned : plannedEnd r.order r.origin = r.origin + (r.order.count + r.order.overrun) * r.order.length := by
    unfold plannedEnd
    rw [cond]
    rcases design with kind | kind <;> rw [kind]
  rw [residualOf_design design, finish, planned, Nat.add_sub_cancel_left, Nat.mul_div_cancel _ long]
  omega

theorem outcomeOf_aborted {r : InFlight} (aborted : r.aborted = true) : outcomeOf r = .aborted := by
  simp [outcomeOf, aborted]

theorem outcomeOf_failed {r : InFlight} (aborted : r.aborted = false) (failed : r.proofFailure.isSome = true) :
    outcomeOf r = .proofFailed := by
  simp [outcomeOf, aborted, failed]

theorem outcomeOf_run {r : InFlight} (aborted : r.aborted = false) (passed : r.proofFailure = none) :
    outcomeOf r = if 0 < residualOf r then .short else if residualOf r = 0 then .complete else .long := by
  simp [outcomeOf, aborted, passed]

/-- The outcome, case by case: each of the five is named by one case alone (R44). -/
theorem outcomeOf_cases (r : InFlight) :
    (r.aborted = true ∧ outcomeOf r = .aborted) ∨
    (r.aborted = false ∧ r.proofFailure.isSome = true ∧ outcomeOf r = .proofFailed) ∨
    (r.aborted = false ∧ r.proofFailure = none ∧
      (0 < residualOf r ∧ outcomeOf r = .short ∨ residualOf r = 0 ∧ outcomeOf r = .complete ∨
        residualOf r < 0 ∧ outcomeOf r = .long)) := by
  cases aborted : r.aborted with
  | true => exact .inl ⟨rfl, outcomeOf_aborted aborted⟩
  | false =>
    cases failed : r.proofFailure with
    | some x => exact .inr (.inl ⟨rfl, rfl, outcomeOf_failed aborted (by rw [failed]; rfl)⟩)
    | none =>
      refine .inr (.inr ⟨rfl, rfl, ?_⟩)
      rw [outcomeOf_run aborted failed]
      by_cases short : 0 < residualOf r
      · exact .inl ⟨short, if_pos short⟩
      · by_cases exact' : residualOf r = 0
        · exact .inr (.inl ⟨exact', by rw [if_neg short, if_pos exact']⟩)
        · exact .inr (.inr ⟨by omega, by rw [if_neg short, if_neg exact']⟩)

theorem outcomeOf_iffs (r : InFlight) :
    (outcomeOf r = .aborted ↔ r.aborted = true) ∧
    (outcomeOf r = .proofFailed ↔ r.aborted = false ∧ r.proofFailure.isSome = true) ∧
    (outcomeOf r = .short ↔ r.aborted = false ∧ r.proofFailure = none ∧ 0 < residualOf r) ∧
    (outcomeOf r = .complete ↔ r.aborted = false ∧ r.proofFailure = none ∧ residualOf r = 0) ∧
    (outcomeOf r = .long ↔ r.aborted = false ∧ r.proofFailure = none ∧ residualOf r < 0) := by
  obtain ⟨aborted, is⟩ | ⟨aborted, failed, is⟩ | ⟨aborted, passed, ⟨more, is⟩ | ⟨even, is⟩ | ⟨less, is⟩⟩ := outcomeOf_cases r
  · simp [aborted, is]
  · simp [aborted, is, failed, Option.isSome_iff_ne_none.1 failed]
  · simp [aborted, passed, is, more, more.ne', more.le]
  · simp [aborted, passed, is, even]
  · simp [aborted, passed, is, less, less.ne, less.le]

/-! ### The result words (R180) -/

/-- A word from its four bytes. -/
theorem word_of_bytes {x : Word} {a b c d : Nat} (h0 : (x.extractLsb' 0 8).toNat = a) (h1 : (x.extractLsb' 8 8).toNat = b)
    (h2 : (x.extractLsb' 16 8).toNat = c) (h3 : (x.extractLsb' 24 8).toNat = d) :
    x = wordOfNat (a + b * 2 ^ 8 + c * 2 ^ 16 + d * 2 ^ 24) := by
  have size := x.isLt
  simp only [BitVec.extractLsb'_toNat, Nat.shiftRight_eq_div_pow] at h0 h1 h2 h3
  apply BitVec.eq_of_toNat_eq
  rw [wordOfNat, BitVec.toNat_ofNat]
  omega

/-- The failing station that the words of an outcome show (R49, R142). -/
def failingStation (r : InFlight) (o : OrderOutcome) : Nat :=
  match o, r.proofFailure with
  | .proofFailed, some (_, st) | .abandoned, some (_, st) => st.val + 1
  | _, _ => 0

/-- The failing repeat that the words of an outcome show (R49, R142). -/
def failingRepeat (r : InFlight) (o : OrderOutcome) : Word :=
  match o, r.proofFailure with
  | .proofFailed, some (j, _) | .abandoned, some (j, _) => wordOfNat j
  | _, _ => 0xFFFFFFFF#32

theorem shownProof_station (r : InFlight) (o : OrderOutcome) :
    (match shownProof r o with
      | some (_, st) => stationNo st
      | none => 0) = failingStation r o := by
  unfold shownProof failingStation
  cases o <;> cases r.proofFailure <;> rfl

theorem shownProof_repeat (r : InFlight) (o : OrderOutcome) :
    (match shownProof r o with
      | some (j, _) => wordOfNat j
      | none => 0xFFFFFFFF#32) = failingRepeat r o := by
  unfold shownProof failingRepeat
  cases o <;> cases r.proofFailure <;> rfl

theorem resultWords_eq (r : InFlight) (o : OrderOutcome) (first failing : Word)
    (outcome : (first.extractLsb' 0 8).toNat = o.code) (worst : (first.extractLsb' 8 8).toNat = r.worstStation)
    (station : (first.extractLsb' 16 8).toNat = failingStation r o)
    (late : (first.extractLsb' 24 8).toNat = if r.late then 1 else 0) (which : failing = failingRepeat r o) :
    resultWords r o =
      [first, wordOfNat (repeatsOf r), wordOfInt (residualOf r), wordOfNat r.firstSerial, wordOfNat r.lastSerial,
       wordOfNat r.segments, wordOfNat r.accepted, wordOfNat r.classes.missingColour, wordOfNat r.classes.stopMark,
       wordOfNat r.classes.register, wordOfNat r.classes.seam, wordOfNat r.classes.undercured,
       wordOfNat r.classes.overcured, wordOfNat r.classes.unverified, wordOfNat r.worst, failing] := by
  have flag : bitOf r.late 24 = (if r.late then 1 else 0) * 2 ^ 24 := by
    rw [bitOf]
    split <;> rfl
  have word := word_of_bytes outcome worst (station.trans (shownProof_station r o).symm) late
  have index := which.trans (shownProof_repeat r o).symm
  rw [← flag] at word
  rw [word, index]
  rfl

/-! ### Closing (R47, R48) -/

/-- The run of the closing order reported, if one is open (R141). -/
theorem reportRunOf_cases (s : State) (slot : Slot) (tag : Word) :
    reportRunOf s slot tag = match s.co.run with
      | some run =>
        if run.slot = some slot ∧ run.tag = tag then { afterReport s (runReport s run) with co.run := none } else s
      | none => s := by
  unfold reportRunOf
  cases s.co.run with
  | none => rfl
  | some run =>
    dsimp only
    rw [reportRun_posts]

theorem dueToClose_due {s : State} {r : InFlight} {rest : List InFlight} {x : Nat} (table : s.os.table = r :: rest)
    (horizon : s.wt.horizon = some x) (ended : r.ended = true) (closing : r.closing = false) (passed : r.finish ≤ x)
    (isOpen : s.xi.suspended = false) : dueToClose s = some r := by
  rw [dueToClose, table, horizon]
  simp [ended, closing, passed, isOpen]

theorem dueToClose_none {s : State} (no : s.os.table = [] ∨ s.wt.horizon = none ∨ s.xi.suspended = true ∨
    (∃ r rest, s.os.table = r :: rest ∧ (r.ended = false ∨ r.closing = true ∨ ∀ x, s.wt.horizon = some x → x < r.finish))) :
    dueToClose s = none := by
  unfold dueToClose
  split
  next r rest x table horizon =>
    refine if_neg fun due => ?_
    simp only [Bool.and_eq_true, Bool.not_eq_true', decide_eq_true_eq] at due
    obtain ⟨⟨⟨ended, closing⟩, passed⟩, isOpen⟩ := due
    rcases no with empty | absent | suspended | ⟨q, others, same, not⟩
    · rw [table] at empty
      cases empty
    · rw [horizon] at absent
      cases absent
    · exact Bool.noConfusion (isOpen.symm.trans suspended)
    · obtain ⟨rfl, rfl⟩ := List.cons.inj (table.symm.trans same)
      rcases not with running | under | ahead
      · exact Bool.noConfusion (running.symm.trans ended)
      · exact Bool.noConfusion (closing.symm.trans under)
      · exact absurd passed (Nat.not_le.2 (ahead x horizon))
  next => rfl

/-- Settles O38: the outcome by its cases, the words by their fields, the close by its condition. -/
theorem ordersCloseWithTheirResults : Obligations.OrdersCloseWithTheirResults := by
  unfold Obligations.OrdersCloseWithTheirResults
  refine ⟨fun r => ?_, fun r o first failing small outcome worst station late which => ?_,
    fun s => ⟨?_, ?_, rfl, fun r => ⟨?_, ?_⟩⟩⟩
  · obtain ⟨aborted, failed, short, complete, long⟩ := outcomeOf_iffs r
    exact ⟨residualOf_design, residualOf_blank, residualOf_halt, aborted, failed, short, complete, long, residualOf_overrun⟩
  · refine resultWords_eq r o first failing ?_ worst station late which
    rw [outcome]
    cases o <;> rfl
  · rintro r rest x u table horizon ended closing passed isOpen hu
    have run : reportRunOf s r.slot r.order.tag = u := (reportRunOf_cases s r.slot r.order.tag).trans hu.symm
    have table' : u.os.table = r :: rest := by
      obtain ⟨y, x', e, n, same⟩ := reportRunOf_eq s r.slot r.order.tag
      rw [← run, same]
      exact table
    have isOpen' : (changeOrder u r.slot fun z => { z with closing := true }).xi.suspended = false := by
      have kept := (reportRunOf_closed board_calm s r.slot r.order.tag).suspended
      rw [run] at kept
      exact kept.trans isOpen
    rw [testClose, dueToClose_due table horizon ended closing passed isOpen]
    dsimp only [beginClose]
    rw [run, handOver, if_neg (by simp [isOpen']), changeOrder, table', modifyFirst_head (by simp)]
    rfl
  · intro no
    rw [testClose, dueToClose_none no]
  · simp [printedNow, and_assoc]
  · refine ⟨_, unstatedStation_le s.draws, ?_⟩
    rw [reportPrinted, post_eq]
    rfl

end Sys2Proof.Machine
end

section
/-! PROOF. Announced seams: merged, accepted or lost (R57 to R60). -/

namespace Sys2Proof.Machine

/-! ### What the seam rule does beside the end (R31, R41) -/

/-- `t` has the seam queue and the seam edges of `s`, and its interface with reads of the next order put behind the queue. -/
structure SeamRuled (s t : State) : Prop where
  seams : t.cp.seams = s.cp.seams
  edges : ∀ e : CutEntry, (∃ n, e.kind = .seamStart n ∨ e.kind = .seamEnd n) → (e ∈ t.cp.pending ↔ e ∈ s.cp.pending)
  events : t.events = s.events
  queue : ∃ reads, t.xi = { s.xi with queue := s.xi.queue ++ reads } ∧ ∀ x ∈ reads, isOrderRead x = true

theorem SeamRuled.of_os {s t : State} (h : ∃ o, t = { s with os := o }) : SeamRuled s t := by
  obtain ⟨o, rfl⟩ := h
  exact ⟨rfl, fun _ _ => .rfl, rfl, [], by simp, nofun⟩

theorem SeamRuled.trans {s t u : State} (a : SeamRuled s t) (b : SeamRuled t u) : SeamRuled s u := by
  obtain ⟨first, xi, reads⟩ := a.queue
  obtain ⟨second, xi', reads'⟩ := b.queue
  refine ⟨b.seams.trans a.seams, fun e edge => (b.edges e edge).trans (a.edges e edge), b.events.trans a.events,
    first ++ second, ?_, fun x mem => ?_⟩
  · rw [xi', xi]
    dsimp only
    rw [List.append_assoc]
  · exact (List.mem_append.1 mem).elim (reads x) (reads' x)

theorem startRead_seamRuled (s : State) {t : Transaction} (read : isOrderRead t = true) (st : NextStatus) :
    SeamRuled s (startRead s t st) := by
  unfold startRead
  split
  · exact .of_os ⟨_, rfl⟩
  · exact ⟨rfl, fun _ _ => .rfl, rfl, [t], rfl, fun x mem => List.mem_singleton.1 mem ▸ read⟩

theorem noteConfirm_seamRuled (s : State) : SeamRuled s (noteConfirm s) := by
  unfold noteConfirm
  split
  · exact .of_os ⟨s.os, rfl⟩
  · exact .of_os ⟨_, rfl⟩

theorem atConfirmPoint_seamRuled (s : State) : SeamRuled s (atConfirmPoint s) := by
  unfold atConfirmPoint
  split
  · exact startRead_seamRuled s rfl _
  · exact (noteConfirm_seamRuled s).trans (startRead_seamRuled _ rfl _)
  · exact .of_os ⟨_, rfl⟩
  all_goals exact .of_os ⟨s.os, rfl⟩

theorem moveEnd_seamRuled (s : State) (r : InFlight) : SeamRuled s (moveEnd s r) where
  seams := rfl
  edges e edge := planEnd_edge_iff edge
  events := rfl
  queue := ⟨[], by simp [moveEnd], nofun⟩

theorem applySeamRule_seamRuled (s : State) : SeamRuled s (applySeamRule s) := by
  have same : SeamRuled s s := .of_os ⟨s.os, rfl⟩
  cases record : entryRecord s with
  | none =>
    rw [applySeamRule, record]
    exact same
  | some r =>
    by_cases fixed : r.finish ≤ s.wt.p ∨ r.ended = true
    · rw [applySeamRule_fixed record fixed]
      exact same
    · push Not at fixed
      rw [applySeamRule_running record fixed.1 (by simpa using fixed.2)]
      split
      · exact .of_os ⟨_, rfl⟩
      · split
        · exact (moveEnd_seamRuled s _).trans (atConfirmPoint_seamRuled _)
        · exact moveEnd_seamRuled s _

/-! ### The three answers to an announcement (R58 to R60) -/

theorem mergeTarget_iff (s : State) (position zoneStart : Nat) (e : SeamEntry) :
    mergeTarget s position zoneStart = some e ↔ s.cp.seams.getLast? = some e ∧
      (e.position ≤ position ∧ position ≤ e.position + s.prof.seamSpacing ∨ zoneStart ≤ e.zoneEnd) := by
  unfold mergeTarget
  cases last : s.cp.seams.getLast? with
  | none => simp
  | some x =>
    have test : mergesInto x position zoneStart s.prof.seamSpacing = true ↔
        (x.position ≤ position ∧ position ≤ x.position + s.prof.seamSpacing ∨ zoneStart ≤ x.zoneEnd) := by
      simp [mergesInto]
    dsimp only
    rw [Option.some.injEq]
    by_cases merges : mergesInto x position zoneStart s.prof.seamSpacing = true
    · rw [if_pos merges, Option.some.injEq]
      exact ⟨fun same => ⟨same, same ▸ test.1 merges⟩, And.left⟩
    · rw [if_neg merges]
      exact ⟨nofun, fun ⟨same, near⟩ => absurd (test.2 (same ▸ near)) merges⟩

/-- SEAM_SEEN and SEAM_LOST (R59, R60). -/
def seamPosting (s : State) (k : ReportKind) (zoneStart zoneEnd : Nat) : Posting :=
  { kind := k, tag := entryTag s, station := 0#32, serial := wordOfNat s.wt.nextSerial, clock := s.clock,
    first := wordOfNat (zoneStart / 1000), second := wordOfNat (zoneEnd / 1000) }

theorem post_seamReport (s : State) (k : ReportKind) (zoneStart zoneEnd : Nat) :
    post s (seamReport s k zoneStart zoneEnd) = afterReport s (seamPosting s k zoneStart zoneEnd) := post_eq s _

/-- The interface and EVENTS of a report followed by the seam rule. -/
theorem postsThenReads_seamRule (s : State) (c : CutPlanner) (p : Posting) :
    PostsThenReads s (applySeamRule (afterReport { s with cp := c } p)) p := by
  have ruled := applySeamRule_seamRuled (afterReport { s with cp := c } p)
  obtain ⟨reads, queue, are⟩ := ruled.queue
  exact ⟨ruled.events, reads, queue, are⟩

theorem announceSeam_merges {s : State} {rise position zoneStart zoneEnd : Nat} {e : SeamEntry}
    (hposition : position = rise + s.prof.seamDistance) (hstart : zoneStart = position - s.prof.guardBefore)
    (hend : zoneEnd = position + s.prof.guardAfter) (target : mergeTarget s position zoneStart = some e) :
    announceSeam s rise = applySeamRule (afterReport { s with cp := extendSeam s.cp e.position (max e.zoneEnd zoneEnd) }
      (seamPosting s .seamSeen e.zoneStart (max e.zoneEnd zoneEnd))) := by
  subst hposition hstart hend
  unfold announceSeam
  dsimp only
  rw [target]
  dsimp only
  rw [mergeSeam, post_seamReport]
  rfl

theorem announceSeam_accepts {s : State} {rise position zoneStart zoneEnd : Nat}
    (hposition : position = rise + s.prof.seamDistance) (hstart : zoneStart = position - s.prof.guardBefore)
    (hend : zoneEnd = position + s.prof.guardAfter) (distinct : mergeTarget s position zoneStart = none)
    (room : s.cp.seams.length < 4) :
    announceSeam s rise = applySeamRule (afterReport { s with cp := queueSeam s.cp position zoneStart zoneEnd }
      (seamPosting s .seamSeen zoneStart zoneEnd)) := by
  subst hposition hstart hend
  unfold announceSeam
  dsimp only
  rw [distinct]
  dsimp only
  rw [if_pos (show s.cp.seams.length < Config.seamCapacity from room), acceptSeam, post_seamReport]
  rfl

theorem announceSeam_loses {s : State} {rise position zoneStart zoneEnd : Nat} (isOpen : lineOpen s = true)
    (hposition : position = rise + s.prof.seamDistance) (hstart : zoneStart = position - s.prof.guardBefore)
    (hend : zoneEnd = position + s.prof.guardAfter) (distinct : mergeTarget s position zoneStart = none)
    (full : 4 ≤ s.cp.seams.length) :
    ∃ v, RaisesFault s v .seamLost ∧ announceSeam s rise = afterReport v (seamPosting s .seamLost zoneStart zoneEnd) := by
  subst hposition hstart hend
  have line : LineOnly s (raiseFault s .seamLost) := raiseCause_lineOnly s .fault (some .seamLost)
  have serial := congrArg WebTracker.nextSerial line.wt
  have same : seamPosting (raiseFault s .seamLost) = seamPosting s := by
    funext k zoneStart zoneEnd
    rw [seamPosting, entryTag, entryRecord, line.os, serial, line.clock]
    rfl
  refine ⟨_, raiseFault_raises s .seamLost isOpen, ?_⟩
  unfold announceSeam
  dsimp only
  rw [distinct]
  dsimp only
  rw [if_neg (show ¬ s.cp.seams.length < Config.seamCapacity from Nat.not_lt.2 full), loseSeam, post_seamReport, same]

/-! ### The list of seams and its edges -/

theorem modifyFirst_last {α : Type} {p : α → Bool} {f : α → α} {init : List α} {a : α}
    (before : ∀ x ∈ init, p x = false) (here : p a = true) : modifyFirst p f (init ++ [a]) = init ++ [f a] := by
  induction init with
  | nil => exact modifyFirst_head here f []
  | cons b rest ih =>
    have first : modifyFirst p f (b :: (rest ++ [a])) = b :: modifyFirst p f (rest ++ [a]) :=
      if_neg (by simp [before b List.mem_cons_self])
    rw [List.cons_append, first, ih fun x mem => before x (List.mem_cons_of_mem b mem)]
    rfl

theorem isSeamEndOf_iff (seam : Nat) (e : CutEntry) : isSeamEndOf seam e = true ↔ e.kind = .seamEnd seam := by
  unfold isSeamEndOf
  cases kind : e.kind <;> simp

/-- The SEAM_END of an extended seam stands at its new position alone (R55, R58). -/
theorem extendSeam_end (c : CutPlanner) (seam zoneEnd : Nat) :
    { kind := .seamEnd seam, position := zoneEnd } ∈ (extendSeam c seam zoneEnd).pending ∧
      ∀ x ∈ (extendSeam c seam zoneEnd).pending, x.kind = .seamEnd seam → x.position = zoneEnd := by
  refine ⟨(mem_insertCut _ _ _).2 (.inl rfl), fun x mem kind => ?_⟩
  rcases (mem_insertCut _ _ _).1 mem with rfl | other
  · rfl
  · have kept := (List.mem_filter.1 other).2
    rw [(isSeamEndOf_iff seam x).2 kind] at kept
    cases kept

theorem queueSeam_edges (c : CutPlanner) (seam zoneStart zoneEnd : Nat) :
    { kind := .seamStart seam, position := zoneStart } ∈ (queueSeam c seam zoneStart zoneEnd).pending ∧
      { kind := .seamEnd seam, position := zoneEnd } ∈ (queueSeam c seam zoneStart zoneEnd).pending :=
  ⟨(mem_insertCut _ _ _).2 (.inr ((mem_insertCut _ _ _).2 (.inl rfl))), (mem_insertCut _ _ _).2 (.inl rfl)⟩

/-- Settles O11: the answer by the search for a seam to merge into; what the seam rule then leaves of the planner and the
interface by `SeamRuled`. -/
theorem seamsAreMergedAcceptedOrLost : Obligations.SeamsAreMergedAcceptedOrLost := by
  unfold Obligations.SeamsAreMergedAcceptedOrLost
  intro s rise position zoneStart zoneEnd isOpen hposition hstart hend
  refine ⟨mergeTarget_iff s position zoneStart, fun e init target seams alone => ?_,
    fun e target => announceSeam_merges hposition hstart hend target,
    fun distinct room => announceSeam_accepts hposition hstart hend distinct room, fun distinct room => ?_,
    fun distinct full => announceSeam_loses isOpen hposition hstart hend distinct full⟩
  · have merged := announceSeam_merges hposition hstart hend target
    have ruled := applySeamRule_seamRuled (afterReport { s with cp := extendSeam s.cp e.position (max e.zoneEnd zoneEnd) }
      (seamPosting s .seamSeen e.zoneStart (max e.zoneEnd zoneEnd)))
    obtain ⟨put, only⟩ := extendSeam_end s.cp e.position (max e.zoneEnd zoneEnd)
    rw [merged]
    refine ⟨ruled.seams.trans ?_, (ruled.edges _ ⟨_, .inr rfl⟩).2 put,
      fun x mem kind => only x ((ruled.edges x ⟨_, .inr kind⟩).1 mem) kind, postsThenReads_seamRule s _ _⟩
    have extended : (extendSeam s.cp e.position (max e.zoneEnd zoneEnd)).seams =
        modifyFirst (fun x => x.position == e.position) (fun x => { x with zoneEnd := max e.zoneEnd zoneEnd }) s.cp.seams := rfl
    refine extended.trans ?_
    rw [seams]
    exact modifyFirst_last (fun x mem => by simpa using alone x mem) (beq_self_eq_true _)
  · have accepted := announceSeam_accepts hposition hstart hend distinct room
    have ruled := applySeamRule_seamRuled (afterReport { s with cp := queueSeam s.cp position zoneStart zoneEnd }
      (seamPosting s .seamSeen zoneStart zoneEnd))
    obtain ⟨started, ended⟩ := queueSeam_edges s.cp position zoneStart zoneEnd
    rw [accepted]
    exact ⟨ruled.seams, (ruled.edges _ ⟨_, .inl rfl⟩).2 started, (ruled.edges _ ⟨_, .inr rfl⟩).2 ended,
      postsThenReads_seamRule s _ _⟩

end Sys2Proof.Machine
end

section
/-! PROOF. Cuts: the record of a stretch, a loss, the pending entries at P (R8 to R13, R52 to R55); the abort (R43). -/

namespace Sys2Proof.Machine

/-! ### The record of a stretch (R10, R13, R46) -/

theorem cutRefused_iff (s : State) :
    (mapFull s || serialsGone s) = true ↔ 2048 ≤ s.wt.map.length ∨ 4294967295 < s.wt.nextSerial := by
  have full : mapFull s = true ↔ 2048 ≤ s.wt.map.length := decide_eq_true_iff
  have gone : serialsGone s = true ↔ 4294967295 < s.wt.nextSerial := decide_eq_true_iff
  rw [Bool.or_eq_true, full, gone]

theorem cutMade {s : State} (room : s.wt.map.length < 2048) (serials : s.wt.nextSerial ≤ 4294967295) :
    (mapFull s || serialsGone s) = false := by
  by_contra refused
  have := (cutRefused_iff s).1 (Bool.of_not_eq_false refused)
  omega

theorem recordStretch_made {s : State} (room : s.wt.map.length < 2048) (serials : s.wt.nextSerial ≤ 4294967295) :
    recordStretch s = makeRecord s := by
  rw [recordStretch, cutMade room serials]
  rfl

theorem recordStretch_refused {s : State} (refused : 2048 ≤ s.wt.map.length ∨ 4294967295 < s.wt.nextSerial) :
    recordStretch s = refuseRecord { s with wt.lastCut := s.wt.p } := by
  rw [recordStretch, (cutRefused_iff s).2 refused]
  rfl

theorem closeStretch_still {s : State} (still : s.wt.p ≤ s.wt.lastCut) : closeStretch s = s := if_pos still

theorem closeStretch_closes {s : State} (ahead : s.wt.lastCut < s.wt.p) :
    closeStretch s = meetStations (addStretch (recordStretch s)
      { start := s.wt.lastCut
        finish := s.wt.p
        serial := if s.wt.map.length < 2048 ∧ s.wt.nextSerial ≤ 4294967295 then some s.wt.nextSerial else none }) := by
  rw [closeStretch, if_neg (Nat.not_le.2 ahead)]
  by_cases made : s.wt.map.length < 2048 ∧ s.wt.nextSerial ≤ 4294967295
  · rw [if_pos made, cutMade made.1 made.2]
    rfl
  · rw [if_neg made, (cutRefused_iff s).2 (by omega)]
    rfl

/-- The serials of an order's record after a cut (R46). -/
def withSerial (n : Nat) (r : InFlight) : InFlight :=
  { r with firstSerial := if r.firstSerial = 0 then n else r.firstSerial, lastSerial := n }

theorem noteSerial_eq (s : State) (n : Nat) :
    noteSerial s n = { s with os.table := match s.os.entry with
      | some i => modifyFirst (fun r => r.slot == i) (withSerial n) s.os.table
      | none => s.os.table } := by
  unfold noteSerial
  cases s.os.entry <;> rfl

/-- The tracker and the order table are all that a record made changes. -/
theorem makeRecord_eq (s : State) :
    makeRecord s = { s with
      wt := { s.wt with
        map := s.wt.map ++ [newSegment s], nextSerial := s.wt.nextSerial + 1, lastCut := s.wt.p, lost := false }
      os.table := match s.os.entry with
        | some i => modifyFirst (fun r => r.slot == i) (withSerial s.wt.nextSerial) s.os.table
        | none => s.os.table } := by
  unfold makeRecord
  dsimp only
  rw [noteSerial_eq]
  rfl

theorem newSegment_none {s : State} (entry : s.os.entry = none) : newSegment s =
    { serial := s.wt.nextSerial, length := s.wt.p - s.wt.lastCut, pEnd := s.wt.p, tag := 0#32, slot := none,
      kind := .runOut, required := 0#16, pressure := 0#3, seam := s.cp.inside, page := 7, dMin := s.prof.dMin,
      dMax := s.prof.dMax, printed := 0#16, stopMarks := 0#16, registerDefect := false, dose := 0, peak := 0,
      stale := false, overcure := false, verdict := none } := by
  have record : entryRecord s = none := by rw [entryRecord, entry]
  simp only [newSegment, entryTag, requiredNow, pressureNow, record]
  rfl

theorem newSegment_some {s : State} {x : InFlight} (record : entryRecord s = some x) (kind : x.order.kind ≠ .halt) :
    newSegment s =
      { serial := s.wt.nextSerial, length := s.wt.p - s.wt.lastCut, pEnd := s.wt.p, tag := x.order.tag, slot := some x.slot,
        kind := if x.order.kind = .print then .print else if x.order.kind = .proof then .proof else .blank,
        required := if (x.order.kind = .print ∨ x.order.kind = .proof) ∧ s.cp.inside = false then
          minusSet x.order.set s.cp.lift else 0#16,
        pressure := if x.order.kind = .print ∨ x.order.kind = .proof then s.cp.pressure else 0#3,
        seam := s.cp.inside, page := x.order.page, dMin := x.order.dMin, dMax := x.order.dMax, printed := 0#16,
        stopMarks := 0#16, registerDefect := false, dose := 0, peak := 0, stale := false, overcure := false,
        verdict := none } := by
  simp only [newSegment, entryTag, requiredNow, pressureNow, record, fabricOf, printsDesign, Option.map_some]
  cases h : x.order.kind with
  | halt => exact absurd h kind
  | print => cases s.cp.inside <;> rfl
  | proof => cases s.cp.inside <;> rfl
  | blank => rfl

theorem makeRecord_entry {s : State} {x : InFlight} (record : entryRecord s = some x) :
    entryRecord (makeRecord s) = some (withSerial s.wt.nextSerial x) := by
  obtain ⟨entry, found⟩ := (entryRecord_eq_some_iff s x).1 record
  rw [makeRecord_eq, entryRecord, entry]
  refine (find?_modifyFirst (p := fun r : InFlight => r.slot == x.slot) (f := withSerial s.wt.nextSerial) (fun _ h => h)
    s.os.table).trans ?_
  rw [found]
  rfl

/-! ### A cut refused (R13) -/

theorem refuseRecord_again {s : State} (lost : s.wt.lost = true) : refuseRecord s = s := if_pos lost

theorem lossWord_full {s : State} (refused : 2048 ≤ s.wt.map.length ∨ 4294967295 < s.wt.nextSerial)
    (serials : s.wt.nextSerial ≤ 4294967295) : lossWord s = some 0#32 := by
  have full : mapFull s = true := decide_eq_true (show 2048 ≤ s.wt.map.length by omega)
  have gone : serialsGone s = false := decide_eq_false (show ¬ 4294967295 < s.wt.nextSerial by omega)
  rw [lossWord, full, gone]
  rfl

theorem lossWord_gone {s : State} (room : s.wt.map.length < 2048) : lossWord s = some 1#32 := by
  have full : mapFull s = false := decide_eq_false (show ¬ 2048 ≤ s.wt.map.length by omega)
  rw [lossWord, full]
  rfl

/-- The first refused cut of a loss raises FAULT, and then reports it (R13). -/
theorem refuseRecord_first {s : State} (fresh : s.wt.lost = false) (isOpen : lineOpen s = true) :
    ∃ v p, RaisesFault { s with wt.lost := true } v .trackingLost ∧ TrackingLost s.clock p ∧
      (∀ x, lossWord s = some x → p.first = x) ∧ p.second = wordOfNat (s.wt.p / 1000) ∧
      (∀ r, s.wt.map.getLast? = some r → p.serial = wordOfNat r.serial) ∧ refuseRecord s = afterReport v p := by
  have raised := raiseFault_raises { s with wt.lost := true } .trackingLost isOpen
  have clock : (raiseFault { s with wt.lost := true } .trackingLost).clock = s.clock :=
    (board_calm.fault { s with wt.lost := true } .trackingLost).clock
  refine ⟨_, postingOf (raiseFault { s with wt.lost := true } .trackingLost)
    { kind := .trackingLost, first := lossWord s, second := some (mmWord s.wt.p),
      serial := s.wt.map.getLast?.map fun r => wordOfNat r.serial }
    (raiseFault { s with wt.lost := true } .trackingLost).clock, raised, ⟨rfl, unstatedStation_le _, clock⟩,
    fun x is => ?_, rfl, fun r last => ?_, ?_⟩
  · rw [postingOf, is]
    rfl
  · rw [postingOf, last]
    rfl
  · rw [refuseRecord, if_neg (by simp [fresh]), post_eq]

/-! ### What a cut leaves of the planner and of the orders -/

/-- What a closed stretch leaves as it was: the cuts, P, the transaction in hand, and of the orders all but their serials. -/
structure Stretched (s t : State) : Prop where
  cp : t.cp = s.cp
  p : t.wt.p = s.wt.p
  inHand : t.xi.inHand = s.xi.inHand
  os : t.os = { s.os with table := t.os.table }
  record : ∀ i r, s.os.table.find? (fun x => x.slot == i) = some r →
    ∃ x, t.os.table.find? (fun x => x.slot == i) = some x ∧ x.order = r.order ∧ x.origin = r.origin

theorem Stretched.refl (s : State) : Stretched s s := ⟨rfl, rfl, rfl, rfl, fun _ r found => ⟨r, found, rfl, rfl⟩⟩

theorem LineOnly.stretched {s t : State} (h : LineOnly s t) : Stretched s t :=
  ⟨h.cp, h.tracker.1, h.inHand, by rw [h.os], fun _ r found => ⟨r, by rw [h.os]; exact found, rfl, rfl⟩⟩

theorem makeRecord_stretched (s : State) : Stretched s (makeRecord s) := by
  rw [makeRecord_eq]
  refine ⟨rfl, rfl, rfl, rfl, fun i r found => ?_⟩
  dsimp only
  split
  next j _ =>
    by_cases here : j = i
    · subst here
      refine ⟨withSerial s.wt.nextSerial r, ?_, rfl, rfl⟩
      refine (find?_modifyFirst (p := fun r : InFlight => r.slot == j) (f := withSerial s.wt.nextSerial) (fun _ h => h)
        s.os.table).trans ?_
      rw [found]
      rfl
    · refine ⟨r, ?_, rfl, rfl⟩
      have apart (x : InFlight) (is : (x.slot == j) = true) : (x.slot == i) = false := by
        rw [beq_iff_eq] at is
        simp [is, here]
      exact (find?_modifyFirst_of_disjoint (f := withSerial s.wt.nextSerial) apart apart s.os.table).trans found
  next => exact ⟨r, found, rfl, rfl⟩

theorem refuseRecord_stretched (s : State) : Stretched s (refuseRecord { s with wt.lastCut := s.wt.p }) := by
  unfold refuseRecord
  split
  · exact ⟨rfl, rfl, rfl, rfl, fun _ r found => ⟨r, found, rfl, rfl⟩⟩
  · have raised := raiseCause_lineOnly { s with wt.lastCut := s.wt.p, wt.lost := true } .fault (some .trackingLost)
    have posted (v : State) (b : ReportBody) (h : LineOnly { s with wt.lastCut := s.wt.p, wt.lost := true } v) :
        Stretched s (post v b) :=
      have line := (h.trans (post_lineOnly v b)).stretched
      ⟨line.cp, line.p, line.inHand, line.os, line.record⟩
    exact posted _ _ raised

theorem recordStretch_stretched (s : State) : Stretched s (recordStretch s) := by
  unfold recordStretch
  split
  · exact refuseRecord_stretched s
  · exact makeRecord_stretched s

/-- The thresholds of a stretch queued and met change the stations and the records' printed sets. -/
theorem meetStations_addStretch (t : State) (x : Stretch) : StationsOnly t (meetStations (addStretch t x)) := by
  have queued := addStretch_channelsOnly t x
  have met := meetStations_stationsOnly (addStretch t x)
  generalize addStretch t x = u at queued met ⊢
  refine .trans ?_ met
  rw [ChannelsOnly] at queued
  rw [queued]
  rfl

theorem closeStretch_stretched (s : State) : Stretched s (closeStretch s) := by
  unfold closeStretch
  split
  · exact .refl s
  · dsimp only
    have cut := recordStretch_stretched s
    have met := meetStations_addStretch (recordStretch s)
      { start := s.wt.lastCut, finish := s.wt.p, serial := if mapFull s || serialsGone s then none else some s.wt.nextSerial }
    rw [StationsOnly] at met
    rw [met]
    exact ⟨cut.cp, cut.p, cut.inHand, cut.os, cut.record⟩

/-! ### The pending entries at P (R8, R52) -/

theorem cutDue_iff (s : State) : cutDue s = true ↔ s.wt.lastCut + s.prof.segmentLength ≤ s.wt.p ∨
    ∃ e, s.cp.pending.head? = some e ∧ e.position ≤ s.wt.p := by
  unfold cutDue
  rw [Bool.or_eq_true, decide_eq_true_iff]
  cases s.cp.pending with
  | nil => simp
  | cons e rest => simp

theorem cutDue_of_entry {s : State} {e : CutEntry} {rest : List CutEntry} (pending : s.cp.pending = e :: rest)
    (here : e.position ≤ s.wt.p) : cutDue s = true :=
  (cutDue_iff s).2 (.inr ⟨e, by rw [pending]; rfl, here⟩)

/-- A cut that is due closes the stretch, and the entries at P, whatever their number, take effect in list order. -/
theorem meetCut_split {s : State} {here ahead : List CutEntry} (due : cutDue s = true)
    (pending : s.cp.pending = here ++ ahead) (reached : ∀ e ∈ here, e.position ≤ s.wt.p)
    (later : ∀ e ∈ ahead, s.wt.p < e.position) :
    meetCut s = here.foldl cutEffect { closeStretch s with cp := { s.cp with pending := ahead } } := by
  have cut := closeStretch_stretched s
  rw [meetCut, due]
  generalize closeStretch s = u at cut ⊢
  obtain ⟨cp, p, -, -, -⟩ := cut
  have ahead_only : here.filter (fun e => !decide (e.position ≤ s.wt.p)) = [] :=
    List.filter_eq_nil_iff.2 fun e mem => by simp [reached e mem]
  have here_all : here.filter (fun e => decide (e.position ≤ s.wt.p)) = here :=
    List.filter_eq_self.2 fun e mem => by simp [reached e mem]
  have none_here : ahead.filter (fun e => decide (e.position ≤ s.wt.p)) = [] :=
    List.filter_eq_nil_iff.2 fun e mem => by simp [later e mem]
  have ahead_all : ahead.filter (fun e => !decide (e.position ≤ s.wt.p)) = ahead :=
    List.filter_eq_self.2 fun e mem => by simp [later e mem]
  simp only [cp, p, pending, List.filter_append, ahead_only, here_all, none_here, ahead_all, List.append_nil, List.nil_append,
    Bool.not_true, Bool.false_eq_true, if_false]

theorem meetCut_alone {s : State} (due : cutDue s = true) (later : ∀ e ∈ s.cp.pending, s.wt.p < e.position) :
    meetCut s = closeStretch s := by
  rw [meetCut_split (here := []) due rfl nofun later]
  exact congrArg (fun c => { closeStretch s with cp := c }) (closeStretch_stretched s).cp.symm

theorem meetCut_one {s : State} {e : CutEntry} {rest : List CutEntry} (pending : s.cp.pending = e :: rest)
    (here : e.position ≤ s.wt.p) (later : ∀ x ∈ rest, s.wt.p < x.position) :
    meetCut s = cutEffect { closeStretch s with cp := { s.cp with pending := rest } } e :=
  meetCut_split (here := [e]) (cutDue_of_entry pending here) pending (by simpa using here) later

/-! ### The effect of one entry (R54, R55, R61, R62) -/

theorem changeAt_eq_set {α : Type} {f : α → α} : ∀ {i : Nat} {l : List α} {m : α}, l[i]? = some m → changeAt f i l = l.set i (f m)
  | _, [], _, found => by simp at found
  | 0, _ :: _, _, found => by
    obtain rfl := Option.some.inj found
    rfl
  | i + 1, a :: rest, _, found => congrArg (a :: ·) (changeAt_eq_set (i := i) (l := rest) found)

theorem cutEffect_orderEnd {s : State} {e : CutEntry} (kind : e.kind = .orderEnd) : cutEffect s e = reachEnd s := by
  rw [cutEffect, kind]

theorem cutEffect_zoneMark {s : State} {e : CutEntry} {k : Nat} {m : MarkRecord} (kind : e.kind = .zoneMark k)
    (found : s.cp.marks[k]? = some m) : cutEffect s e = { s with
      cp := { s.cp with lift := m.lift, pressure := m.pressure, marks := s.cp.marks.set k { m with applied := true } } } := by
  rw [cutEffect, kind, ← changeAt_eq_set (f := fun m : MarkRecord => { m with applied := true }) found]
  dsimp only [applyMark]
  rw [found]

theorem cutEffect_seamStart {s : State} {e : CutEntry} {n : Nat} (kind : e.kind = .seamStart n) :
    cutEffect s e = { s with cp := { s.cp with
      inside := true
      seams := modifyFirst (fun x => x.position == n) (fun x => { x with opened := true }) s.cp.seams } } := by
  rw [cutEffect, kind]
  rfl

theorem cutEffect_seamEnd {s : State} {e : CutEntry} {n : Nat} (kind : e.kind = .seamEnd n) :
    cutEffect s e = { s with
      cp := { s.cp with inside := false, seams := s.cp.seams.filter fun x => x.position != n } } := by
  rw [cutEffect, kind]
  rfl

/-- A seam opened and then gone leaves the queue that the seam alone would leave. -/
theorem filter_modifyFirst_gone {α : Type} {p : α → Bool} {f : α → α} (same : ∀ x, p (f x) = p x) :
    ∀ l : List α, (modifyFirst p f l).filter (fun x => !p x) = l.filter (fun x => !p x)
  | [] => rfl
  | a :: rest => by
    unfold modifyFirst
    split
    next is => simp [same, is]
    next other => simp [List.filter_cons, filter_modifyFirst_gone same rest]

/-- Settles O8: the record of the open stretch, its refusal with the report of a tracking loss, and the pending entries at P. -/
theorem cutsMakeRecords : Obligations.CutsMakeRecords := by
  unfold Obligations.CutsMakeRecords
  intro s
  refine ⟨closeStretch_still, closeStretch_closes, fun room serials => ?_, fun refused => ?_, cutDue_iff s, meetCut_alone,
    fun e rest u pending here later is => ?_, fun here ahead pending nonempty reached later => ?_,
    fun n p q rest pending atP atQ later => ?_, fun e => ⟨cutEffect_orderEnd, fun k m => cutEffect_zoneMark,
      fun n => cutEffect_seamStart, fun n => cutEffect_seamEnd⟩⟩
  · rw [recordStretch_made room serials]
    refine ⟨by rw [makeRecord_eq], fun entry => ?_, fun x record kind => ⟨?_, makeRecord_entry record⟩⟩
    · rw [makeRecord_eq, newSegment_none entry]
      simp only [entry, and_self]
    · rw [makeRecord_eq, newSegment_some record kind]
  · rw [recordStretch_refused refused]
    refine ⟨fun lost => refuseRecord_again lost, fun fresh isOpen => ?_⟩
    obtain ⟨v, p, raised, loss, first, second, serial, posted⟩ :=
      refuseRecord_first (s := { s with wt.lastCut := s.wt.p }) fresh isOpen
    exact ⟨v, p, raised, loss, fun serials => first _ (lossWord_full (s := { s with wt.lastCut := s.wt.p }) refused serials),
      fun room => first _ (lossWord_gone (s := { s with wt.lastCut := s.wt.p }) room), second, serial, posted⟩
  · subst is
    rw [meetCut_one pending here later]
    refine ⟨fun k m kind found => ⟨_, cutEffect_zoneMark kind found, rfl, ?_, ?_⟩, fun n kind => cutEffect_seamStart kind,
      fun n kind => cutEffect_seamEnd kind, cutEffect_orderEnd⟩
    · obtain ⟨inside, -⟩ := List.getElem?_eq_some_iff.1 found
      exact List.getElem?_set_self inside
    · exact fun j other => List.getElem?_set_ne other.symm
  · obtain ⟨e, more, rfl⟩ := List.exists_cons_of_ne_nil nonempty
    exact meetCut_split (cutDue_of_entry pending (reached e List.mem_cons_self)) pending reached later
  · rw [meetCut_split (here := [_, _]) (cutDue_of_entry pending atP) pending (by simp [atP, atQ]) later, List.foldl_cons,
      List.foldl_cons, List.foldl_nil, cutEffect_seamStart (e := { kind := .seamStart n, position := p }) rfl,
      cutEffect_seamEnd (e := { kind := .seamEnd n, position := q }) rfl]
    have gone := filter_modifyFirst_gone (p := fun x : SeamEntry => x.position == n)
      (f := fun x => { x with opened := true }) (fun _ => rfl) s.cp.seams
    exact congrArg (fun l => { closeStretch s with cp := { s.cp with pending := rest, inside := false, seams := l } }) gone

/-! ### The abort (R43) -/

/-- The holds are as they were after a cut that makes its record. -/
theorem closeStretch_holds {s : State} (room : s.wt.map.length < 2048) (serials : s.wt.nextSerial ≤ 4294967295) :
    (closeStretch s).lc.holds = s.lc.holds := by
  unfold closeStretch
  split
  · rfl
  · dsimp only
    have met := meetStations_addStretch (recordStretch s)
      { start := s.wt.lastCut, finish := s.wt.p, serial := if mapFull s || serialsGone s then none else some s.wt.nextSerial }
    rw [StationsOnly] at met
    rw [met, recordStretch_made room serials, makeRecord_eq]

theorem recordStretch_lastCut (s : State) : (recordStretch s).wt.lastCut = s.wt.p := by
  unfold recordStretch refuseRecord
  split
  · split
    · rfl
    · have raised := raiseCause_lineOnly { s with wt.lastCut := s.wt.p, wt.lost := true } .fault (some .trackingLost)
      have posted (v : State) (b : ReportBody) (h : LineOnly { s with wt.lastCut := s.wt.p, wt.lost := true } v) :
          (post v b).wt.lastCut = s.wt.p := by
        have kept := congrArg WebTracker.lastCut (h.trans (post_lineOnly v b)).wt
        exact kept
      exact posted _ _ raised
  · rw [makeRecord_eq]

/-- The cut of an abort leaves P_c at P. -/
theorem closeStretch_lastCut {s : State} (behind : s.wt.lastCut ≤ s.wt.p) : (closeStretch s).wt.lastCut = s.wt.p := by
  unfold closeStretch
  split
  next still => exact Nat.le_antisymm behind still
  next =>
    dsimp only
    have met := meetStations_addStretch (recordStretch s)
      { start := s.wt.lastCut, finish := s.wt.p, serial := if mapFull s || serialsGone s then none else some s.wt.nextSerial }
    rw [StationsOnly] at met
    rw [met]
    exact recordStretch_lastCut s

/-- ABORT_ORDER after the cut of it, u, written out (R29, R43, R53, R62). -/
def aborted (s u : State) (i : Slot) : State :=
  { u with
    os := { u.os with
      entry := none
      status := .empty
      copy := none
      table := modifyFirst (fun x => x.slot == i) (fun x => { x with finish := s.wt.p, ended := true, aborted := true })
        u.os.table }
    cp := { s.cp with
      pending := s.cp.pending.filter fun e => !isOrderEnd e && !isZoneMark e
      marks := []
      lift := 0#16
      pressure := 0#3 }
    lc := { u.lc with line := .ready, permit := !u.lc.holds.any }
    xi := { u.xi with
      queue := u.xi.queue.filter fun x => !isOrderRead x
      inHand := u.xi.inHand.map discardInHand } }

theorem abortEntry_eq {s : State} {r : InFlight} (record : entryRecord s = some r) :
    abortEntry s = aborted s (closeStretch s) r.slot := by
  have cut := closeStretch_stretched s
  rw [abortEntry, record]
  dsimp only
  generalize closeStretch s = u at cut ⊢
  obtain ⟨cp, p, -, os, -⟩ := cut
  rw [aborted, ← p, ← cp]
  rfl

/-- Settles O33: the cut of the abort is that of CutsMakeRecords, and all the rest is written out. -/
theorem abortEndsTheEntryOrder : Obligations.AbortEndsTheEntryOrder := by
  unfold Obligations.AbortEndsTheEntryOrder
  intro s r may line record
  obtain ⟨reset, idle, isOpen⟩ := may
  have run : exec .abortOrder s = .next (doneCommand (abortEntry s)) :=
    congrArg _ (judgeCommand_accepted reset idle (by rw [line]; rfl) fun t => doneCommand (abortEntry t))
  have cut := closeStretch_stretched s
  have board := (closeStretch_closed board_calm s).undisturbed
  obtain ⟨entry, found⟩ := (entryRecord_eq_some_iff s r).1 record
  obtain ⟨x, found, order, origin⟩ := cut.record _ _ found
  refine ⟨doneCommand (aborted s (closeStretch s) r.slot), closeStretch s, run.trans (by rw [abortEntry_eq record]),
    ⟨board.clock, board.exbase, board.busy, board.busRead, board.retired, board.written, board.pins, board.prof, board.pending,
      board.mem⟩, rfl, rfl, rfl, closeStretch_holds, rfl, rfl, rfl, ?_,
    ⟨{ x with finish := s.wt.p, ended := true, aborted := true }, ?_, order, origin, rfl, rfl, outcomeOf_aborted rfl⟩, cut.p,
    closeStretch_lastCut, rfl, rfl, rfl, fun e => ?_, fun x queued => ?_, ?_, fun h read going => ?_, rfl, rfl⟩
  · have next := congrArg OrderSequencer.next cut.os
    exact next
  · refine (find?_modifyFirst (p := fun r : InFlight => r.slot == _)
      (f := fun x : InFlight => { x with finish := s.wt.p, ended := true, aborted := true }) (fun _ is => is) _).trans ?_
    rw [found]
    rfl
  · refine List.mem_filter.trans (and_congr_right fun _ => ?_)
    rw [isOrderEnd, isZoneMark]
    cases e.kind <;> simp
  · exact by simpa using (List.mem_filter.1 queued).2
  · exact congrArg (Option.map discardInHand) cut.inHand
  · have apart : (h.stage != .refusing) = true := by simpa using going
    rw [discardInHand, read, apart]
    rfl

end Sys2Proof.Machine
end

section
/-! PROOF. CLEAR_FAULT: the channels recovered, STATION_LIFT kept, the suspension ended, the set judged (R81, R154, R162). -/

namespace Sys2Proof.Machine

/-! ### What a request put into the queue, or lost, leaves as it was (R163) -/

/-- `t` is `s` but for the request queue, the lost reports, EVENTS and the draws. -/
def QueueOnly (s t : State) : Prop :=
  t = { s with
    xi := { s.xi with queue := t.xi.queue, lost := t.xi.lost, firstLoss := t.xi.firstLoss }
    events := { s.events with gap := t.events.gap }
    draws := t.draws }

theorem QueueOnly.refl (s : State) : QueueOnly s s := rfl

theorem QueueOnly.trans {s t u : State} (a : QueueOnly s t) (b : QueueOnly t u) : QueueOnly s u := by
  rw [QueueOnly] at *
  rw [b, a]

theorem afterReport_queueOnly (s : State) (p : Posting) : QueueOnly s (afterReport s p) := by
  unfold QueueOnly afterReport xiAfterReport eventsAfterReport
  dsimp only
  split <;> rfl

theorem post_queueOnly (s : State) (b : ReportBody) : QueueOnly s (post s b) := by
  rw [post_eq]
  exact afterReport_queueOnly s _

theorem handOver_queueOnly (s : State) (t : Transaction) : QueueOnly s (handOver s t) := by
  unfold handOver
  split <;> rfl

/-- What a change of one record that keeps the order leaves to be found of every record. -/
theorem map_find?_modifyFirst {α β : Type} {p q : α → Bool} {f : α → α} {g : α → β} (stays : ∀ a, q (f a) = q a)
    (same : ∀ a, g (f a) = g a) : ∀ l : List α, ((modifyFirst p f l).find? q).map g = (l.find? q).map g
  | [] => rfl
  | a :: rest => by
    unfold modifyFirst
    split
    · rw [List.find?_cons, List.find?_cons, stays a]
      cases q a with
      | true => exact congrArg some (same a)
      | false => rfl
    · rw [List.find?_cons, List.find?_cons]
      cases q a with
      | true => rfl
      | false => exact map_find?_modifyFirst stays same rest

theorem entryTag_eq (s : State) : entryTag s = ((entryRecord s).map fun r => r.order.tag).getD 0#32 := by
  unfold entryTag
  cases entryRecord s <;> rfl

theorem entryTag_changeOrder (s : State) (i : Slot) {f : InFlight → InFlight} (slot : ∀ r, (f r).slot = r.slot)
    (order : ∀ r, (f r).order = r.order) : entryTag (changeOrder s i f) = entryTag s := by
  rw [entryTag_eq, entryTag_eq]
  unfold entryRecord changeOrder
  cases s.os.entry with
  | none => rfl
  | some j =>
    exact congrArg (·.getD 0#32) (map_find?_modifyFirst (p := fun r => r.slot == i) (q := fun r : InFlight => r.slot == j)
      (g := fun r => r.order.tag) (fun r => by rw [slot]) (fun r => by rw [order]) s.os.table)

/-- What a close leaves as it was: all but one record of the table, the open run and the request queue (R47, R48, R141). -/
def CloseOnly (s t : State) : Prop :=
  t = { s with
    os.table := t.os.table
    co.run := t.co.run
    xi := { s.xi with queue := t.xi.queue, lost := t.xi.lost, firstLoss := t.xi.firstLoss }
    events := { s.events with gap := t.events.gap }
    draws := t.draws } ∧ entryTag t = entryTag s

theorem CloseOnly.refl (s : State) : CloseOnly s s := ⟨rfl, rfl⟩

theorem CloseOnly.trans {s t u : State} (a : CloseOnly s t) (b : CloseOnly t u) : CloseOnly s u := by
  obtain ⟨a, tag⟩ := a
  refine ⟨?_, b.2.trans tag⟩
  have b := b.1
  rw [b, a]

theorem QueueOnly.closeOnly {s t : State} (h : QueueOnly s t) : CloseOnly s t := by
  rw [QueueOnly] at h
  rw [h]
  exact ⟨rfl, rfl⟩

theorem reportRunOf_closeOnly (s : State) (slot : Slot) (tag : Word) : CloseOnly s (reportRunOf s slot tag) := by
  have ended : CloseOnly s { s with co.run := none } := ⟨rfl, rfl⟩
  unfold reportRunOf reportRun
  split
  · split
    · exact ended.trans (post_queueOnly _ _).closeOnly
    · exact .refl s
  · exact .refl s

theorem testClose_closeOnly (s : State) : CloseOnly s (testClose s) := by
  unfold testClose
  split
  next r _ =>
    have closing (t : State) : CloseOnly t (changeOrder t r.slot fun x => { x with closing := true }) :=
      ⟨rfl, entryTag_changeOrder t r.slot (fun _ => rfl) fun _ => rfl⟩
    exact ((reportRunOf_closeOnly s _ _).trans (closing _)).trans (handOver_queueOnly _ _).closeOnly
  next => exact .refl s

/-! ### The channels recovered (R81) -/

/-- A channel after CLEAR_FAULT. -/
def clearedChannel (p : Pins) (i : Station) (c : Channel) : Channel :=
  if c.state == .faulted && inSet p.upSense i then
    if inSet p.downSense i then
      { c with state := .faulted, reason := some .senseConflict, pendingLower := false, timer := .stopped }
    else { c with state := .lifted, reason := none }
  else c

/-- The phase record of a station whose channel CLEAR_FAULT takes out of FAULTED. -/
def clearedPhase (p : Pins) (i : Station) (c : Channel) (f : PhaseStation) : PhaseStation :=
  if c.state == .faulted && inSet p.upSense i then { f with captured := false } else f

/-- What the clearing of the channels leaves as it was. -/
def ClearOnly (s t : State) : Prop :=
  t = { s with
    sc := t.sc
    pu := t.pu
    lc := { s.lc with engaged := t.lc.engaged, standstill := t.lc.standstill }
    xi := { s.xi with queue := t.xi.queue, lost := t.xi.lost, firstLoss := t.xi.firstLoss }
    events := { s.events with gap := t.events.gap }
    draws := t.draws }

theorem ClearOnly.refl (s : State) : ClearOnly s s := rfl

theorem ClearOnly.trans {s t u : State} (a : ClearOnly s t) (b : ClearOnly t u) : ClearOnly s u := by
  rw [ClearOnly] at *
  rw [b, a]

theorem QueueOnly.clearOnly {s t : State} (h : QueueOnly s t) : ClearOnly s t := by
  rw [QueueOnly] at h
  rw [h]
  rfl

theorem faultChannel_clearOnly (s : State) (i : Station) (r : StationFault) : ClearOnly s (faultChannel s i r) := by
  rw [faultChannel_eq, syncEngaged_eq]
  generalize posted : s.setChan i _ = t
  have shape : ClearOnly s t := by rw [← posted]; rfl
  refine shape.trans ?_
  have queued := afterReport_queueOnly t (stationFaultReport s i r)
  generalize afterReport t (stationFaultReport s i r) = u at queued
  exact queued.clearOnly.trans rfl

theorem clearChannel_clearOnly (s : State) (i : Station) : ClearOnly s (clearChannel s i) := by
  have freed : ClearOnly s (uncapture (s.setChan i { s.chan i with state := .lifted, reason := none }) i) := rfl
  unfold clearChannel
  split
  · dsimp only
    split
    · exact freed.trans (faultChannel_clearOnly _ i _)
    · exact freed
  · exact .refl s

theorem faultChannel_phase (s : State) (i : Station) (r : StationFault) (j : Station) :
    (faultChannel s i r).phase j = s.phase j := by
  rw [faultChannel_eq, syncEngaged_eq]
  rfl

theorem clearChannel_self (s : State) (i : Station) :
    (clearChannel s i).chan i = clearedChannel s.pins i (s.chan i) ∧
      (clearChannel s i).phase i = clearedPhase s.pins i (s.chan i) (s.phase i) := by
  unfold clearChannel clearedChannel clearedPhase
  split
  · dsimp only
    have lifted : (uncapture (s.setChan i { s.chan i with state := .lifted, reason := none }) i).chan i =
        { s.chan i with state := .lifted, reason := none } := State.setChan_chan_self s i _
    have released : (uncapture (s.setChan i { s.chan i with state := .lifted, reason := none }) i).phase i =
        { s.phase i with captured := false } := State.setPhase_phase_self _ i _
    split
    · rw [faultChannel_chan, State.setChan_chan_self, faultChannel_phase, lifted, released]
      exact ⟨rfl, rfl⟩
    · exact ⟨lifted, released⟩
  · exact ⟨rfl, rfl⟩

theorem clearChannel_other (s : State) (i j : Station) (other : j ≠ i) :
    (clearChannel s i).chan j = s.chan j ∧ (clearChannel s i).phase j = s.phase j := by
  have lifted : (uncapture (s.setChan i { s.chan i with state := .lifted, reason := none }) i).chan j = s.chan j :=
    State.setChan_chan_of_ne s i j _ other.symm
  have released : (uncapture (s.setChan i { s.chan i with state := .lifted, reason := none }) i).phase j = s.phase j :=
    State.setPhase_phase_of_ne _ i j _ other.symm
  unfold clearChannel
  split
  · dsimp only
    split
    · rw [faultChannel_chan, State.setChan_chan_of_ne _ i j _ other.symm, faultChannel_phase]
      exact ⟨lifted, released⟩
    · exact ⟨lifted, released⟩
  · exact ⟨rfl, rfl⟩

theorem clearList_each {l : List Station} (once : l.Nodup) (s : State) {i : Station} (mem : i ∈ l) :
    ((l.foldl clearChannel s).chan i, (l.foldl clearChannel s).phase i) =
      (clearedChannel s.pins i (s.chan i), clearedPhase s.pins i (s.chan i) (s.phase i)) :=
  foldl_local (f := clearChannel) (get := fun t j => (t.chan j, t.phase j)) (P := fun t => t.pins = s.pins)
    (g := fun x => (clearedChannel s.pins i x.1, clearedPhase s.pins i x.1 x.2)) (b := i)
    (fun t j pins => by rw [clearChannel_clearOnly t j]; exact pins)
    (fun t j k other => Prod.ext (clearChannel_other t j k other).1 (clearChannel_other t j k other).2)
    (fun t pins => by rw [(clearChannel_self t i).1, (clearChannel_self t i).2, pins])
    once mem rfl

theorem clearList_clearOnly (l : List Station) (s : State) : ClearOnly s (l.foldl clearChannel s) :=
  foldl_keeps (P := ClearOnly s) (fun t i shape => shape.trans (clearChannel_clearOnly t i)) l (.refl s)

/-- CLEAR_FAULT at every channel is CLEAR_FAULT at each (R81). -/
theorem clearChannels_each (s : State) (i : Station) :
    (clearChannels s).chan i = clearedChannel s.pins i (s.chan i) ∧
      (clearChannels s).phase i = clearedPhase s.pins i (s.chan i) (s.phase i) :=
  Prod.mk.inj (clearList_each stationList_nodup s (mem_stationList i))

theorem clearChannels_clearOnly (s : State) : ClearOnly s (clearChannels s) := clearList_clearOnly stationList s

/-- No channel has both sensors high where CLEAR_FAULT finds it FAULTED. -/
def Unconflicted (s : State) : Prop :=
  ∀ i, (s.chan i).state = .faulted → inSet s.pins.upSense i = true → inSet s.pins.downSense i = false

theorem clearedChannel_faulted {p : Pins} {i : Station} {c : Channel} (faulted : (clearedChannel p i c).state = .faulted) :
    c.state = .faulted := by
  unfold clearedChannel at faulted
  split at faulted
  next recovers =>
    rw [Bool.and_eq_true, beq_iff_eq] at recovers
    exact recovers.1
  next => exact faulted

theorem clearChannel_unconflicted {s : State} (clean : Unconflicted s) (i : Station) :
    Unconflicted (clearChannel s i) ∧ (clearChannel s i).xi = s.xi ∧ (clearChannel s i).events = s.events := by
  have pins : (clearChannel s i).pins = s.pins := by rw [clearChannel_clearOnly s i]
  refine ⟨fun j faulted => ?_, ?_⟩
  · rw [pins]
    by_cases same : j = i
    · subst same
      rw [(clearChannel_self s j).1] at faulted
      exact clean j (clearedChannel_faulted faulted)
    · rw [(clearChannel_other s i j same).1] at faulted
      exact clean j faulted
  · unfold clearChannel
    split
    next recovers =>
      rw [Bool.and_eq_true, beq_iff_eq] at recovers
      dsimp only
      rw [clean i recovers.1 recovers.2]
      exact ⟨rfl, rfl⟩
    next => exact ⟨rfl, rfl⟩

/-- Without a conflict to report the clearing posts nothing. -/
theorem clearChannels_quiet {s : State} (clean : Unconflicted s) :
    (clearChannels s).xi = s.xi ∧ (clearChannels s).events = s.events :=
  (foldl_keeps (P := fun t => Unconflicted t ∧ t.xi = s.xi ∧ t.events = s.events)
    (fun t i h => by
      obtain ⟨clean, xi, events⟩ := h
      obtain ⟨stays, xi', events'⟩ := clearChannel_unconflicted clean i
      exact ⟨stays, xi'.trans xi, events'.trans events⟩)
    stationList ⟨clean, rfl, rfl⟩ : Unconflicted (overList stationList clearChannel s) ∧ _).2

/-! ### STATION_LIFT kept (R81, R154) -/

/-- A channel that CLEAR_FAULT leaves FAULTED with LIFT_TIMEOUT. -/
def StaysDown (s : State) (i : Station) : Prop :=
  (s.chan i).state = .faulted ∧ inSet s.pins.upSense i = false ∧ (s.chan i).reason = some .liftTimeout

theorem stuckDown_iff (s : State) :
    stuckDown s = true ↔ ∃ i, (s.chan i).state = .faulted ∧ (s.chan i).reason = some .liftTimeout := by
  rw [stuckDown, List.any_eq_true]
  simp only [mem_stationList, true_and, Bool.and_eq_true, beq_iff_eq]

theorem clearedChannel_stuck_iff (p : Pins) (i : Station) (c : Channel) :
    (clearedChannel p i c).state = .faulted ∧ (clearedChannel p i c).reason = some .liftTimeout ↔
      c.state = .faulted ∧ inSet p.upSense i = false ∧ c.reason = some .liftTimeout := by
  unfold clearedChannel
  cases up : inSet p.upSense i with
  | false => simp
  | true =>
    cases down : inSet p.downSense i <;> simp
    all_goals split <;> simp_all

theorem stuckDown_cleared (s : State) : stuckDown (clearChannels s) = true ↔ ∃ i, StaysDown s i := by
  rw [stuckDown_iff]
  refine exists_congr fun i => ?_
  rw [(clearChannels_each s i).1]
  exact clearedChannel_stuck_iff s.pins i (s.chan i)

/-- The line after the first three steps of CLEAR_FAULT. -/
def freedLine (s : State) : State := raiseStuck (clearChannels (dropFault s))

theorem recovered_freedLine (s : State) : recovered s = endSuspension (freedLine s) := rfl

/-- The first three steps of CLEAR_FAULT: FAULT stands exactly if a channel stays down (R154). -/
theorem freedLine_eq {s : State} {stuck : Bool} (is : stuck = true ↔ ∃ i, StaysDown s i) :
    freedLine s = { s with
      sc := (freedLine s).sc
      pu := (freedLine s).pu
      lc := { s.lc with
        holds := { s.lc.holds with fault := stuck }
        firstFault := if stuck then some .stationLift else none
        engaged := (freedLine s).lc.engaged
        standstill := (freedLine s).lc.standstill }
      xi := { s.xi with
        queue := (freedLine s).xi.queue, lost := (freedLine s).xi.lost, firstLoss := (freedLine s).xi.firstLoss }
      events := { s.events with gap := (freedLine s).events.gap, fault := s.events.fault || stuck }
      draws := (freedLine s).draws } := by
  have down : stuckDown (clearChannels (dropFault s)) = stuck := by
    rw [Bool.eq_iff_iff, is]
    exact stuckDown_cleared (dropFault s)
  have shape := clearChannels_clearOnly (dropFault s)
  rw [freedLine, raiseStuck, down]
  generalize clearChannels (dropFault s) = t at shape ⊢
  rw [ClearOnly] at shape
  cases stuck with
  | false =>
    rw [if_neg Bool.false_ne_true, if_neg Bool.false_ne_true, Bool.or_false]
    exact shape
  | true =>
    rw [if_pos rfl, if_pos rfl, Bool.or_true, noteFault, shape]
    rfl

theorem raiseStuck_pu (s : State) : (raiseStuck s).pu = s.pu := by
  unfold raiseStuck
  split <;> rfl

theorem freedLine_chan (s : State) (i : Station) : (freedLine s).chan i = clearedChannel s.pins i (s.chan i) := by
  have sc : (freedLine s).sc = (clearChannels (dropFault s)).sc := raiseStuck_sc _
  rw [State.chan, sc]
  exact (clearChannels_each (dropFault s) i).1

theorem freedLine_phase (s : State) (i : Station) :
    (freedLine s).phase i = clearedPhase s.pins i (s.chan i) (s.phase i) := by
  have pu : (freedLine s).pu = (clearChannels (dropFault s)).pu := raiseStuck_pu _
  rw [State.phase, pu]
  exact (clearChannels_each (dropFault s) i).2

/-! ### The suspension ended (R48, R162) -/

theorem endSuspension_free {s : State} (free : s.xi.suspended = false) : endSuspension s = s := by
  rw [endSuspension, free]
  rfl

theorem endSuspension_none {s : State} (suspended : s.xi.suspended = true) (held : s.xi.held = none) :
    endSuspension s = testClose { s with xi.suspended := false } := by
  rw [endSuspension, if_pos suspended, held]
  dsimp only
  rw [← held]

theorem postAt_afterReport (s : State) (b : ReportBody) (clk : Word) : postAt s b clk = afterReport s (postingOf s b clk) := by
  unfold postAt afterReport xiAfterReport eventsAfterReport postingLost loseReport enqueue
  dsimp only
  split <;> simp_all

theorem reportBusFault_eq (s : State) (f : HeldFault) : reportBusFault s f = afterReport s
    { kind := .busFault, tag := entryTag s, station := 0#32, serial := wordOfNat s.wt.nextSerial, clock := f.clock,
      first := wordOfNat f.offset, second := if f.write then 1#32 else 0#32 } := by
  rw [reportBusFault, postAt_afterReport]
  cases f.write <;> rfl

theorem endSuspension_some {s : State} {f : HeldFault} (suspended : s.xi.suspended = true) (held : s.xi.held = some f) :
    endSuspension s = testClose (afterReport { s with xi.suspended := false, xi.held := none }
      { kind := .busFault, tag := entryTag s, station := 0#32, serial := wordOfNat s.wt.nextSerial, clock := f.clock,
        first := wordOfNat f.offset, second := if f.write then 1#32 else 0#32 }) := by
  rw [endSuspension, if_pos suspended, held]
  dsimp only
  rw [reportBusFault_eq]
  rfl

/-- What the end of a suspension leaves: no suspension and no held fault, and what a report and a close leave (R48, R162). -/
theorem endSuspension_closeOnly (s : State) :
    CloseOnly { s with xi.suspended := false, xi.held := if s.xi.suspended then none else s.xi.held } (endSuspension s) := by
  cases suspended : s.xi.suspended with
  | false =>
    rw [endSuspension_free suspended, if_neg Bool.false_ne_true, ← suspended]
    exact .refl s
  | true =>
    rw [if_pos rfl]
    cases held : s.xi.held with
    | none =>
      rw [endSuspension_none suspended held, ← held]
      exact testClose_closeOnly _
    | some f =>
      rw [endSuspension_some suspended held]
      exact (afterReport_queueOnly _ _).closeOnly.trans (testClose_closeOnly _)

theorem endSuspension_entryTag (s : State) : entryTag (endSuspension s) = entryTag s := (endSuspension_closeOnly s).2

/-! ### The set judged (R147, R154) -/

theorem HoldSet.any_iff (h : HoldSet) : h.any = true ↔ h ≠ {} := by
  obtain ⟨a, b, c, d, e⟩ := h
  simp [HoldSet.any]
  grind

theorem judgeSet_stays {s : State} {before : Bool} (h : before = s.lc.holds.any) : judgeSet before s = s := by
  rw [judgeSet, h]
  split
  · rfl
  · rfl

theorem judgeSet_empties {s : State} (empty : s.lc.holds.any = false) :
    judgeSet true s = holdExit s { fault := true } := by
  rw [judgeSet, empty]
  rfl

/-- HOLD_OFF of FAULT alone, with the permit back (R147). -/
theorem holdExit_fault {s : State} (opened : lineOpen s = true) (empty : s.lc.holds.any = false) :
    holdExit s { fault := true } = { afterReport s
      { kind := .holdOff, tag := entryTag s, station := 0#32, serial := wordOfNat s.wt.nextSerial, clock := s.clock,
        first := 16#32, second := s.clock - s.lc.holdStart } with lc := { s.lc with permit := true } } := by
  have judged : (lineOpen s && !s.lc.holds.any) = true := by rw [opened, empty]; rfl
  rw [holdExit_posts]
  exact congrArg (fun p => { afterReport s (holdOffPosting s { fault := true }) with lc := { s.lc with permit := p } }) judged

/-- What the judgement of the set changes where it makes no hold entry (R154). -/
theorem judgeSet_shape {s : State} {before : Bool} (opened : lineOpen s = true) (exits : before = true ∨ s.lc.holds.any = false) :
    judgeSet before s = { s with
      lc.permit := if before = true ∧ s.lc.holds.any = false then true else s.lc.permit
      xi := { s.xi with queue := (judgeSet before s).xi.queue, lost := (judgeSet before s).xi.lost,
                        firstLoss := (judgeSet before s).xi.firstLoss }
      events := { s.events with gap := (judgeSet before s).events.gap }
      draws := (judgeSet before s).draws } := by
  by_cases same : before = s.lc.holds.any
  · rw [judgeSet_stays same, if_neg (by simp [same])]
  · have empty : s.lc.holds.any = false := by
      rcases exits with held | empty
      · simpa [held] using same
      · exact empty
    have held : before = true := by simpa [empty] using same
    rw [held, judgeSet_empties empty, holdExit_fault opened empty, if_pos ⟨rfl, empty⟩]
    generalize posted : Posting.mk .. = p
    have queued := afterReport_queueOnly s p
    generalize afterReport s p = t at queued ⊢
    rw [QueueOnly] at queued
    rw [queued]

/-! ### CLEAR_FAULT -/

theorem exec_clearFault {s : State} (may : Commandable s) :
    exec .clearFault s = .next (doneCommand (judgeSet s.lc.holds.any (endSuspension (freedLine s)))) :=
  congrArg _ (judgeCommand_open may fun t => doneCommand (clearFault t))

theorem raiseStuck_xi (s : State) : (raiseStuck s).xi = s.xi := by
  unfold raiseStuck
  split <;> rfl

/-- The line when the set is judged. -/
theorem recovered_eq {s : State} {stuck : Bool} (is : stuck = true ↔ ∃ i, StaysDown s i) :
    recovered s = { s with
      sc := (freedLine s).sc
      pu := (freedLine s).pu
      os.table := (recovered s).os.table
      co.run := (recovered s).co.run
      lc := { s.lc with
        holds := { s.lc.holds with fault := stuck }
        firstFault := if stuck then some .stationLift else none
        engaged := (freedLine s).lc.engaged
        standstill := (freedLine s).lc.standstill }
      xi := { s.xi with
        suspended := false
        held := if s.xi.suspended then none else s.xi.held
        queue := (recovered s).xi.queue
        lost := (recovered s).xi.lost
        firstLoss := (recovered s).xi.firstLoss }
      events := { s.events with gap := (recovered s).events.gap, fault := s.events.fault || stuck }
      draws := (recovered s).draws } := by
  have freed := freedLine_eq is
  have ended := (endSuspension_closeOnly (freedLine s)).1
  rw [recovered_freedLine]
  generalize clearChannels (dropFault s) = c at freed
  generalize freedLine s = u at freed ended ⊢
  generalize endSuspension u = v at ended ⊢
  rw [ended, freed]

theorem entryTag_freedLine {s : State} {stuck : Bool} (is : stuck = true ↔ ∃ i, StaysDown s i) :
    entryTag (freedLine s) = entryTag s := by
  rw [freedLine_eq is]
  rfl

theorem HoldSet.any_withoutFault {h : HoldSet} (empty : h.any = false) : HoldSet.any { h with fault := false } = false := by
  simp only [HoldSet.any, Bool.or_eq_false_iff] at empty ⊢
  exact ⟨empty.1, trivial⟩

/-- What stands after CLEAR_FAULT. -/
theorem clearFault_leaves {s : State} {stuck : Bool} (opened : lineOpen s = true) (is : stuck = true ↔ ∃ i, StaysDown s i)
    (judged : s.lc.holds.any = true ∨ stuck = false) {t : State}
    (run : t = doneCommand (judgeSet s.lc.holds.any (recovered s))) :
    t = { s with
      sc := (freedLine s).sc
      pu := (freedLine s).pu
      os.table := t.os.table
      co.run := t.co.run
      lc := { s.lc with
        holds := { s.lc.holds with fault := stuck }
        firstFault := if stuck then some .stationLift else none
        permit := if s.lc.holds.any = true ∧ HoldSet.any { s.lc.holds with fault := stuck } = false then true else s.lc.permit
        engaged := t.lc.engaged
        standstill := t.lc.standstill }
      xi := { s.xi with
        suspended := false
        held := if s.xi.suspended then none else s.xi.held
        queue := t.xi.queue
        lost := t.xi.lost
        firstLoss := t.xi.firstLoss }
      events := { s.events with gap := t.events.gap, fault := s.events.fault || stuck, cmdDone := true }
      draws := t.draws } := by
  have left := recovered_eq is
  generalize freedLine s = u at left ⊢
  generalize recovered s = v at left run
  have stays : lineOpen v = true := by rw [left]; exact opened
  have exits : s.lc.holds.any = true ∨ v.lc.holds.any = false := by
    rw [left]
    cases held : s.lc.holds.any with
    | true => exact .inl rfl
    | false =>
      rw [held] at judged
      rw [judged.resolve_left Bool.false_ne_true]
      exact .inr (HoldSet.any_withoutFault held)
  have ends := judgeSet_shape (before := s.lc.holds.any) stays exits
  generalize judgeSet s.lc.holds.any v = w at ends run
  rw [run, ends, left]
  rfl

theorem raiseStuck_gap (s : State) : (raiseStuck s).events.gap = s.events.gap := by
  unfold raiseStuck
  split <;> rfl

theorem clearedChannel_up {p : Pins} {i : Station} {c : Channel} (faulted : c.state = .faulted) (up : inSet p.upSense i = true)
    (f : PhaseStation) :
    clearedChannel p i c = (if inSet p.downSense i then
        { c with state := .faulted, reason := some .senseConflict, pendingLower := false, timer := .stopped }
      else { c with state := .lifted, reason := none }) ∧
    clearedPhase p i c f = { f with captured := false } := by
  rw [clearedChannel, clearedPhase, faulted, up]
  exact ⟨rfl, rfl⟩

theorem clearedChannel_stays {p : Pins} {i : Station} {c : Channel} (stays : c.state ≠ .faulted ∨ inSet p.upSense i = false)
    (f : PhaseStation) : clearedChannel p i c = c ∧ clearedPhase p i c f = f := by
  have not : ¬ (c.state == .faulted && inSet p.upSense i) = true := by
    rw [Bool.and_eq_true, beq_iff_eq]
    rintro ⟨faulted, up⟩
    rcases stays with other | low
    · exact other faulted
    · exact Bool.noConfusion (low.symm.trans up)
  exact ⟨if_neg not, if_neg not⟩

/-- The command is done on the line recovered, the set emptied or not. -/
theorem exec_clearFault_judged {s : State} {stuck : Bool} (may : Commandable s) (is : stuck = true ↔ ∃ i, StaysDown s i) :
    (s.lc.holds.any = true → { s.lc.holds with fault := stuck } ≠ ({} : HoldSet) →
      exec .clearFault s = .next { recovered s with events.cmdDone := true }) ∧
    (s.lc.holds = { fault := true } → stuck = false → exec .clearFault s = .next { afterReport (recovered s)
        { kind := .holdOff, tag := entryTag s, station := 0#32, serial := wordOfNat s.wt.nextSerial, clock := s.clock,
          first := 16#32, second := s.clock - s.lc.holdStart } with
        lc := { (recovered s).lc with permit := true }
        events := { eventsAfterReport (recovered s) with cmdDone := true } }) ∧
    (s.lc.holds.any = false → stuck = false → exec .clearFault s = .next { recovered s with events.cmdDone := true }) := by
  have run := exec_clearFault may
  obtain ⟨-, -, opened⟩ := may
  have left := recovered_eq is
  have tag : entryTag (recovered s) = entryTag s := by
    rw [recovered_freedLine, endSuspension_entryTag, entryTag_freedLine is]
  rw [← recovered_freedLine] at run
  generalize freedLine s = u at left
  generalize recovered s = v at left tag run ⊢
  have holds : v.lc.holds = { s.lc.holds with fault := stuck } := by rw [left]
  refine ⟨fun held more => ?_, fun only free => ?_, fun empty free => ?_⟩
  · rw [run, judgeSet_stays (by rw [held, holds, (HoldSet.any_iff _).2 more])]
    rfl
  · have stays : lineOpen v = true := by rw [left]; exact opened
    have off : v.lc.holds.any = false := by rw [holds, only, free]; rfl
    have serial : v.wt.nextSerial = s.wt.nextSerial := by rw [left]
    have clock : v.clock = s.clock := by rw [left]
    have start : v.lc.holdStart = s.lc.holdStart := by rw [left]
    have before : s.lc.holds.any = true := by rw [only]; rfl
    rw [run, before, judgeSet_empties off, holdExit_fault stays off, tag, serial, clock, start]
    rfl
  · rw [run, judgeSet_stays (by rw [empty, holds, free, HoldSet.any_withoutFault empty])]
    rfl

/-- Settles O31: the channels one by one, FAULT by the channels that stay down, then the suspension, then the set. -/
theorem clearFaultRecoversTheLine : Obligations.ClearFaultRecoversTheLine := by
  unfold Obligations.ClearFaultRecoversTheLine
  intro s stuck may is
  have run := exec_clearFault may
  rw [← recovered_freedLine] at run
  obtain ⟨done, exits, free⟩ := exec_clearFault_judged may is
  obtain ⟨-, -, opened⟩ := may
  refine ⟨fun judged => ⟨_, run, ?_⟩, freedLine s, recovered s, ?_⟩
  · have left := clearFault_leaves opened is judged rfl
    have chan := freedLine_chan s
    have phase := freedLine_phase s
    generalize freedLine s = u at left chan phase
    generalize doneCommand (judgeSet s.lc.holds.any (recovered s)) = t at left ⊢
    rw [left]
    refine ⟨⟨rfl, rfl, rfl, rfl, rfl, rfl, rfl, rfl, rfl, fun _ => rfl⟩, rfl, fun i => ⟨fun faulted up down => ?_,
      fun faulted up down => ?_, fun stays => ?_⟩, rfl, rfl, rfl, fun h => ?_, rfl, rfl,
      fun h => if_neg (by rw [h]; exact Bool.false_ne_true), fun h => if_pos h, rfl⟩
    · have lifted := clearedChannel_up faulted up (s.phase i)
      rw [down] at lifted
      exact ⟨(chan i).trans lifted.1, congrArg PhaseStation.captured ((phase i).trans lifted.2)⟩
    · have again := clearedChannel_up faulted up (s.phase i)
      rw [down] at again
      exact (chan i).trans again.1
    · obtain ⟨c, f⟩ := clearedChannel_stays stays (s.phase i)
      exact ⟨(chan i).trans c, (phase i).trans f⟩
    · rw [h, Bool.or_true]
  · have freed := freedLine_eq is
    have quiet := clearChannels_quiet (s := dropFault s)
    have xi : (freedLine s).xi = (clearChannels (dropFault s)).xi := raiseStuck_xi _
    have gap : (freedLine s).events.gap = (clearChannels (dropFault s)).events.gap := by
      rw [freedLine, raiseStuck_gap]
    have tag := entryTag_freedLine is
    rw [recovered_freedLine] at done exits free ⊢
    generalize clearChannels (dropFault s) = c at quiet xi gap
    generalize freedLine s = u at freed xi gap tag done exits free ⊢
    have suspended : u.xi.suspended = s.xi.suspended := by rw [freed]
    have held : u.xi.held = s.xi.held := by rw [freed]
    have serial : u.wt.nextSerial = s.wt.nextSerial := by rw [freed]
    refine ⟨⟨by rw [freed], by rw [freed], by rw [freed], by rw [freed]⟩, ⟨suspended, held⟩,
      ⟨by rw [freed], by rw [freed], by rw [freed]⟩, fun clean => ?_, fun off => endSuspension_free (suspended.trans off),
      fun on none => endSuspension_none (suspended.trans on) (held.trans none), fun f on fault => ?_, done, exits, free⟩
    · obtain ⟨same, events⟩ := quiet clean
      have gap : u.events.gap = s.events.gap := gap.trans (congrArg Events.gap events)
      refine ⟨xi.trans same, ?_⟩
      rw [freed]
      dsimp only
      rw [gap]
    · rw [endSuspension_some (suspended.trans on) (held.trans fault), tag, serial]

end Sys2Proof.Machine
end

section
/-! PROOF. Takes: what OS hands its neighbours, TAKEN with ORDER_TAKEN, the prefetch (R36);
starvation and HALT (R35, R37, R39). -/

namespace Sys2Proof.Machine

/-! ### The build cursor of a take (R102) -/

/-- `t` is `s` but for the Mark Reader. -/
def ReaderOnly (s t : State) : Prop := t = { s with mr := t.mr }

/-- A schedule just built has no station FOUND, so its repeat is unreferenced (R103, R109). -/
theorem buildSchedule_unreferenced (s : State) (c : Cursor) : keyDeviation (buildSchedule s c) = none := by
  rw [Option.eq_none_iff_forall_ne_some]
  intro d referenced
  obtain ⟨i, e, x, -, entry, found, -, -⟩ := (keyDeviation_iff _ d).1 referenced
  obtain ⟨-, built⟩ := ((buildSchedule_entries s c).2 e).1 (List.mem_of_find?_eq_some entry)
  obtain ⟨-, -, -, -, -, -, state, -⟩ := (buildEntry_eq_some_iff s c _ e).1 built
  rw [found] at state
  split at state <;> cases state

theorem evaluateIfComplete_fresh {s : State} {tag : Word} {index : Nat}
    (fresh : ∀ sch, scheduleOf s tag index = some sch → keyDeviation sch = none) :
    ReaderOnly s (evaluateIfComplete s tag index) := by
  cases found : scheduleOf s tag index with
  | none =>
    rw [evaluateIfComplete_absent found]
    rfl
  | some sch =>
    rw [evaluateIfComplete_found found]
    split
    · rw [evaluateRepeat_unreferenced (fresh sch found)]
      rfl
    · rfl

/-- The build of an order's first schedule concerns the Mark Reader alone (R102, R103). -/
theorem meetBuild_fresh {s : State} {c : Cursor} (fresh : ∀ sch ∈ s.mr.schedules, sch.tag ≠ c.tag) :
    ReaderOnly s (meetBuild s c) := by
  unfold meetBuild
  split
  · rfl
  split
  · rfl
  dsimp only
  split
  · rfl
  · refine (fun h : ReaderOnly _ _ => by rw [ReaderOnly] at h ⊢; rw [h]) (evaluateIfComplete_fresh fun sch found => ?_)
    have old : s.mr.schedules.find? (isScheduleOf c.tag c.index) = none :=
      List.find?_eq_none.2 fun x mem => by simp [isScheduleOf, fresh x mem]
    have built : scheduleOf _ c.tag c.index = some sch := found
    rw [scheduleOf] at built
    dsimp only at built
    rw [List.find?_append, old, Option.none_or, List.find?_singleton] at built
    split at built
    · obtain rfl := Option.some.inj built
      exact buildSchedule_unreferenced s c
    · cases built

theorem readerTake_readerOnly {s : State} {o : Order} (fresh : ∀ sch ∈ s.mr.schedules, sch.tag ≠ o.tag) (origin : Nat) :
    ReaderOnly s (readerTake s o origin) := by
  unfold readerTake
  split
  · dsimp only
    have built := meetBuild_fresh (s := { s with mr.cursors := s.mr.cursors ++
      [{ tag := o.tag, origin := origin, length := o.length, set := o.set, key := keyOf o.set, index := 0 }] })
      (c := { tag := o.tag, origin := origin, length := o.length, set := o.set, key := keyOf o.set, index := 0 }) fresh
    rw [ReaderOnly] at built ⊢
    rw [built]
  · rfl

/-- The build cursor of an order at its take (R102). -/
def firstCursor (o : Order) (origin : Nat) : Cursor :=
  { tag := o.tag, origin := origin, length := o.length, set := o.set, key := keyOf o.set, index := 0 }

theorem readerTake_prints (s : State) {o : Order} (prints : printsDesign o.kind = true) (origin : Nat) :
    readerTake s o origin =
      meetBuild { s with mr.cursors := s.mr.cursors ++ [firstCursor o origin] } (firstCursor o origin) :=
  if_pos prints

theorem readerTake_plain (s : State) {o : Order} (plain : printsDesign o.kind = false) (origin : Nat) :
    readerTake s o origin = s :=
  if_neg (by simp [plain])

/-! ### The Phase Unit and the Cut Planner at a take (R53, R54, R62, R87, R93) -/

/-- The Phase Unit after a take. -/
def takenPhase (u : PhaseUnit) (o : Order) (origin : Nat) (late : Bool) : PhaseUnit :=
  if printsDesign o.kind then
    { u with
      orders := u.orders ++ [
        { tag := o.tag, origin := origin, length := o.length, set := o.set, key := keyOf o.set,
          join := if late then o.set else minusSet o.set u.lastSet, captureFails := 0#16 }]
      lastSet := o.set
      switches := u.switches ++ [origin] }
  else { u with lastSet := 0#16 }

theorem phaseTake_eq (s : State) (o : Order) (origin : Nat) (late : Bool) :
    phaseTake s o origin late = { s with pu := takenPhase s.pu o origin late } := by
  unfold phaseTake takenPhase
  split <;> rfl

/-- The Cut Planner of a take before its ORDER_END and zone marks are entered. -/
def clearedPlan (c : CutPlanner) (o : Order) (origin : Nat) : CutPlanner :=
  { c with
    lift := if printsDesign o.kind then o.lift else 0#16
    pressure := if printsDesign o.kind then o.pressure else 0#3
    marks := if printsDesign o.kind then markTable o origin else []
    pending := c.pending.filter fun e => !isOrderEnd e && !isZoneMark e }

theorem planTake_eq (c : CutPlanner) (o : Order) (origin finish p : Nat) :
    planTake c o origin finish p = planEnd (clearedPlan c o origin) p finish := by
  unfold planTake clearedPlan
  cases printsDesign o.kind <;> rfl

/-- The ZONE_MARK entries of a take are those of its marks between P and the end (R54). -/
theorem planTake_mark_iff (c : CutPlanner) (o : Order) (origin finish p : Nat) {e : CutEntry} {k : Nat}
    (kind : e.kind = .zoneMark k) : e ∈ (planEnd (clearedPlan c o origin) p finish).pending ↔
      ∃ m, (clearedPlan c o origin).marks[k]? = some m ∧ e.position = m.position ∧ p < m.position ∧ m.position < finish := by
  have unmarked :
      ((clearedPlan c o origin).pending.filter fun e => e.kind == .zoneMark k && decide (e.position < finish)) = [] := by
    refine List.filter_eq_nil_iff.2 fun x mem => ?_
    have plain := (List.mem_filter.1 mem).2
    intro marked
    rw [Bool.and_eq_true, beq_iff_eq] at marked
    rw [isZoneMark, marked.1, Bool.not_true, Bool.and_false] at plain
    cases plain
  have waiting (m : MarkRecord) (found : (clearedPlan c o origin).marks[k]? = some m) : m.applied = false := by
    have mem := List.mem_of_getElem? found
    unfold clearedPlan markTable at mem
    dsimp only at mem
    split at mem
    · obtain ⟨x, -, rfl⟩ := List.mem_map.1 mem
      rfl
    · cases mem
  have own := planEnd_entriesOf (clearedPlan c o origin) p finish k
  rw [if_pos unmarked] at own
  have mine : e ∈ (planEnd (clearedPlan c o origin) p finish).pending ↔
      e ∈ ownEntry p finish k (clearedPlan c o origin).marks[k]? := by
    rw [← own, mem_entriesOf]
    simp [kind]
  rw [mine]
  cases found : (clearedPlan c o origin).marks[k]? with
  | none => simp [ownEntry]
  | some m =>
    obtain ⟨is, position⟩ := e
    obtain rfl : is = .zoneMark k := kind
    simp [ownEntry, waiting m found]
    grind

/-! ### The record of a take (R36, R40, R41) -/

theorem takenRecord_seamEnd (s : State) (o : Order) (late : Bool) :
    (takenRecord s o late).seamEnd = seamEndNow { takenRecord s o late with seamEnd := none } s.cp.seams := by
  rfl

theorem takenRecord_finish (s : State) (o : Order) (late : Bool) :
    (takenRecord s o late).finish = leastEnd (takenRecord s o late) := rfl

theorem takenRecord_alone {s : State} (o : Order) (late : Bool) (alone : s.cp.seams = []) :
    (takenRecord s o late).finish = plannedEnd o s.wt.p := by
  have none : (takenRecord s o late).seamEnd = none := by
    rw [takenRecord_seamEnd, alone]
    unfold seamEndNow
    cases (takenRecord s o late).order.endCondition <;> cases (takenRecord s o late).order.kind <;> rfl
  rw [takenRecord_finish, leastEnd, none]
  rfl

/-! ### TAKEN, ORDER_TAKEN and the prefetch (R36) -/

theorem afterReport_queued {s : State} (free : s.xi.suspended = false) (room : waitingReports s.xi.queue < 48) (p : Posting) :
    afterReport s p = { s with xi.queue := s.xi.queue ++ [.report p], draws := s.draws + 1 } := by
  have kept : postingLost s = false := by
    rw [postingLost, free, Bool.false_or, decide_eq_false_iff_not]
    exact Nat.not_le.2 room
  rw [afterReport, xiAfterReport, eventsAfterReport, kept]
  rfl

theorem waitingReports_append (a b : List Transaction) :
    waitingReports (a ++ b) = waitingReports a + waitingReports b := by
  rw [waitingReports, List.filter_append, List.length_append]
  rfl

/-- ORDER_TAKEN of a record (R36). -/
def takenPosting (s : State) (r : InFlight) (station : Word) : Posting :=
  { kind := .orderTaken, tag := r.order.tag, station := station, serial := wordOfNat s.wt.nextSerial, clock := s.clock,
    first := wordOfNat r.slot.val, second := if r.late then 1#32 else 0#32 }

theorem reportTake_queued {s : State} (free : s.xi.suspended = false) (room : waitingReports s.xi.queue < 48) (r : InFlight) :
    ∃ station : Word, station.toNat ≤ 16 ∧ reportTake s r = { s with
      os.next := r.slot + 1
      xi.queue := s.xi.queue ++ [.takeWrite r.slot, .report (takenPosting s r station)]
      draws := s.draws + 1 } := by
  have handed : handOver s (.takeWrite r.slot) = enqueue s (.takeWrite r.slot) := if_neg (by simp [free])
  have room' : waitingReports (s.xi.queue ++ [.takeWrite r.slot]) < 48 := by
    rw [waitingReports_append]
    exact room
  refine ⟨wordOfNat (Config.unstatedStation s.draws).val, unstatedStation_le _, ?_⟩
  rw [reportTake, handed, post_eq,
    afterReport_queued (s := { enqueue s (.takeWrite r.slot) with os.next := r.slot + 1 }) free room']
  have second : wordOfNat (bitOf r.late 0) = if r.late then 1#32 else 0#32 := by cases r.late <;> rfl
  simp only [postingOf, takenPosting, enqueue, second, List.append_assoc, List.cons_append, List.nil_append, Option.getD]

theorem enterOrder_prints {s : State} {r : InFlight} (prints : r.order.kind ≠ .halt) : enterOrder s r = { s with
    os := { s.os with table := s.os.table ++ [r], entry := some r.slot, copy := none, status := .empty }
    lc := { s.lc with line := .printing, permit := !s.lc.holds.any } } :=
  if_neg (by simpa using prints)

/-- The state that a take of a PRINT, PROOF or BLANK order hands to the Mark Reader. -/
def atReader (s : State) (o : Order) (late : Bool) : State :=
  { s with
    os := { s.os with
      table := s.os.table ++ [takenRecord s o late], entry := some s.os.next, copy := none, status := .empty }
    lc := { s.lc with line := .printing, permit := !s.lc.holds.any }
    cp := planEnd (clearedPlan s.cp o s.wt.p) s.wt.p (takenRecord s o late).finish
    ci.alerts := s.ci.alerts &&& ~~~(1#64 <<< s.os.next.val)
    pu := takenPhase s.pu o s.wt.p late }

theorem handNeighbours_atReader {s : State} {o : Order} (prints : o.kind ≠ .halt) (late : Bool) :
    handNeighbours (enterOrder s (takenRecord s o late)) (takenRecord s o late) =
      readerTake (atReader s o late) o s.wt.p := by
  rw [enterOrder_prints (r := takenRecord s o late) prints, handNeighbours, phaseTake_eq, planTake_eq]
  rfl

/-- A take of a PRINT, PROOF or BLANK order (R36). -/
theorem takeOrder_taken {s : State} {o : Order} (prints : o.kind ≠ .halt) (late : Bool) (free : s.xi.suspended = false)
    (room : waitingReports s.xi.queue < 48) (fresh : ∀ sch ∈ s.mr.schedules, sch.tag ≠ o.tag) :
    ∃ station : Word, station.toNat ≤ 16 ∧ takeOrder s o late = { atReader s o late with
      mr := (readerTake (atReader s o late) o s.wt.p).mr
      os := { (atReader s o late).os with
        next := s.os.next + 1
        status := .reading
        pastConfirm := confirmPassed (atReader s o late) }
      xi.queue := s.xi.queue ++ [.takeWrite s.os.next, .report (takenPosting s (takenRecord s o late) station),
        .slotRead (s.os.next + 1)]
      draws := s.draws + 1 } := by
  have reader := readerTake_readerOnly (s := atReader s o late) fresh s.wt.p
  have handed := handNeighbours_atReader (s := s) prints late
  rw [ReaderOnly] at reader
  generalize readerTake (atReader s o late) o s.wt.p = x at reader handed
  have free' : x.xi.suspended = false := by rw [reader]; exact free
  have room' : waitingReports x.xi.queue < 48 := by rw [reader]; exact room
  obtain ⟨station, within, reported⟩ := reportTake_queued free' room' (takenRecord s o late)
  refine ⟨station, within, ?_⟩
  have plain : (o.kind == .halt) = false := by simpa using prints
  rw [takeOrder]
  dsimp only
  rw [plain, handed, reported, if_neg Bool.false_ne_true, startSlotRead_open (by simp [free'])]
  rw [reader]
  unfold enqueue
  simp only [List.append_assoc, List.cons_append, List.nil_append]
  rfl

theorem confirmPassed_atReader {s : State} (o : Order) (late : Bool) (distinct : ∀ x ∈ s.os.table, x.slot ≠ s.os.next) :
    confirmPassed (atReader s o late) = decide ((takenRecord s o late).finish ≤ s.wt.p + 50000) := by
  have absent : s.os.table.find? (fun x => x.slot == s.os.next) = none :=
    List.find?_eq_none.2 fun x mem => by simpa using distinct x mem
  have record : entryRecord (atReader s o late) = some (takenRecord s o late) := by
    refine (entryRecord_eq_some_iff _ _).2 ⟨rfl, ?_⟩
    refine List.find?_append.trans ?_
    rw [show s.os.table.find? (fun x => x.slot == (takenRecord s o late).slot) = none from absent]
    simp
  rw [confirmPassed_eq, record]
  rfl

/-- The alert flag of the slot taken is clear, every other as it was (R124). -/
theorem alerts_atReader (a : BitVec 64) (i j : Slot) :
    (a &&& ~~~(1#64 <<< j.val)).getLsbD i.val = (a.getLsbD i.val && decide (i ≠ j)) := by
  have inside : i.val < 64 := i.isLt
  simp only [BitVec.getLsbD_and, BitVec.getLsbD_not, BitVec.getLsbD_shiftLeft, inside,
    decide_true, Bool.true_and, BitVec.getLsbD_one,
    Fin.ext_iff, ne_eq]
  congr 1
  grind

/-- Settles O34: the take written out, its Cut Planner by the rules of a new end. -/
theorem takeEntersTheOrder : Obligations.TakeEntersTheOrder := by
  unfold Obligations.TakeEntersTheOrder
  intro s o late prints free room fresh
  obtain ⟨station, within, taken⟩ := takeOrder_taken prints late free room fresh
  have distinctly := confirmPassed_atReader (s := s) o late
  refine ⟨_, takenRecord s o late, taken, ⟨rfl, rfl, rfl, rfl, rfl, rfl, rfl, rfl, rfl, fun _ => rfl⟩, rfl, rfl, rfl, rfl, rfl,
    rfl, rfl, rfl, rfl, rfl, rfl, distinctly, ⟨takenRecord_seamEnd s o late, rfl, rfl⟩, fun alone => ?_, rfl, rfl, rfl,
    fun ahead => (planEnd_orderEnd_iff rfl).2 ⟨ahead, rfl⟩, rfl, fun design => ?_, fun blank => ?_, rfl,
    fun e kind => planEnd_orderEnd_iff kind,
    fun e k kind => planTake_mark_iff s.cp o s.wt.p (takenRecord s o late).finish s.wt.p kind,
      (planEnd_edges _ _ _).trans ?_, rfl,
    fun i => rfl, fun i => alerts_atReader s.ci.alerts i s.os.next, fun design => ⟨?_, fun c is => ?_⟩,
    fun blank => ⟨?_, ?_⟩, station, within, rfl⟩
  · rw [takenRecord_alone o late alone, plannedEnd]
    rcases kind : o.kind <;> cases o.endCondition <;> first | rfl | exact absurd kind prints
  · have prints := (printsDesign_iff o.kind).2 design
    exact ⟨if_pos prints, if_pos prints, if_pos prints⟩
  · have plain : ¬ printsDesign o.kind = true := by rw [blank]; exact Bool.false_ne_true
    exact ⟨if_neg plain, if_neg plain, if_neg plain⟩
  · rw [clearedPlan, List.filter_filter]
    simp only [Bool.and_self]
  · exact if_pos ((printsDesign_iff o.kind).2 design)
  · subst is
    have reader := congrArg State.mr (readerTake_prints (atReader s o late) ((printsDesign_iff o.kind).2 design) s.wt.p)
    exact ⟨{ atReader s o late with mr.cursors := s.mr.cursors ++ [firstCursor o s.wt.p] }, ⟨rfl, rfl, rfl, rfl⟩, rfl, reader⟩
  · exact if_neg (by rw [blank]; exact Bool.false_ne_true)
  · have reader := congrArg State.mr (readerTake_plain (atReader s o late) (o := o) (by rw [blank]; rfl) s.wt.p)
    exact reader

end Sys2Proof.Machine
end

section
/-! PROOF. The end of the entry order, starvation and HALT (R35, R37, R39). -/

namespace Sys2Proof.Machine

/-! ### The ORDER cause (R37, R146) -/

theorem HoldSet.join_order (h : HoldSet) : h.join (holdOf .order) = { h with order := true } := by
  simp [HoldSet.join, holdOf]

theorem HoldSet.any_order (h : HoldSet) : HoldSet.any { h with order := true } = true := by
  simp [HoldSet.any]

/-- What the ORDER cause leaves waiting in the request queue. -/
theorem raiseCause_queue (s : State) (c : HoldCause) : s.xi.queue ⊆ (raiseCause s c none).xi.queue := by
  by_cases opened : lineOpen s = true
  · cases held : s.lc.holds.any with
    | true =>
      rw [raiseCause_held opened held]
      exact fun _ => id
    | false =>
      rw [(raiseCause_enters opened held c).report, xiAfterReport]
      split
      · exact fun _ => id
      · exact fun x mem => List.mem_append_left _ mem
  · rw [raiseCause_closed (by simpa using opened)]
    exact fun _ => id

/-! ### Starvation (R37, R62) -/

/-- The line READY without an entry order, the next order's status not yet judged. -/
def leftOver (s : State) : State :=
  { s with
    os.entry := none
    cp := { s.cp with lift := 0#16, pressure := 0#3 }
    lc := { s.lc with line := .ready, permit := !s.lc.holds.any } }

theorem starve_eq (s : State) (r : InFlight) : starve s r = applyTail (statusAfterStarvation (leftOver s)) r := rfl

theorem statusAfterStarvation_held {s : State} (held : s.os.status = .held) :
    statusAfterStarvation s = startConfirmRead s := by
  rw [statusAfterStarvation, held]

theorem statusAfterStarvation_barred {s : State} (barred : s.os.status = .barred) :
    statusAfterStarvation s = { s with os.status := .empty } := by
  rw [statusAfterStarvation, barred]

theorem statusAfterStarvation_other {s : State} (held : s.os.status ≠ .held) (barred : s.os.status ≠ .barred) :
    statusAfterStarvation s = s := by
  unfold statusAfterStarvation
  cases status : s.os.status <;> first | rfl | exact absurd status held | exact absurd status barred

/-- The status and the copy of the next order, and the queue: all that starvation judges of it. -/
theorem statusAfterStarvation_eq (s : State) : statusAfterStarvation s = { s with
    os := { s.os with status := (statusAfterStarvation s).os.status, copy := (statusAfterStarvation s).os.copy }
    xi.queue := (statusAfterStarvation s).xi.queue } := by
  unfold statusAfterStarvation
  split
  · unfold startConfirmRead startRead
    split <;> rfl
  · rfl
  all_goals rfl

theorem applyTail_hold {r : InFlight} (hold : r.order.tail = .hold ∨ r.proofFailure.isSome = true) (s : State) :
    applyTail s r = raiseCause s .order none :=
  if_pos (by simpa using hold)

theorem applyTail_runOut {r : InFlight} (tail : r.order.tail = .runOut) (passed : r.proofFailure = none) (s : State) :
    applyTail s r = s :=
  if_neg (by simp [tail, passed])

theorem applyTail_lineOnly (s : State) (r : InFlight) : LineOnly s (applyTail s r) := by
  unfold applyTail
  split
  · exact raiseCause_lineOnly s _ _
  · exact .refl s

theorem applyTail_queue (s : State) (r : InFlight) : s.xi.queue ⊆ (applyTail s r).xi.queue := by
  unfold applyTail
  split
  · exact raiseCause_queue s _
  · exact fun _ => id

/-- What starvation leaves of the orders and the cuts. -/
theorem starve_leaves (s : State) (r : InFlight) :
    (starve s r).os = (statusAfterStarvation (leftOver s)).os ∧
      (starve s r).cp = { s.cp with lift := 0#16, pressure := 0#3 } := by
  have tail := applyTail_lineOnly (statusAfterStarvation (leftOver s)) r
  rw [starve_eq]
  refine ⟨tail.os, tail.cp.trans ?_⟩
  rw [statusAfterStarvation_eq]
  rfl

theorem starve_status (s : State) (r : InFlight) :
    (s.os.status = .held → s.xi.suspended = false → (starve s r).os.status = .confirming ∧ (starve s r).os.copy = s.os.copy ∧
      Transaction.confirmRead s.os.next ∈ (starve s r).xi.queue) ∧
    (s.os.status = .held → s.xi.suspended = true → (starve s r).os.status = .empty ∧ (starve s r).os.copy = none) ∧
    (s.os.status = .barred → (starve s r).os.status = .empty) ∧
    (s.os.status ≠ .held → s.os.status ≠ .barred →
      (starve s r).os.status = s.os.status ∧ (starve s r).os.copy = s.os.copy) := by
  rw [(starve_leaves s r).1]
  refine ⟨fun held free => ?_, fun held suspended => ?_, fun barred => ?_, fun held barred => ?_⟩
  · have reads : statusAfterStarvation (leftOver s) = { leftOver s with
        os.status := .confirming, xi.queue := s.xi.queue ++ [.confirmRead s.os.next] } := by
      rw [statusAfterStarvation_held (s := leftOver s) held, startConfirmRead, startRead_open (s := leftOver s) free]
      rfl
    have queued := applyTail_queue (statusAfterStarvation (leftOver s)) r
    rw [starve_eq]
    rw [reads] at queued ⊢
    exact ⟨rfl, rfl, queued (List.mem_append_right _ List.mem_cons_self)⟩
  · rw [statusAfterStarvation_held (s := leftOver s) held, startConfirmRead, startRead_suspended (s := leftOver s) suspended]
    exact ⟨rfl, rfl⟩
  · rw [statusAfterStarvation_barred (s := leftOver s) barred]
  · rw [statusAfterStarvation_other (s := leftOver s) held barred]
    exact ⟨rfl, rfl⟩

theorem starve_tail (s : State) (r : InFlight) :
    (r.order.tail = .hold ∨ r.proofFailure.isSome = true →
      (starve s r).lc.holds = { s.lc.holds with order := true } ∧ (starve s r).lc.permit = false) ∧
    (r.order.tail = .runOut → r.proofFailure = none →
      (starve s r).lc.holds = s.lc.holds ∧ (starve s r).lc.permit = !s.lc.holds.any) := by
  have judged := statusAfterStarvation_eq (leftOver s)
  have lc : (statusAfterStarvation (leftOver s)).lc = (leftOver s).lc := by rw [judged]
  rw [starve_eq]
  generalize statusAfterStarvation (leftOver s) = u at lc ⊢
  have opened : lineOpen u = true := by rw [lineOpen, lc]; rfl
  have rule : PermitRule u := by rw [PermitRule, lineOpen, lc]; rfl
  refine ⟨fun hold => ?_, fun tail passed => ?_⟩
  · rw [applyTail_hold hold]
    refine ⟨?_, raiseCause_permit rule opened _ _⟩
    rw [raiseCause_holds u _ _ opened, HoldSet.join_order, lc]
    rfl
  · rw [applyTail_runOut tail passed, lc]
    exact ⟨rfl, rfl⟩

/-! ### The end of the entry order (R35, R53, R54) -/

/-- The entry order ended, its cuts and marks withdrawn. -/
def endedEntry (s : State) (i : Slot) : State :=
  { s with
    os.table := modifyFirst (fun r => r.slot == i) (fun x => { x with ended := true }) s.os.table
    cp := { s.cp with pending := s.cp.pending.filter fun e => !isOrderEnd e && !isZoneMark e, marks := [] } }

theorem reachEnd_eq {s : State} {r : InFlight} (record : entryRecord s = some r) :
    reachEnd s = match s.os.status, s.os.copy with
      | .settled, some o => takeOrder (endedEntry s r.slot) o false
      | _, _ => starve (endedEntry s r.slot) { r with ended := true } := by
  rw [reachEnd, record]
  rfl

theorem reachEnd_settled {s : State} {r : InFlight} {o : Order} (record : entryRecord s = some r)
    (settled : s.os.status = .settled) (copy : s.os.copy = some o) :
    reachEnd s = takeOrder (endedEntry s r.slot) o false := by
  rw [reachEnd, record]
  dsimp only
  rw [settled, copy]
  rfl

theorem reachEnd_starves {s : State} {r : InFlight} (record : entryRecord s = some r)
    (unsettled : s.os.status ≠ .settled ∨ s.os.copy = none) :
    reachEnd s = starve (endedEntry s r.slot) { r with ended := true } := by
  rw [reachEnd, record]
  dsimp only
  split
  next settled copy =>
    rcases unsettled with h | h
    · exact absurd settled h
    · rw [h] at copy
      cases copy
  next => rfl

/-! ### HALT (R39) -/

/-- The state of a HALT taken, when its end raises ORDER: its record is ended, TAKEN and ORDER_TAKEN wait. -/
def haltTaken (s : State) (o : Order) (late : Bool) (station : Word) : State :=
  { s with
    os := { s.os with
      table := s.os.table ++ [{ takenRecord s o late with ended := true }]
      entry := some s.os.next, copy := none, status := .empty, next := s.os.next + 1 }
    cp := { s.cp with
      pending := s.cp.pending.filter fun e => !isOrderEnd e && !isZoneMark e
      marks := []
      lift := 0#16
      pressure := 0#3 }
    ci.alerts := s.ci.alerts &&& ~~~(1#64 <<< s.os.next.val)
    pu.lastSet := 0#16
    xi.queue := s.xi.queue ++ [.takeWrite s.os.next, .report (takenPosting s (takenRecord s o late) station)]
    draws := s.draws + 1 }

/-- A HALT at its entry, before its take is reported. -/
def haltEntered (s : State) (o : Order) (late : Bool) : State :=
  { s with
    os := { s.os with table := s.os.table ++ [takenRecord s o late], entry := some s.os.next, copy := none, status := .empty }
    cp := { s.cp with
      pending := s.cp.pending.filter fun e => !isOrderEnd e && !isZoneMark e
      marks := []
      lift := 0#16
      pressure := 0#3 }
    ci.alerts := s.ci.alerts &&& ~~~(1#64 <<< s.os.next.val)
    pu.lastSet := 0#16 }

theorem takenRecord_halt (s : State) {o : Order} (halt : o.kind = .halt) (late : Bool) :
    (takenRecord s o late).finish = s.wt.p := by
  have none : (takenRecord s o late).seamEnd = none := by
    rw [takenRecord_seamEnd]
    exact seamEndNow_none _ (.inr halt)
  rw [takenRecord_finish, leastEnd, none]
  show plannedEnd o s.wt.p = s.wt.p
  rw [plannedEnd, halt]

/-- A HALT has no fabric: no marks, no ORDER_END ahead of P, plain attributes (R39, R53, R62). -/
theorem planTake_halt (c : CutPlanner) {o : Order} (halt : o.kind = .halt) (p : Nat) :
    planTake c o p p p = { c with
      pending := c.pending.filter fun e => !isOrderEnd e && !isZoneMark e
      marks := []
      lift := 0#16
      pressure := 0#3 } := by
  have plain : printsDesign o.kind = false := by rw [halt]; rfl
  have kept : ((c.pending.filter fun e => !isOrderEnd e && !isZoneMark e).filter (keptBefore p)) =
      c.pending.filter fun e => !isOrderEnd e && !isZoneMark e := by
    refine List.filter_eq_self.2 fun e mem => ?_
    have edge := (List.mem_filter.1 mem).2
    rw [Bool.and_eq_true] at edge
    rw [keptBefore, edge.1, edge.2]
    rfl
  rw [planTake_eq, clearedPlan, planEnd, plain, if_neg (Nat.lt_irrefl p)]
  dsimp only
  rw [kept]
  rfl

theorem handNeighbours_halt (s : State) {o : Order} (halt : o.kind = .halt) (late : Bool) :
    handNeighbours (enterOrder s (takenRecord s o late)) (takenRecord s o late) = haltEntered s o late := by
  have plain : printsDesign o.kind = false := by rw [halt]; rfl
  have entered : enterOrder s (takenRecord s o late) = { s with
      os := { s.os with
        table := s.os.table ++ [takenRecord s o late], entry := some s.os.next, copy := none, status := .empty } } :=
    if_pos (beq_iff_eq.2 halt)
  have phase : takenPhase s.pu o s.wt.p late = { s.pu with lastSet := 0#16 } := if_neg (by simp [plain])
  rw [entered, handNeighbours, phaseTake_eq, readerTake_plain _ (o := (takenRecord s o late).order) plain]
  show { s with
    os := { s.os with
      table := s.os.table ++ [takenRecord s o late], entry := some s.os.next, copy := none, status := .empty }
    cp := planTake s.cp o s.wt.p (takenRecord s o late).finish s.wt.p
    ci.alerts := s.ci.alerts &&& ~~~(1#64 <<< s.os.next.val)
    pu := takenPhase s.pu o s.wt.p late } = haltEntered s o late
  rw [takenRecord_halt s halt, planTake_halt s.cp halt, phase]
  rfl

theorem takeOrder_halt {s : State} {o : Order} (halt : o.kind = .halt) (late : Bool) (free : s.xi.suspended = false)
    (room : waitingReports s.xi.queue < 48) (distinct : ∀ x ∈ s.os.table, x.slot ≠ s.os.next) :
    ∃ station : Word, station.toNat ≤ 16 ∧ takeOrder s o late =
      starve (raiseCause (haltTaken s o late station) .order none) { takenRecord s o late with ended := true } := by
  have is : (o.kind == .halt) = true := by simpa using halt
  obtain ⟨station, within, reported⟩ := reportTake_queued (s := haltEntered s o late) free room (takenRecord s o late)
  refine ⟨station, within, ?_⟩
  rw [takeOrder]
  dsimp only
  rw [is, if_pos rfl, handNeighbours_halt s halt, reported, endHalt]
  have last : modifyFirst (fun r : InFlight => r.slot == s.os.next) (fun x => { x with ended := true })
      (s.os.table ++ [takenRecord s o late]) = s.os.table ++ [{ takenRecord s o late with ended := true }] :=
    modifyFirst_last (fun x mem => by simpa using distinct x mem) (beq_self_eq_true _)
  have taken : changeOrder { haltEntered s o late with
      os.next := s.os.next + 1
      xi.queue := s.xi.queue ++ [.takeWrite s.os.next, .report (takenPosting s (takenRecord s o late) station)]
      draws := s.draws + 1 } s.os.next (fun x => { x with ended := true }) = haltTaken s o late station :=
    congrArg (fun l => { haltTaken s o late station with os.table := l }) last
  exact congrArg (fun u => starve (raiseCause u .order none) { takenRecord s o late with ended := true }) taken

theorem entryTag_haltTaken (s : State) (o : Order) (late : Bool) (station : Word)
    (distinct : ∀ x ∈ s.os.table, x.slot ≠ s.os.next) : entryTag (haltTaken s o late station) = o.tag := by
  have absent : s.os.table.find? (fun x => x.slot == s.os.next) = none :=
    List.find?_eq_none.2 fun x mem => by simpa using distinct x mem
  have record : entryRecord (haltTaken s o late station) = some { takenRecord s o late with ended := true } := by
    refine (entryRecord_eq_some_iff _ _).2 ⟨rfl, List.find?_append.trans ?_⟩
    rw [show s.os.table.find? (fun x => x.slot == (takenRecord s o late).slot) = none from absent]
    simp
  rw [entryTag, record]
  rfl

/-- ORDER raised where it stands already changes nothing. -/
theorem raiseCause_again {s : State} (opened : lineOpen s = true) (stands : s.lc.holds.order = true) :
    raiseCause s .order none = s := by
  have held : s.lc.holds.any = true := by simp [HoldSet.any, stands]
  rw [raiseCause_held opened held, HoldSet.join_order, ← stands]

/-- The line after the end of a HALT: ORDER stands already, so its tail adds nothing (R37, R39). -/
theorem starve_halted {v : State} (stands : v.lc.holds.order = true) (empty : v.os.status = .empty) (r : InFlight) :
    starve v r = leftOver v := by
  have judged : statusAfterStarvation (leftOver v) = leftOver v :=
    statusAfterStarvation_other (s := leftOver v) (by rw [show (leftOver v).os.status = .empty from empty]; nofun)
      (by rw [show (leftOver v).os.status = .empty from empty]; nofun)
  rw [starve_eq, judged, applyTail]
  split
  · exact raiseCause_again (s := leftOver v) rfl stands
  · rfl

/-- The queue after the ORDER cause of a HALT: HOLD_ON is the next report if the set was empty (R39, R146). -/
theorem raiseCause_haltTaken_queue {u : State} (opened : lineOpen u = true) (free : u.xi.suspended = false)
    (room : waitingReports u.xi.queue < 48) : (raiseCause u .order none).xi.queue = u.xi.queue ++
      (if u.lc.holds.any = true then []
      else
        [.report
          { kind := .holdOn, tag := entryTag u, station := 0#32, serial := wordOfNat u.wt.nextSerial, clock := u.clock,
            first := 2#32, second := 0#32 }]) := by
  by_cases held : u.lc.holds.any = true
  · rw [raiseCause_held opened held, if_pos held, List.append_nil]
  · have enters := raiseCause_enters opened (by simpa using held) .order
    have kept : postingLost u = false := by
      rw [postingLost, free, Bool.false_or, decide_eq_false_iff_not]
      exact Nat.not_le.2 room
    rw [enters.report, if_neg held, xiAfterReport, kept]
    rfl

/-- Settles O35: the ORDER_END by its two outcomes, starvation by the status, HALT as a take that starves at once. -/
theorem haltAndStarvationLeaveReady : Obligations.HaltAndStarvationLeaveReady := by
  unfold Obligations.HaltAndStarvationLeaveReady
  intro s
  refine ⟨fun absent => ?_, fun r record => ⟨endedEntry s r.slot, rfl, ?_, fun j other => ?_, List.filter_sublist, fun e => ?_,
    fun o settled copy => reachEnd_settled record settled copy, fun unsettled => reachEnd_starves record unsettled⟩,
    fun r t is => ?_, fun o late halt opened free room distinct => ?_⟩
  · rw [reachEnd, absent]
  · obtain ⟨-, found⟩ := (entryRecord_eq_some_iff s r).1 record
    refine (find?_modifyFirst (p := fun x : InFlight => x.slot == r.slot) (f := fun x => { x with ended := true })
      (fun _ h => h) s.os.table).trans ?_
    rw [found]
    rfl
  · have apart (x : InFlight) (is : (x.slot == r.slot) = true) : (x.slot == j) = false := by
      rw [beq_iff_eq] at is
      simpa [is] using other.symm
    exact find?_modifyFirst_of_disjoint (f := fun x : InFlight => { x with ended := true }) apart apart s.os.table
  · refine List.mem_filter.trans (and_congr_right fun _ => ?_)
    rw [isOrderEnd, isZoneMark]
    cases e.kind <;> simp
  · subst is
    obtain ⟨os, cp⟩ := starve_leaves s r
    obtain ⟨held, suspended, barred, other⟩ := starve_status s r
    obtain ⟨hold, runOut⟩ := starve_tail s r
    have board := (starve_closed board_closed s r).undisturbed
    have judged := statusAfterStarvation_eq (leftOver s)
    have table : (starve s r).os.table = s.os.table := by rw [os, judged]; rfl
    have next : (starve s r).os.next = s.os.next := by rw [os, judged]; rfl
    exact ⟨board, starve_entry s r, starve_line s r, table, next,
      ⟨by rw [cp], by rw [cp], by rw [cp], by rw [cp]⟩, cp, held, suspended, barred, other, hold, runOut⟩
  · obtain ⟨station, within, taken⟩ := takeOrder_halt halt late free (by omega) distinct
    have board := (takeOrder_closed board_closed s o late).undisturbed
    have tag := entryTag_haltTaken s o late station distinct
    have opened' : lineOpen (haltTaken s o late station) = true := opened
    have only := raiseCause_lineOnly (haltTaken s o late station) .order none
    have holds := raiseCause_holds (haltTaken s o late station) .order none opened'
    have room' : waitingReports (haltTaken s o late station).xi.queue < 48 := by
      have two : waitingReports (haltTaken s o late station).xi.queue = waitingReports s.xi.queue + 1 :=
        waitingReports_append _ _
      omega
    have queue := raiseCause_haltTaken_queue opened' free room'
    rw [tag] at queue
    generalize raiseCause (haltTaken s o late station) .order none = v at taken only holds queue
    rw [HoldSet.join_order] at holds
    have position := congrArg WebTracker.p only.wt
    have serial := congrArg WebTracker.nextSerial only.wt
    have os := only.os
    have stands : v.lc.holds.any = true := by rw [holds, HoldSet.any_order]
    rw [starve_halted (by rw [holds]) (by rw [os]; rfl)] at taken
    refine ⟨leftOver v, { takenRecord s o late with ended := true }, station,
      taken, taken ▸ board, congrArg OrderSequencer.table os,
      ⟨rfl, rfl, rfl, takenRecord_halt s halt late, rfl, rfl, rfl⟩, rfl, congrArg OrderSequencer.next os,
      congrArg OrderSequencer.status os, congrArg OrderSequencer.copy os, rfl, holds, ?_, position, serial, within, ?_, queue⟩
    · show (!v.lc.holds.any) = false
      rw [stands]
      rfl
    · show { v.cp with lift := 0#16, pressure := 0#3 } = _
      rw [only.cp]
      rfl

end Sys2Proof.Machine
end

section
/-! PROOF. The service of the request queue: what TRANSACTION_START begins (R157 to R160, R163, R164). -/

namespace Sys2Proof.Machine

/-! ### The end of an UNLOAD (R166, R176) -/

theorem endUnload_elsewhere {s : State} (line : s.lc.line ≠ .unloaded) : endUnload s = s :=
  if_neg (by simp [line])

theorem endUnload_unloaded {s : State} (line : s.lc.line = .unloaded) : endUnload s = unloadServed s := by
  unfold endUnload unloadServed
  have same : (s.lc.line == .unloaded && s.busy && s.xi.queue.isEmpty && s.xi.inHand.isNone) = true ↔
      s.busy = true ∧ s.xi.queue = [] ∧ s.xi.inHand = none := by
    simp [line, and_assoc]
  by_cases served : s.busy = true ∧ s.xi.queue = [] ∧ s.xi.inHand = none
  · rw [if_pos (same.2 served), if_pos served]
    rfl
  · rw [if_neg (fun h => served (same.1 h)), if_neg served]

/-- An UNLOAD goes on while a transaction is left, and ends no other command. -/
theorem endUnload_goes_on {s : State} (more : s.busy = false ∨ s.xi.queue ≠ [] ∨ s.xi.inHand ≠ none) : endUnload s = s := by
  by_cases line : s.lc.line = .unloaded
  · rw [endUnload_unloaded line]
    refine if_neg fun served => ?_
    obtain ⟨busy, queue, hand⟩ := served
    rcases more with h | h | h
    · exact Bool.noConfusion (busy.symm.trans h)
    · exact h queue
    · exact h hand
  · exact endUnload_elsewhere line

/-! ### A transaction taken (R157, R159, R160) -/

theorem exec_transactionStart_idle {s : State}
    (idle : s.xi.inHand.isSome = true ∨ s.xi.suspended = true ∨ s.xi.queue = []) :
    exec .transactionStart s = .next s := by
  refine congrArg Host.Outcome.next (?_ : startTransaction s = s)
  unfold startTransaction
  split
  · rfl
  next may =>
    rw [Bool.or_eq_true, not_or] at may
    rcases idle with h | h | h
    · exact absurd h may.1
    · exact absurd h may.2
    · rw [h]

section
variable {s : State} {rest : List Transaction} {t : Transaction}

theorem exec_transactionStart (hand : s.xi.inHand = none) (free : s.xi.suspended = false) (queue : s.xi.queue = t :: rest) :
    exec .transactionStart s = .next (endUnload (serve { s with xi.queue := rest } t)) := by
  refine congrArg Host.Outcome.next (?_ : startTransaction s = _)
  rw [startTransaction, hand, free, queue]
  rfl

/-- A transaction with an access is begun with it. -/
theorem beginsService_of_serve (hand : s.xi.inHand = none) (free : s.xi.suspended = false) (queue : s.xi.queue = t :: rest)
    {lose : Bool} {a : Access} {more : List Access}
    (serves : serve { s with xi.queue := rest } t = takeInHand { s with xi.queue := rest } t lose (a :: more)) :
    BeginsService s t rest lose a more := by
  rw [BeginsService, exec_transactionStart hand free queue, serves, endUnload_goes_on (.inr (.inr (Option.some_ne_none _)))]
  rfl

end

/-! ### The accesses of each transaction (R158, R163, R182, R183) -/

theorem serve_profileRead (s : State) : serve s .profileRead = takeInHand s .profileRead false
    (readAt 0 :: (List.range 1023).map fun i => readAt (4 * (i + 1))) := by
  rw [serve, List.range_succ_eq_map, List.map_cons, List.map_map]
  rfl

theorem serve_mapWrite (s : State) (n : Nat) (a b c d e : Word) :
    serve s (.mapWrite n [a, b, c, d, e]) = takeInHand s (.mapWrite n [a, b, c, d, e]) false
      [writeAt (0x7000 + 16 * (n % 4096)) a, writeAt (0x7000 + 16 * (n % 4096) + 4) b,
       writeAt (0x7000 + 16 * (n % 4096) + 8) c, writeAt (0x7000 + 16 * (n % 4096) + 12) d,
       writeAt (0x7000 + 16 * (n % 4096)) e] := rfl

theorem recordAccesses_eq (p : Posting) (w : BitVec 16) (done : AccessMark) :
    recordAccesses p w done = recordStart p w :: recordRest p w done := rfl

/-! ### The room of the ring (R163, R164) -/

theorem serveReport_plain {s : State} (room : ringUsed s.xi < 256) (kept : s.xi.lost = 0) (p : Posting) :
    serve s (.report p) =
      takeInHand s (.report p) false (recordStart p s.xi.written :: recordRest p s.xi.written .recordDone) := by
  have fits : ¬ Config.ringSlots ≤ ringUsed s.xi := Nat.not_le.2 room
  unfold serve serveReport
  dsimp only
  rw [if_neg fits, if_pos kept]
  rfl

theorem serveReport_gap {s : State} (room : ringUsed s.xi ≤ 254) (lost : 0 < s.xi.lost) (p : Posting) :
    serve s (.report p) = takeInHand s (.report p) false
      (recordStart (lossPosting s) s.xi.written :: (recordRest (lossPosting s) s.xi.written .gapDone ++
        recordStart p (s.xi.written + 1) :: recordRest p (s.xi.written + 1) .recordDone)) := by
  have fits : ¬ Config.ringSlots ≤ ringUsed s.xi := Nat.not_le.2 (Nat.lt_of_le_of_lt room (by decide))
  have two : ringUsed s.xi + 2 ≤ Config.ringSlots := Nat.add_le_add_right room 2
  unfold serve serveReport
  dsimp only
  rw [if_neg fits, if_neg (Nat.pos_iff_ne_zero.1 lost), if_pos two]
  rfl

theorem serveReport_gapAlone {s : State} (room : ringUsed s.xi = 255) (lost : 0 < s.xi.lost) (p : Posting) :
    serve s (.report p) = takeInHand s (.report p) true
      (recordStart (lossPosting s) s.xi.written :: recordRest (lossPosting s) s.xi.written .gapDone) := by
  unfold serve serveReport
  dsimp only
  rw [room, if_neg (by decide), if_neg (Nat.pos_iff_ne_zero.1 lost), if_neg (by decide)]
  rfl

theorem serveReport_full {s : State} (full : 256 ≤ ringUsed s.xi) (p : Posting) : serve s (.report p) = loseReport s :=
  if_pos full

/-- Settles O51: the idle port, the transactions other than reports, and a report by the room in the ring. -/
theorem serviceBeginsTheOldest : Obligations.ServiceBeginsTheOldest := by
  unfold Obligations.ServiceBeginsTheOldest
  intro s rest
  refine ⟨exec_transactionStart_idle, fun hand free => ⟨fun queue => ?_, fun i => ⟨fun queue => ?_, fun queue => ?_,
    fun queue => ?_, fun w ws c queue => ?_, fun w ws queue => ?_⟩, fun n a b c d e queue => ?_⟩,
    fun p hand free queue => ⟨fun room kept => ?_, fun room lost => ?_,
      fun room lost => ?_, fun u full is => ⟨fun goesOn => ?_, fun line => ?_⟩⟩⟩
  · exact beginsService_of_serve hand free queue (serve_profileRead _)
  · exact beginsService_of_serve hand free queue rfl
  · exact beginsService_of_serve hand free queue rfl
  · exact beginsService_of_serve hand free queue rfl
  · exact beginsService_of_serve hand free queue rfl
  · exact beginsService_of_serve hand free queue rfl
  · exact beginsService_of_serve hand free queue (serve_mapWrite _ n a b c d e)
  · exact beginsService_of_serve hand free queue (serveReport_plain (s := { s with xi.queue := rest }) room kept p)
  · exact beginsService_of_serve hand free queue (serveReport_gap (s := { s with xi.queue := rest }) room lost p)
  · exact beginsService_of_serve hand free queue (serveReport_gapAlone (s := { s with xi.queue := rest }) room lost p)
  · rw [exec_transactionStart hand free queue, serveReport_full (s := { s with xi.queue := rest }) full, is]
    refine congrArg _ ?_
    rcases goesOn with line | idle | more
    · exact endUnload_elsewhere line
    · exact endUnload_goes_on (.inl idle)
    · exact endUnload_goes_on (.inr (.inl more))
  · rw [exec_transactionStart hand free queue, serveReport_full (s := { s with xi.queue := rest }) full, is]
    exact congrArg _ (endUnload_unloaded line)

end Sys2Proof.Machine
end

section
/-! PROOF. The end of a memory access: the word moved, the next access or the requester's turn, the end of an UNLOAD (R159, R163,
R164, R166). -/

namespace Sys2Proof.Machine

/-! ### The word moved (R159, R163, R164) -/

theorem moveWord_shape (s : State) (h : InHand) (host : Option Word) : moveWord s h host = { s with
    mem := accessMemory s.mem h host
    xi := { s.xi with
      timer := .stopped
      written := if h.access.mark = .plain then s.xi.written else s.xi.written + 1
      lost := if h.access.mark = .gapDone then 0 else s.xi.lost }
    events := if h.access.mark = .plain then s.events else { s.events with report := true } } := by
  unfold moveWord markWrite
  cases h.access.mark <;> rfl

theorem moveWord_plain {s : State} {h : InHand} (plain : h.access.mark = .plain) (host : Option Word) :
    moveWord s h host = { s with mem := accessMemory s.mem h host, xi.timer := .stopped } := by
  unfold moveWord
  rw [plain]
  rfl

theorem completeAccess_held {s : State} {h : InHand} (held : s.xi.inHand = some h) (host : Option Word) :
    completeAccess s host = endUnload (nextAccess (moveWord s h host) (gather (accessMemory s.mem h host) h)) := by
  rw [completeAccess, held]
  rfl

theorem exec_memoryAccessDone (s : State) (host : Option Word) :
    exec (.memoryAccessDone host) s = .next (completeAccess s host) := rfl

/-- An access that leaves the line where it is ends by what it leaves, an UNLOAD served apart. -/
theorem accessEnds_of {s y : State} {h : InHand} (held : s.xi.inHand = some h) {host : Option Word}
    (next : nextAccess (moveWord s h host) (gather (accessMemory s.mem h host) h) = y) (line : y.lc.line = s.lc.line) :
    AccessEnds s host y := by
  refine ⟨fun other => ?_, fun unloaded => ?_⟩
  · rw [exec_memoryAccessDone, completeAccess_held held, next, endUnload_elsewhere (line ▸ other)]
  · rw [exec_memoryAccessDone, completeAccess_held held, next, endUnload_unloaded (line.trans unloaded)]

theorem gather_discarded (m : Memory) (h : InHand) : (gather m h).discarded = h.discarded := by
  unfold gather
  split <;> rfl

theorem gather_transaction (m : Memory) (h : InHand) : (gather m h).transaction = h.transaction := by
  unfold gather
  split <;> rfl

theorem gather_loseAfterGap (m : Memory) (h : InHand) : (gather m h).loseAfterGap = h.loseAfterGap := by
  unfold gather
  split <;> rfl

theorem gather_rest (m : Memory) (h : InHand) : (gather m h).rest = h.rest := by
  unfold gather
  split <;> rfl

theorem nextAccess_discarded {s : State} {h : InHand} (discarded : h.discarded = true) : nextAccess s h = freePort s :=
  if_pos discarded

theorem nextAccess_more {s : State} {h : InHand} {a : Access} {more : List Access} (kept : h.discarded = false)
    (rest : h.rest = a :: more) : nextAccess s h = beginAccess s h a more := by
  rw [nextAccess, kept, rest]
  rfl

theorem nextAccess_done {s : State} {h : InHand} (kept : h.discarded = false) (rest : h.rest = []) :
    nextAccess s h = accessesDone s h := by
  rw [nextAccess, kept, rest]
  rfl

/-! ### What the end of an access leaves -/

/-- `t` has the clock, the pins, EXBASE, the memory and the pending commands of `s`. -/
structure PortKeeps (s t : State) : Prop where
  clock : t.clock = s.clock
  pins : t.pins = s.pins
  exbase : t.exbase = s.exbase
  mem : t.mem = s.mem
  pending : t.pending = s.pending

theorem PortKeeps.refl (s : State) : PortKeeps s s := ⟨rfl, rfl, rfl, rfl, rfl⟩

theorem PortKeeps.trans {s t u : State} (a : PortKeeps s t) (b : PortKeeps t u) : PortKeeps s u :=
  ⟨b.clock.trans a.clock, b.pins.trans a.pins, b.exbase.trans a.exbase, b.mem.trans a.mem, b.pending.trans a.pending⟩

theorem Board.portKeeps {s t : State} (h : Board s t) : PortKeeps s t := ⟨h.clock, h.pins, h.exbase, h.mem, h.pending⟩

theorem freePort_portKeeps (s : State) : PortKeeps s (freePort s) := ⟨rfl, rfl, rfl, rfl, rfl⟩

theorem endUnload_portKeeps (s : State) : PortKeeps s (endUnload s) := by
  unfold endUnload
  split <;> exact ⟨rfl, rfl, rfl, rfl, rfl⟩

theorem rejectLoad_portKeeps (s : State) (reason item : Nat) : PortKeeps s (rejectLoad s reason item) := by
  obtain ⟨x, e, n, rejected⟩ := rejectLoad_eq s reason item
  rw [rejected]
  exact ⟨rfl, rfl, rfl, rfl, rfl⟩

theorem driveTargets_portKeeps (s : State) : PortKeeps s (driveTargets s) := by
  have driven := driveTargets_phaseOnly s
  rw [PhaseOnly] at driven
  rw [driven]
  exact ⟨rfl, rfl, rfl, rfl, rfl⟩

theorem takeProfile_portKeeps (s : State) (f : Profile) : PortKeeps s (takeProfile s f) := by
  have driven (u : State) (kept : PortKeeps s u) : PortKeeps s (driveTargets u) := kept.trans (driveTargets_portKeeps u)
  unfold takeProfile
  exact driven _ ⟨rfl, rfl, rfl, rfl, rfl⟩

theorem completeLoad_portKeeps (s : State) (f : Profile) : PortKeeps s (completeLoad s f) := by
  have taken := takeProfile_portKeeps s f
  have ready (u : State) (kept : PortKeeps s u) : PortKeeps s (post { u with lc.line := .ready } (loadedReport f)) := by
    have reported := (post_quiet { u with lc.line := .ready } (loadedReport f)).board.portKeeps
    exact kept.trans ⟨reported.clock, reported.pins, reported.exbase, reported.mem, reported.pending⟩
  have filled : PortKeeps s (filledLine s f) := ready (takeProfile s f) taken
  have ended (u : State) (kept : PortKeeps s u) : PortKeeps s (endCommand (judgePermit (deliverFestoon u))) :=
    have delivered := kept.trans (deliverFestoon_closed board_calm u).portKeeps
    ⟨delivered.clock, delivered.pins, delivered.exbase, delivered.mem, delivered.pending⟩
  rw [completeLoad_eq]
  exact ended (filledLine s f) filled

theorem endProfileRead_portKeeps (s : State) (got : List (Nat × Word)) : PortKeeps s (endProfileRead s got) := by
  unfold endProfileRead
  dsimp only
  split
  · exact rejectLoad_portKeeps s _ _
  · exact completeLoad_portKeeps s _

theorem beginAccess_portKeeps (s : State) (h : InHand) (a : Access) (rest : List Access) :
    PortKeeps s (beginAccess s h a rest) := ⟨rfl, rfl, rfl, rfl, rfl⟩

theorem slotReadNext_portKeeps (s : State) (h : InHand) (i : Slot) : PortKeeps s (slotReadNext s h i) := by
  have ended := freePort_portKeeps s
  have emptied : PortKeeps s (readEmpty (freePort s)) := ⟨rfl, rfl, rfl, rfl, rfl⟩
  unfold slotReadNext
  split
  · split
    · exact emptied
    · exact beginAccess_portKeeps s _ _ _
  · split
    · exact beginAccess_portKeeps s _ _ _
    · exact emptied
  · exact beginAccess_portKeeps s _ _ _
  · split
    · exact emptied
    · split
      · exact ended.trans (readValid_closed board_closed _ _).portKeeps
      · exact ⟨rfl, rfl, rfl, rfl, rfl⟩
  · exact ended.trans (post_closed board_calm _ _).portKeeps

theorem endConfirmRead_portKeeps (s : State) (h : InHand) (i : Slot) : PortKeeps s (endConfirmRead s h i) := by
  have changed := (confirmChanged_quiet s).board.portKeeps
  unfold endConfirmRead
  split
  · split
    · exact (confirmUnchanged_closed board_closed s).portKeeps
    · exact changed
  · exact changed

/-- What the requester of a transaction does leaves the port's surroundings as they were. -/
theorem accessesDone_portKeeps (s : State) (h : InHand) : PortKeeps s (accessesDone s h) := by
  have ended := freePort_portKeeps s
  unfold accessesDone
  split
  · split
    · exact ended.trans (endProfileRead_portKeeps _ _)
    · exact ended
  · exact slotReadNext_portKeeps s h _
  · exact ended.trans (endConfirmRead_portKeeps _ h _)
  · exact ended
  · exact ended.trans (endClose_closed board_calm _ _ _).portKeeps
  · exact ended
  · exact ended.trans (finishExit_closed board_calm _ _).portKeeps
  · split
    · exact ⟨rfl, rfl, rfl, rfl, rfl⟩
    · exact ended

theorem nextAccess_portKeeps (s : State) (h : InHand) : PortKeeps s (nextAccess s h) := by
  unfold nextAccess
  split
  · exact freePort_portKeeps s
  · split
    · exact beginAccess_portKeeps s h _ _
    · exact accessesDone_portKeeps s h

/-- The word of an access reaches memory as MovesWord says (R159; log entry 2). -/
theorem movesWord_of_mem {s t : State} {h : InHand} {host : Option Word} (law : MemoryLaw s)
    (mem : t.mem = accessMemory s.mem h host) : MovesWord s t h host := by
  refine ⟨fun a outside => ?_, fun w is => ?_, fun w read is => ?_, fun read is => ?_⟩
  · rw [mem]
    unfold accessMemory
    have beyond : a < h.address.toNat ∨ h.address.toNat + 3 < a := by omega
    split
    · exact readByte_writeWord_outside _ _ _ _ beyond
    · exact readByte_writeWord_outside _ _ _ _ beyond
    · rfl
  · rw [mem]
    unfold accessMemory
    rw [is]
    exact readWord_writeWord _ _ _ law
  · rw [mem]
    unfold accessMemory
    rw [read, is]
    exact readWord_writeWord _ _ _ law
  · rw [mem]
    unfold accessMemory
    rw [read, is]

/-- The port freed after the word is moved. -/
theorem freedPort_moves (s : State) (h : InHand) (host : Option Word) : AccessMoves s (freePort (moveWord s h host)) h := by
  rw [moveWord_shape]
  exact ⟨rfl, rfl, rfl, rfl, rfl⟩

theorem freedPort_left (s : State) (h : InHand) (host : Option Word) :
    (freePort (moveWord s h host)).xi.queue = s.xi.queue ∧ (freePort (moveWord s h host)).os = s.os ∧
      (freePort (moveWord s h host)).lc = s.lc := by
  rw [moveWord_shape]
  exact ⟨rfl, rfl, rfl⟩

/-- An access whose transaction leaves the port free and wants no more. -/
theorem accessEnds_freed {s : State} {h : InHand} (held : s.xi.inHand = some h) {host : Option Word}
    (next : nextAccess (moveWord s h host) (gather (accessMemory s.mem h host) h) = freePort (moveWord s h host)) :
    AccessEnds s host (freePort (moveWord s h host)) :=
  accessEnds_of held next (by rw [(freedPort_left s h host).2.2])

/-- The freed port after a plain access. -/
theorem freedPort_plain {s : State} {h : InHand} (plain : h.access.mark = .plain) (host : Option Word) :
    freePort (moveWord s h host) =
      { s with mem := accessMemory s.mem h host, xi.inHand := none, xi.timer := .stopped } := by
  rw [moveWord_plain plain]
  rfl

/-- ORDER_CLOSED, the order's records gone, the next order tested (R47, R48, R98). -/
theorem endClose_posts (s : State) (i : Slot) (c : CloseReport) : ∃ station : Word, station.toNat ≤ 16 ∧
    ∀ v, v = afterReport s
        { kind := .orderClosed, tag := c.tag, station := station, serial := wordOfNat c.lastSerial, clock := s.clock,
          first := wordOfNat i.val, second := wordOfNat c.outcome.code } →
      endClose s i c = testClose { v with
        os.table := s.os.table.filter fun r => !(r.slot == i && r.order.tag == c.tag)
        pu.orders := s.pu.orders.filter fun o => o.tag != c.tag } := by
  refine ⟨wordOfNat (Config.unstatedStation s.draws).val, unstatedStation_le _, fun v is => ?_⟩
  rw [endClose, post_eq, is]
  rfl

/-- Settles O52: the word moved first, then by the ends of the transactions. -/
theorem accessesMoveTheirWord : Obligations.AccessesMoveTheirWord := by
  unfold Obligations.AccessesMoveTheirWord
  intro s host
  refine ⟨fun idle => ?_, fun h held law => ⟨⟨_, rfl, ?_⟩, fun discarded => ?_, fun a more kept rest => ?_,
    fun kept rest ends => ?_, fun p kept rest report lose mark => ?_, fun n ws u kept rest is plain left => ?_,
    fun i ws c u kept rest is plain left => ?_⟩⟩
  · rw [exec_memoryAccessDone, completeAccess, idle]
  · have moved : PortKeeps { s with mem := accessMemory s.mem h host } (completeAccess s host) := by
      rw [completeAccess_held held]
      refine .trans (.trans ?_ (nextAccess_portKeeps _ _)) (endUnload_portKeeps _)
      rw [moveWord_shape]
      exact ⟨rfl, rfl, rfl, rfl, rfl⟩
    exact ⟨movesWord_of_mem law moved.mem, moved.pins, moved.exbase, moved.clock⟩
  · obtain ⟨queue, os, -⟩ := freedPort_left s h host
    exact ⟨_, accessEnds_freed held (nextAccess_discarded ((gather_discarded _ h).trans discarded)),
      freedPort_moves s h host, rfl,
      rfl, queue, os⟩
  · have next := nextAccess_more (s := moveWord s h host) ((gather_discarded (accessMemory s.mem h host) h).trans kept)
      ((gather_rest _ h).trans rest)
    refine ⟨_, by rw [exec_memoryAccessDone, completeAccess_held held, next,
      endUnload_goes_on (.inr (.inr (Option.some_ne_none _)))], ?_⟩
    rw [moveWord_shape]
    refine ⟨⟨rfl, rfl, rfl, rfl, rfl⟩, rfl, congrArg some ?_, rfl, rfl⟩
    unfold gather
    cases h.access.write <;> rfl
  · obtain ⟨queue, os, -⟩ := freedPort_left s h host
    have freed : nextAccess (moveWord s h host) (gather (accessMemory s.mem h host) h) = freePort (moveWord s h host) := by
      rw [nextAccess_done ((gather_discarded _ h).trans kept) ((gather_rest _ h).trans rest), accessesDone,
        gather_transaction, gather_loseAfterGap]
      rcases ends with ⟨p, is, keep⟩ | ⟨i, is⟩ | ⟨i, ws, is⟩
      · rw [is, keep]
        rfl
      · rw [is]
      · rw [is]
    exact ⟨_, accessEnds_freed held freed, freedPort_moves s h host, rfl, rfl, queue, os⟩
  · have next :
        nextAccess (moveWord s h host) (gather (accessMemory s.mem h host) h) = loseReport (freePort (moveWord s h host)) := by
      rw [nextAccess_done ((gather_discarded _ h).trans kept) ((gather_rest _ h).trans rest), accessesDone,
        gather_transaction, gather_loseAfterGap, report, lose]
      rfl
    have ends := accessEnds_of held next (by rw [moveWord_shape]; rfl)
    refine ⟨_, ends, ?_⟩
    rw [moveWord_shape, mark]
    exact ⟨rfl, rfl, rfl, rfl, rfl, rfl⟩
  · subst left
    refine accessEnds_of held ?_ ((finishExit_closed keepsLine_calm _ n).trans rfl)
    rw [nextAccess_done ((gather_discarded _ h).trans kept) ((gather_rest _ h).trans rest), accessesDone, gather_transaction, is]
    dsimp only
    rw [freedPort_plain plain]
  · subst left
    obtain ⟨station, within, closes⟩ :=
      endClose_posts { s with mem := accessMemory s.mem h host, xi.inHand := none, xi.timer := .stopped } i c
    have next : nextAccess (moveWord s h host) (gather (accessMemory s.mem h host) h) =
        endClose (freePort (moveWord s h host)) i c := by
      rw [nextAccess_done ((gather_discarded _ h).trans kept) ((gather_rest _ h).trans rest),
        accessesDone, gather_transaction, is]
    rw [freedPort_plain plain, closes _ rfl] at next
    refine ⟨_, station, within, rfl, accessEnds_of held next ?_⟩
    exact (testClose_closed keepsLine_calm _).trans rfl

end Sys2Proof.Machine
end

section
/-! PROOF. The ends of the reads of the next order, by the words read (R28 to R31, R38, R39). -/

namespace Sys2Proof.Machine

theorem gather_stage (m : Memory) (h : InHand) : (gather m h).stage = h.stage := by
  unfold gather
  split <;> rfl

/-! ### The stages of a slot read (R24, R28, R29, R30) -/

section
variable {t : State} {g : InHand} {i : Slot}

theorem slotReadNext_stateWord_ends (stage : g.stage = .stateWord)
    (stops : slotWord g i 0 ≠ 1#32 ∨ ∃ x ∈ t.os.table, x.slot = i) : slotReadNext t g i = readEmpty (freePort t) := by
  rw [slotReadNext, stage]
  exact if_pos (stops.imp_right fun h => by simpa using h)

theorem slotReadNext_stateWord_armed (stage : g.stage = .stateWord) (armed : slotWord g i 0 = 1#32)
    (fresh : ∀ x ∈ t.os.table, x.slot ≠ i) :
    slotReadNext t g i = beginAccess t { g with stage := .kindWord } (readAt (0x1004 + 256 * i.val)) [] := by
  have goesOn : ¬ (slotWord g i 0x00 ≠ armedCode ∨ t.os.table.any (fun r => r.slot == i) = true) := by
    rintro (other | used)
    · exact other armed
    · obtain ⟨x, mem, is⟩ := List.any_eq_true.1 used
      exact fresh x mem (by simpa using is)
  have offset : slotOffset i + 0x04 = 0x1004 + 256 * i.val := by rw [slotOffset]; omega
  rw [slotReadNext, stage]
  dsimp only
  rw [if_neg goesOn, offset]

theorem bodyOffsets_cons (w : Word) : ∃ offsets, bodyOffsets w = 0x08 :: offsets := by
  unfold bodyOffsets
  split
  · exact ⟨_, rfl⟩
  · exact ⟨_, rfl⟩
  · exact ⟨_, rfl⟩
  · exact ⟨_, rfl⟩
  · exact ⟨_, rfl⟩

theorem slotReadNext_kindWord (stage : g.stage = .kindWord) {offsets : List Nat}
    (body : bodyOffsets (slotWord g i 4) = 0x08 :: offsets) :
    slotReadNext t g i = beginAccess t { g with stage := .body } (readAt (0x1008 + 256 * i.val))
      (offsets.map fun k => readAt (0x1000 + 256 * i.val + k)) := by
  have offset : slotOffset i + 0x08 = 0x1008 + 256 * i.val := by rw [slotOffset]; omega
  rw [slotReadNext, stage]
  dsimp only
  rw [body, List.map_cons]
  dsimp only
  rw [offset]
  rfl

theorem slotReadNext_body (stage : g.stage = .body) :
    slotReadNext t g i = beginAccess t { g with stage := .recheck } (readAt (0x1000 + 256 * i.val))
      [readAt (0x1008 + 256 * i.val)] := by
  have offset : slotOffset i + 0x08 = 0x1008 + 256 * i.val := by rw [slotOffset]; omega
  rw [slotReadNext, stage]
  dsimp only
  rw [offset]
  rfl

theorem slotReadNext_changed (stage : g.stage = .recheck)
    (changed : slotWordAgain g i 0 ≠ 1#32 ∨ slotWordAgain g i 8 ≠ slotWord g i 8) :
    slotReadNext t g i = readEmpty (freePort t) := by
  rw [slotReadNext, stage]
  exact if_pos changed

theorem slotReadNext_validated (stage : g.stage = .recheck) (armed : slotWordAgain g i 0 = 1#32)
    (same : slotWordAgain g i 8 = slotWord g i 8) : slotReadNext t g i = match validated t g i with
      | .inl o => readValid (freePort t) o
      | .inr reason => beginRefusal t g i reason := by
  have unchanged : ¬ (slotWordAgain g i 0x00 ≠ armedCode ∨ slotWordAgain g i 0x08 ≠ slotWord g i 0x08) := by
    rintro (other | other)
    · exact other armed
    · exact other same
  rw [slotReadNext, stage]
  exact if_neg unchanged

theorem validated_accepts {o : Order} (body : orderOf (slotWord g i) = some o) (passes : refusalOf t o = none) :
    validated t g i = .inl o := by
  rw [validated, body]
  dsimp only
  rw [passes]

theorem validated_refuses {reason : OrderRefusal} (refused : orderOf (slotWord g i) = none ∧ reason = .kindUnknown ∨
    ∃ o, orderOf (slotWord g i) = some o ∧ refusalOf t o = some reason) : validated t g i = .inr reason := by
  rcases refused with ⟨body, rfl⟩ | ⟨o, body, refused⟩
  · rw [validated, body]
  · rw [validated, body]
    dsimp only
    rw [refused]

theorem slotReadNext_accepts (stage : g.stage = .recheck) (armed : slotWordAgain g i 0 = 1#32)
    (same : slotWordAgain g i 8 = slotWord g i 8) {o : Order} (body : orderOf (slotWord g i) = some o)
    (passes : refusalOf t o = none) : slotReadNext t g i = readValid (freePort t) o := by
  rw [slotReadNext_validated stage armed same, validated_accepts body passes]

theorem slotReadNext_refuses (stage : g.stage = .recheck) (armed : slotWordAgain g i 0 = 1#32)
    (same : slotWordAgain g i 8 = slotWord g i 8) {reason : OrderRefusal}
    (refused : orderOf (slotWord g i) = none ∧ reason = .kindUnknown ∨
      ∃ o, orderOf (slotWord g i) = some o ∧ refusalOf t o = some reason) :
    slotReadNext t g i = beginRefusal t g i reason := by
  rw [slotReadNext_validated stage armed same, validated_refuses refused]

theorem slotReadNext_refusing (stage : g.stage = .refusing) : slotReadNext t g i = reportRefusal (freePort t) g i := by
  rw [slotReadNext, stage]

theorem reportRefusal_posts (s : State) (g : InHand) (i : Slot) : ∃ station serial : Word, station.toNat ≤ 16 ∧
    reportRefusal s g i = afterReport s
      { kind := .orderRefused, tag := slotWord g i 8, station := station, serial := serial, clock := s.clock,
        first := wordOfNat i.val, second := slotWordAgain g i 0xBC } := by
  refine ⟨wordOfNat (Config.unstatedStation s.draws).val, Config.unstatedField s.draws 2, unstatedStation_le _, ?_⟩
  rw [reportRefusal, post_eq]
  rfl

end

theorem beginRefusal_eq (t : State) (g : InHand) (i : Slot) (reason : OrderRefusal) :
    beginRefusal t g i reason = beginAccess (readEmpty t)
      { g with stage := .refusing, got := (0x10BC + 256 * i.val, wordOfNat reason.code) :: g.got }
      (writeAt (0x10BC + 256 * i.val) (wordOfNat reason.code)) [writeAt (0x1000 + 256 * i.val) 4#32] := by
  have offset : slotOffset i + 0xBC = 0x10BC + 256 * i.val := by rw [slotOffset]; omega
  unfold beginRefusal
  rw [offset]
  rfl

/-! ### A valid copy (R30, R31, R38, R39) -/

theorem lateStart_halt {s : State} {o : Order} (halt : o.kind = .halt) : lateStart s o = takeOrder s o true :=
  if_pos (by simpa using halt)

theorem lateStart_prints {s : State} {o : Order} (prints : o.kind ≠ .halt) :
    lateStart s o = takeOrder (closeStretch s) o true :=
  if_neg (by simpa using prints)

theorem readValid_printing {s : State} {r : InFlight} (line : s.lc.line = .printing) (record : entryRecord s = some r)
    (o : Order) : readValid s o = { s with
      os.copy := some o
      os.status := if s.os.pastConfirm = true ∨ r.finish ≤ s.wt.p + 50000 then .settled else .held } := by
  rw [readValid, line]
  dsimp only
  rw [confirmPassed_eq, record]
  simp only [Bool.or_eq_true, decide_eq_true_eq]

theorem readValid_ready {s : State} (line : s.lc.line = .ready) (o : Order) : readValid s o = lateStart s o := by
  rw [readValid, line]

theorem confirmUnchanged_printing {s : State} (line : s.lc.line = .printing) :
    confirmUnchanged s = { s with os.status := .settled } := by
  rw [confirmUnchanged, line]

theorem confirmUnchanged_ready {s : State} {o : Order} (line : s.lc.line = .ready) (copy : s.os.copy = some o) :
    confirmUnchanged s = lateStart s o := by
  rw [confirmUnchanged, line, copy]

theorem lateStart_open {s : State} (o : Order) : lineOpen (lateStart s o) = true := by
  unfold lateStart
  split <;> exact takeOrder_open _ _ _

/-! ### The last access of a read in an open line -/

/-- The state after a plain access of the transaction in hand, the port free. -/
def readDone (s : State) (h : InHand) (host : Option Word) : State :=
  { s with mem := accessMemory s.mem h host, xi.inHand := none, xi.timer := .stopped }

/-- The last known access of a transaction in an open line: what its requester does is the whole step. -/
theorem exec_lastAccess {s : State} {h : InHand} {host : Option Word} (held : s.xi.inHand = some h) (kept : h.discarded = false)
    (rest : h.rest = []) (plain : h.access.mark = .plain) {y : State}
    (done : accessesDone { s with mem := accessMemory s.mem h host, xi.timer := .stopped }
      (gather (accessMemory s.mem h host) h) = y) (opened : lineOpen y = true) :
    exec (.memoryAccessDone host) s = .next y := by
  rw [exec_memoryAccessDone, completeAccess_held held, moveWord_plain plain,
    nextAccess_done ((gather_discarded _ h).trans kept) ((gather_rest _ h).trans rest), done, endUnload_elsewhere]
  intro line
  rw [lineOpen, line] at opened
  cases opened

/-- Settles O36: the slot read stage by stage, the confirm read by its two words. -/
theorem readsEndByTheirWords : Obligations.ReadsEndByTheirWords := by
  unfold Obligations.ReadsEndByTheirWords
  intro s u h g i host held kept rest opened is plain left
  have run {y : State} (done : accessesDone { s with mem := accessMemory s.mem h host, xi.timer := .stopped } g = y)
      (stays : lineOpen y = true) : exec (.memoryAccessDone host) s = .next y :=
    exec_lastAccess held kept rest plain (is ▸ done) stays
  have stage : g.stage = h.stage := is ▸ gather_stage _ h
  have transaction : g.transaction = h.transaction := is ▸ gather_transaction _ h
  have free : freePort { s with mem := accessMemory s.mem h host, xi.timer := .stopped } = u := left ▸ rfl
  refine ⟨fun reads => ?_, fun reads o copy => ?_⟩
  · have next (t : State) : accessesDone t g = slotReadNext t g i := by
      rw [accessesDone, transaction, reads]
    refine ⟨fun at_ => ⟨fun stops => ?_, fun armed fresh => ?_⟩, fun at_ => ?_, fun at_ => ?_,
      fun at_ => ⟨fun changed => ?_, fun armed same => ⟨fun reason refused => ?_, fun o body passes =>
        ⟨fun line r record => ?_, fun line prints => ?_, fun line halt => ?_⟩⟩⟩, fun at_ => ?_⟩
    · have ends := slotReadNext_stateWord_ends (t := { s with mem := accessMemory s.mem h host, xi.timer := .stopped })
        (stage.trans at_) stops
      rw [free] at ends
      exact run ((next _).trans ends) (left ▸ opened)
    · exact left ▸ run ((next _).trans (slotReadNext_stateWord_armed (stage.trans at_) armed fresh)) opened
    · obtain ⟨offsets, body⟩ := bodyOffsets_cons (slotWord g i 4)
      exact ⟨offsets, body, left ▸ run ((next _).trans (slotReadNext_kindWord (stage.trans at_) body)) opened⟩
    · exact left ▸ run ((next _).trans (slotReadNext_body (stage.trans at_))) opened
    · have ends := slotReadNext_changed (t := { s with mem := accessMemory s.mem h host, xi.timer := .stopped })
        (stage.trans at_) changed
      rw [free] at ends
      exact run ((next _).trans ends) (left ▸ opened)
    · have refuses := slotReadNext_refuses (t := { s with mem := accessMemory s.mem h host, xi.timer := .stopped })
        (stage.trans at_) armed same refused
      rw [beginRefusal_eq] at refuses
      exact left ▸ run ((next _).trans refuses) opened
    · have accepts := slotReadNext_accepts (t := { s with mem := accessMemory s.mem h host, xi.timer := .stopped })
        (stage.trans at_) armed same body passes
      rw [free, readValid_printing (s := u) (r := r) (left ▸ line) (left ▸ record)] at accepts
      refine (run ((next _).trans accepts) (left ▸ opened)).trans ?_
      rw [left]
    · have accepts := slotReadNext_accepts (t := { s with mem := accessMemory s.mem h host, xi.timer := .stopped })
        (stage.trans at_) armed same body passes
      rw [free, readValid_ready (s := u) (left ▸ line), lateStart_prints prints] at accepts
      exact run ((next _).trans accepts) (takeOrder_open _ _ _)
    · have accepts := slotReadNext_accepts (t := { s with mem := accessMemory s.mem h host, xi.timer := .stopped })
        (stage.trans at_) armed same body passes
      rw [free, readValid_ready (s := u) (left ▸ line), lateStart_halt halt] at accepts
      exact run ((next _).trans accepts) (takeOrder_open _ _ _)
    · obtain ⟨station, serial, within, posts⟩ := reportRefusal_posts u g i
      have refused := slotReadNext_refusing (t := { s with mem := accessMemory s.mem h host, xi.timer := .stopped }) (i := i)
        (stage.trans at_)
      rw [free, posts] at refused
      refine ⟨station, serial, within, (run ((next _).trans refused) (left ▸ opened)).trans ?_⟩
      rw [left]
  · have next : accessesDone { s with mem := accessMemory s.mem h host, xi.timer := .stopped } g = endConfirmRead u g i := by
      rw [accessesDone, transaction, reads, ← free]
    have copy : u.os.copy = some o := left ▸ copy
    refine ⟨fun armed same => ?_, fun changed free => ?_⟩
    · have unchanged : endConfirmRead u g i = confirmUnchanged u := by
        rw [endConfirmRead, copy]
        exact if_pos ⟨armed, same⟩
      refine ⟨fun line => ?_, fun line prints => ?_, fun line halt => ?_⟩
      · rw [confirmUnchanged_printing (s := u) (left ▸ line)] at unchanged
        exact run (next.trans unchanged) (left ▸ opened)
      · rw [confirmUnchanged_ready (s := u) (left ▸ line) copy, lateStart_prints prints] at unchanged
        exact run (next.trans unchanged) (takeOrder_open _ _ _)
      · rw [confirmUnchanged_ready (s := u) (left ▸ line) copy, lateStart_halt halt] at unchanged
        exact run (next.trans unchanged) (takeOrder_open _ _ _)
    · have flushed : endConfirmRead u g i = confirmChanged u := by
        rw [endConfirmRead, copy]
        refine if_neg fun same => ?_
        rcases changed with other | other
        · exact other same.1
        · exact other same.2
      rw [confirmChanged, startSlotRead_eq_open (s := { u with os.copy := none }) (left ▸ free)] at flushed
      refine (run (next.trans flushed) (left ▸ opened)).trans ?_
      rw [left]
      rfl

end Sys2Proof.Machine
end

section
/-! PROOF. The timeout of a memory access: the transactions that a bus fault ends, the suspension, the load rejected, the end
of an UNLOAD (R136, R161, R162, R164, R174, R176). -/

namespace Sys2Proof.Machine

/-! ### What the end of a transaction by a fault leaves as it was (R161) -/

/-- `t` is `s` but for the fabric, the orders' records, close-out, the waiting requests and the lost reports; while suspended the
queue stands too. -/
def AccountsOnly (s t : State) : Prop :=
  t = { s with
    wt := t.wt
    os.table := t.os.table
    co := t.co
    xi := { s.xi with queue := t.xi.queue, lost := t.xi.lost, firstLoss := t.xi.firstLoss }
    events := { s.events with gap := t.events.gap }
    draws := t.draws } ∧ (s.xi.suspended = true → t.xi.queue = s.xi.queue)

theorem AccountsOnly.refl (s : State) : AccountsOnly s s := ⟨rfl, fun _ => rfl⟩

theorem AccountsOnly.trans {s t u : State} (a : AccountsOnly s t) (b : AccountsOnly t u) : AccountsOnly s u := by
  obtain ⟨shape, queue⟩ := a
  have suspended : t.xi.suspended = s.xi.suspended := by rw [shape]
  refine ⟨?_, fun h => (b.2 (suspended.trans h)).trans (queue h)⟩
  have b := b.1
  rw [b, shape]

theorem CloseOnly.accountsOnly {s t : State} (h : CloseOnly s t) (queue : s.xi.suspended = true → t.xi.queue = s.xi.queue) :
    AccountsOnly s t := by
  refine ⟨?_, queue⟩
  have h := h.1
  rw [h]

theorem post_accountsOnly (s : State) (b : ReportBody) : AccountsOnly s (post s b) := by
  refine (post_queueOnly s b).closeOnly.accountsOnly fun suspended => ?_
  rw [post_eq]
  exact (xiAfterReport_suspended suspended _).1

theorem testClose_accountsOnly (s : State) : AccountsOnly s (testClose s) :=
  (testClose_closeOnly s).accountsOnly fun suspended => by rw [testClose_suspended suspended]

theorem tallySegment_accountsOnly (s : State) (r : Segment) (d : DefectSet) : AccountsOnly s (tallySegment s r d) := by
  unfold tallySegment
  split
  · exact .refl s
  · exact ⟨rfl, fun _ => rfl⟩

theorem followRun_accountsOnly (s : State) (r : Segment) (d : DefectSet) : AccountsOnly s (followRun s r d) := by
  have run (t : State) (x : Option DefectRun) : AccountsOnly t { t with co.run := x } := ⟨rfl, fun _ => rfl⟩
  unfold followRun reportRun
  split
  · split
    · exact run s _
    · exact .refl s
  · split
    · exact run s _
    · dsimp only
      split
      · exact ((run s none).trans (post_accountsOnly _ _)).trans (run _ _)
      · exact (run s none).trans (post_accountsOnly _ _)

theorem settleExit_accountsOnly (s : State) (r : Segment) : AccountsOnly s (settleExit s r) := by
  have leaves (t : State) : AccountsOnly t { t with wt.map := t.wt.map.tail, co.waiting := none } := ⟨rfl, fun _ => rfl⟩
  exact ((tallySegment_accountsOnly s r _).trans (followRun_accountsOnly _ r _)).trans (leaves _)

theorem giveHorizon_accountsOnly (s : State) : AccountsOnly s (giveHorizon s) := by
  have told (x : Option Nat) : AccountsOnly s { s with wt.horizon := x } := ⟨rfl, fun _ => rfl⟩
  unfold giveHorizon
  dsimp only
  split
  · exact .refl s
  · exact (told _).trans (testClose_accountsOnly _)

theorem finishExit_accountsOnly (s : State) (n : Nat) : AccountsOnly s (finishExit s n) := by
  unfold finishExit
  split
  · exact ⟨rfl, fun _ => rfl⟩
  · have settled := settleExit_accountsOnly s ‹_›
    dsimp only
    split
    · exact settled
    · exact settled.trans (giveHorizon_accountsOnly _)

/-- The status and the copy of the next order once a bus fault has dropped the copy (R34). -/
def CopyDropped (s : State) : Prop := s.os.copy = none ∧ (s.os.status = .barred ∨ s.os.status = .empty)

theorem dropCopy_again {s : State} (dropped : CopyDropped s) : dropCopy s = s := by
  obtain ⟨copy, barred | empty⟩ := dropped
  · rw [dropCopy, if_pos barred, ← copy, ← barred]
  · rw [dropCopy, if_neg (by rw [empty]; nofun), ← copy, ← empty]

theorem AccountsOnly.dropped {s t : State} (h : AccountsOnly s t) (dropped : CopyDropped s) : CopyDropped t := by
  have h := h.1
  rw [CopyDropped, h]
  exact dropped

/-- A transaction ended by a fault, the copy dropped already, is an account settled and no more (R161). -/
theorem endedByFault_accountsOnly {s : State} (dropped : CopyDropped s) (t : Transaction) :
    AccountsOnly s (endedByFault s t) := by
  cases t with
  | profileRead => exact .refl s
  | takeWrite => exact .refl s
  | abandonWrite => exact .refl s
  | slotRead =>
    rw [endedByFault, dropCopy_again dropped]
    exact .refl s
  | confirmRead =>
    rw [endedByFault, dropCopy_again dropped]
    exact .refl s
  | closeWrite => exact ⟨rfl, fun _ => rfl⟩
  | mapWrite n => exact finishExit_accountsOnly s n
  | report => exact ⟨rfl, fun _ => rfl⟩

theorem endedByFaults_accountsOnly {s : State} (dropped : CopyDropped s) (l : List Transaction) :
    AccountsOnly s (l.foldl endedByFault s) :=
  (foldl_keeps (P := fun t => CopyDropped t ∧ AccountsOnly s t)
    (fun _ a h => ⟨(endedByFault_accountsOnly h.1 a).dropped h.1, h.2.trans (endedByFault_accountsOnly h.1 a)⟩) l
    ⟨dropped, .refl s⟩).2

theorem handEndedByFault_accountsOnly {s : State} (dropped : CopyDropped s) (h : InHand) :
    AccountsOnly s (handEndedByFault s h) := by
  unfold handEndedByFault
  split
  · exact .refl s
  · exact endedByFault_accountsOnly dropped _

/-! ### The access lost (R136, R158, R161; log entry 5) -/

theorem handEndedByFault_eq (s : State) (h : InHand) : handEndedByFault s h =
    if h.discarded = true ∨ h.stage = .refusing then s else endedByFault s h.transaction := by
  unfold handEndedByFault
  simp only [Bool.or_eq_true, beq_iff_eq]

theorem lostAccess_shape (s : State) (h : InHand) : lostAccess s h = { s with
    mem := (lostAccess s h).mem
    draws := if h.access.write.isSome then s.draws + 1 else s.draws } := by
  unfold lostAccess
  cases h.access.write <;> rfl

theorem lostAccess_elsewhere (s : State) {h : InHand} {a : Nat}
    (outside : a < h.address.toNat ∨ h.address.toNat + 4 ≤ a ∨ h.access.write = none) :
    readByte (lostAccess s h).mem a = readByte s.mem a := by
  unfold lostAccess
  cases written : h.access.write with
  | none => rfl
  | some w =>
    dsimp only
    split
    · exact readByte_writeWord_outside _ _ _ _ (by
        rcases outside with before | after | no
        · exact .inl before
        · omega
        · rw [written] at no; cases no)
    · rfl

theorem lostAccess_marker (s : State) {h : InHand} (marker : markerWrite h = true) : (lostAccess s h).mem = s.mem := by
  unfold lostAccess
  rw [marker]
  cases h.access.write <;> rfl

/-- The port freed after an access lost. -/
theorem freedLost_shape (s : State) (h : InHand) : freePort (lostAccess s h) = { s with
    mem := (lostAccess s h).mem
    draws := if h.access.write.isSome then s.draws + 1 else s.draws
    xi := { s.xi with inHand := none, timer := .stopped } } := by
  rw [lostAccess_shape]
  rfl

/-! ### The timeout by the line state (R161, R174, R176) -/

section
variable {s : State} {h : InHand}

theorem exec_memoryAccessTimeout_idle (idle : s.xi.inHand = none ∨ ¬Due s.xi.timer 1 s.clock) :
    exec .memoryAccessTimeout s = .next s := by
  refine congrArg Host.Outcome.next (?_ : timeOutAccess s = s)
  unfold timeOutAccess
  split
  · rfl
  next h held =>
    rcases idle with none | early
    · rw [none] at held
      cases held
    · exact ite_timerDue_neg early _ _

theorem exec_memoryAccessTimeout (held : s.xi.inHand = some h) (due : Due s.xi.timer 1 s.clock) :
    exec .memoryAccessTimeout s = .next (loseAccess s h) := by
  refine congrArg Host.Outcome.next (?_ : timeOutAccess s = _)
  rw [timeOutAccess, held]
  exact ite_timerDue_pos due _ _

theorem loseAccess_open (opened : lineOpen s = true) : loseAccess s h = busFault (freePort (lostAccess s h)) h := by
  unfold loseAccess
  rw [lineOpen] at opened
  cases line : s.lc.line <;> rw [line] at opened <;> first | rfl | cases opened

theorem loseAccess_loading (line : s.lc.line = .loading) :
    loseAccess s h = rejectLoad (freePort (lostAccess s h)) loadBusFault h.access.offset := by
  rw [loseAccess, line]

theorem loseAccess_unloaded (line : s.lc.line = .unloaded) :
    loseAccess s h = unloadServed (handEndedByFault (freePort (lostAccess s h)) h) := by
  have stays : (handEndedByFault (freePort (lostAccess s h)) h).lc.line = .unloaded := by
    refine (handEndedByFault_closed keepsLine_calm _ h).trans ?_
    rw [freedLost_shape]
    exact line
  rw [loseAccess, line]
  exact endUnload_unloaded stays

end

/-- The interface suspended, before its transactions end (R161). -/
def suspendedBy (s : State) (h : InHand) : State :=
  { s with
    mem := (lostAccess s h).mem
    draws := if h.access.write.isSome then s.draws + 1 else s.draws
    os := { s.os with copy := none, status := if s.os.status = .barred then .barred else .empty }
    xi := { s.xi with
      inHand := none
      timer := .stopped
      queue := []
      suspended := true
      held := some { offset := h.access.offset, write := h.access.write.isSome, clock := s.clock } } }

theorem suspendedBy_dropped (s : State) (h : InHand) : CopyDropped (suspendedBy s h) := by
  refine ⟨rfl, ?_⟩
  show (if s.os.status = .barred then NextStatus.barred else .empty) = .barred ∨ _
  split
  · exact .inl rfl
  · exact .inr (if_neg ‹_›)

/-- Every transaction of a suspended interface ended, the one in hand first. -/
def endedBy (s : State) (h : InHand) : State :=
  s.xi.queue.foldl endedByFault (handEndedByFault (suspendedBy s h) h)

theorem endedBy_accountsOnly (s : State) (h : InHand) : AccountsOnly (suspendedBy s h) (endedBy s h) := by
  have first := handEndedByFault_accountsOnly (suspendedBy_dropped s h) h
  exact first.trans (endedByFaults_accountsOnly (first.dropped (suspendedBy_dropped s h)) s.xi.queue)

theorem busFault_lost (s : State) (h : InHand) : busFault (freePort (lostAccess s h)) h = raiseFault (endedBy s h) .busFault := by
  rw [freedLost_shape]
  rfl

theorem HoldSet.join_fault (h : HoldSet) : h.join (holdOf .fault) = { h with fault := true } := by
  simp [HoldSet.join, holdOf]

/-- BUS_FAULT raised at the interface that it has suspended (R161, R163). -/
theorem raiseFault_suspended {s : State} (opened : lineOpen s = true) (suspended : s.xi.suspended = true) (f : FaultReason) :
    (raiseFault s f).xi.queue = s.xi.queue ∧ (raiseFault s f).lc.holds = { s.lc.holds with fault := true } ∧
      (raiseFault s f).lc.firstFault = some (s.lc.firstFault.getD f) ∧ (raiseFault s f).events.fault = true ∧
      (s.lc.holds.any = false → (raiseFault s f).lc.permit = false) := by
  obtain ⟨held, enters⟩ := raiseFault_raises s f opened
  cases any : s.lc.holds.any with
  | true =>
    rw [held any]
    exact ⟨rfl, rfl, rfl, rfl, nofun⟩
  | false =>
    have enters := enters any
    refine ⟨?_, ?_, ?_, ?_, fun _ => ?_⟩
    · rw [enters.report]
      exact (xiAfterReport_suspended (s := { s with
        events.fault := true, lc.firstFault := some (s.lc.firstFault.getD f) }) suspended _).1
    · exact (raiseCause_holds s .fault (some f) opened).trans (HoldSet.join_fault _)
    · rw [enters.line]
    · rw [enters.events, eventsAfterReport]
      split <;> rfl
    · rw [enters.line]

theorem endedByFault_idle (s : State) (t : Transaction) :
    (endedByFault s t).xi.inHand = s.xi.inHand ∧ (endedByFault s t).xi.timer = s.xi.timer := by
  cases t with
  | mapWrite n =>
    rw [show endedByFault s (.mapWrite n _) = finishExit s n from rfl, (finishExit_accountsOnly s n).1]
    exact ⟨rfl, rfl⟩
  | _ => exact ⟨rfl, rfl⟩

theorem handEndedByFault_idle (s : State) (h : InHand) :
    (handEndedByFault s h).xi.inHand = s.xi.inHand ∧ (handEndedByFault s h).xi.timer = s.xi.timer := by
  unfold handEndedByFault
  split
  · exact ⟨rfl, rfl⟩
  · exact endedByFault_idle s _

theorem unloadServed_portKeeps (s : State) : PortKeeps s (unloadServed s) := by
  unfold unloadServed
  split <;> exact ⟨rfl, rfl, rfl, rfl, rfl⟩

theorem unloadServed_idle {s : State} (idle : s.xi.inHand = none ∧ s.xi.timer = .stopped) :
    (unloadServed s).xi.inHand = none ∧ (unloadServed s).xi.timer = .stopped := by
  unfold unloadServed
  split
  · exact ⟨rfl, rfl⟩
  · exact idle

theorem rejectLoad_idle {s : State} (idle : s.xi.inHand = none ∧ s.xi.timer = .stopped) (reason item : Nat) :
    (rejectLoad s reason item).xi.inHand = none ∧ (rejectLoad s reason item).xi.timer = .stopped := by
  have rejected (u : State) (b : ReportBody) (h : u.xi = s.xi) :
      (post u b).xi.inHand = none ∧ (post u b).xi.timer = .stopped := by
    rw [post_queueOnly u b, h]
    exact idle
  exact rejected (setLine s .unloaded) _ rfl

theorem busFault_port (s : State) (h : InHand) : PortKeeps (suspendedBy s h) (raiseFault (endedBy s h) .busFault) ∧
    (raiseFault (endedBy s h) .busFault).xi.inHand = none ∧ (raiseFault (endedBy s h) .busFault).xi.timer = .stopped := by
  have only := raiseCause_lineOnly (endedBy s h) .fault (some .busFault)
  have ended := (endedBy_accountsOnly s h).1
  have raised : PortKeeps (endedBy s h) (raiseFault (endedBy s h) .busFault) :=
    ⟨only.clock, only.pins, only.exbase, only.mem, only.pending⟩
  refine ⟨.trans ?_ raised, only.inHand.trans ?_, only.timer.trans ?_⟩
  · rw [ended]
    exact ⟨rfl, rfl, rfl, rfl, rfl⟩
  · rw [ended]
    rfl
  · rw [ended]
    rfl

/-- In every line state the access is gone, and nothing of the port's surroundings has changed but its word. -/
theorem loseAccess_port (s : State) (h : InHand) : PortKeeps { s with mem := (lostAccess s h).mem } (loseAccess s h) ∧
    (loseAccess s h).xi.inHand = none ∧ (loseAccess s h).xi.timer = .stopped := by
  have freed : PortKeeps { s with mem := (lostAccess s h).mem } (freePort (lostAccess s h)) := by
    rw [freedLost_shape]
    exact ⟨rfl, rfl, rfl, rfl, rfl⟩
  have suspended (opened : lineOpen s = true) : PortKeeps { s with mem := (lostAccess s h).mem } (loseAccess s h) ∧
      (loseAccess s h).xi.inHand = none ∧ (loseAccess s h).xi.timer = .stopped := by
    rw [loseAccess_open opened, busFault_lost]
    obtain ⟨kept, idle⟩ := busFault_port s h
    have word : PortKeeps { s with mem := (lostAccess s h).mem } (suspendedBy s h) := ⟨rfl, rfl, rfl, rfl, rfl⟩
    exact ⟨word.trans kept, idle⟩
  cases line : s.lc.line with
  | unloaded =>
    rw [loseAccess_unloaded line]
    have ended := (handEndedByFault_closed board_calm (freePort (lostAccess s h)) h).portKeeps
    exact ⟨(freed.trans ended).trans (unloadServed_portKeeps _), unloadServed_idle (handEndedByFault_idle _ h)⟩
  | loading =>
    rw [loseAccess_loading line]
    exact ⟨freed.trans (rejectLoad_portKeeps _ _ _), rejectLoad_idle ⟨rfl, rfl⟩ _ _⟩
  | ready => exact suspended (by rw [lineOpen, line]; rfl)
  | printing => exact suspended (by rw [lineOpen, line]; rfl)

/-- Settles O53: the access lost, then the line state. -/
theorem timeoutsEndTheAccess : Obligations.TimeoutsEndTheAccess := by
  unfold Obligations.TimeoutsEndTheAccess
  intro s
  refine ⟨exec_memoryAccessTimeout_idle, fun h held due => ?_, rfl, fun i ws c => ⟨rfl, rfl, fun t reads => ?_, rfl⟩,
    fun n ws => rfl, fun p => rfl⟩
  · have run := exec_memoryAccessTimeout held due
    obtain ⟨port, hand, timer⟩ := loseAccess_port s h
    refine ⟨⟨_, run, ?_, ?_, ?_, hand, timer, port.pins, port.exbase, port.pending⟩, fun opened => ?_, fun line read => ?_,
      fun line write ends => ?_, fun line report kept going => ?_, fun line => ⟨_, run, fun u is => ?_⟩⟩
    · intro a outside
      rw [port.mem]
      exact lostAccess_elsewhere s outside
    · rintro ⟨p, report⟩ marked
      exact port.mem.trans (lostAccess_marker s (by rw [markerWrite, report]; simpa using marked))
    · rintro ⟨n, ws, is⟩ last
      exact port.mem.trans (lostAccess_marker s (by rw [markerWrite, is, last]; rfl))
    · rw [loseAccess_open opened, busFault_lost] at run port
      have ended := (endedBy_accountsOnly s h)
      have only := raiseCause_lineOnly (endedBy s h) .fault (some .busFault)
      have dropped := ended.dropped (suspendedBy_dropped s h)
      obtain ⟨shape, queue⟩ := ended
      have isOpen : lineOpen (endedBy s h) = true := by rw [shape]; exact opened
      have suspended : (endedBy s h).xi.suspended = true := by rw [shape]; rfl
      obtain ⟨left, holds, first, fault, permit⟩ := raiseFault_suspended isOpen suspended .busFault
      have raises := raiseFault_raises (endedBy s h) .busFault isOpen
      have line := raiseCause_line (endedBy s h) .fault (some .busFault)
      have mem := port.mem
      have os : (raiseFault (endedBy s h) .busFault).os = (endedBy s h).os := only.os
      have lc : (endedBy s h).lc = s.lc := by rw [shape]; rfl
      rw [lc] at holds first permit line
      refine ⟨_, run, only.suspended.trans suspended, only.held.trans (by rw [shape]; rfl), left.trans (queue rfl),
        only.written.trans (by rw [shape]; rfl), only.retired.trans (by rw [shape]; rfl), by rw [os]; exact dropped.1,
        by rw [os, shape]; rfl, line, holds, first, fault, permit, only.prof.trans (by rw [shape]; rfl),
        only.busy.trans (by rw [shape]; rfl), fun u is => ?_⟩
      rw [mem] at is
      have start : u = suspendedBy s h := is
      rw [← handEndedByFault_eq, start]
      exact raises
    · have unwritten : lostAccess s h = s := by
        rw [lostAccess, read]
      rw [run, loseAccess_loading line, unwritten, rejectLoad, post_eq]
      rfl
    · refine ⟨(lostAccess s h).mem, ?_⟩
      have ended : handEndedByFault (freePort (lostAccess s h)) h = freePort (lostAccess s h) := by
        rw [handEndedByFault_eq]
        rcases ends with ⟨i, ws, is⟩ | ⟨i, is⟩ <;> rw [is] <;> exact ite_self _
      rw [run, loseAccess_unloaded line, ended, freedLost_shape, write, if_pos rfl]
      refine ⟨fun goesOn => ?_, fun queue busy => ?_⟩
      · refine congrArg _ (if_neg fun served => ?_)
        obtain ⟨busy, queue, -⟩ := served
        rcases goesOn with more | idle
        · exact more queue
        · exact Bool.noConfusion (busy.symm.trans idle)
      · exact congrArg _ (if_pos ⟨busy, queue, rfl⟩)
    · obtain ⟨p, is⟩ := report
      have lost : handEndedByFault (freePort (lostAccess s h)) h = loseReport (freePort (lostAccess s h)) := by
        rw [handEndedByFault_eq, if_neg (by rintro (no | no); exacts [Bool.noConfusion (kept.symm.trans no), going no]), is]
        rfl
      refine ⟨_, run, ?_⟩
      rw [loseAccess_unloaded line, lost, freedLost_shape, unloadServed]
      by_cases served : s.busy = true ∧ s.xi.queue = []
      · rw [if_pos ⟨served.1, served.2, rfl⟩, served.1, served.2]
        exact ⟨(Bool.and_false _).symm, rfl, rfl⟩
      · rw [if_neg fun h => served ⟨h.1, h.2.1⟩]
        refine ⟨?_, rfl, rfl⟩
        have goesOn : (!s.busy || !s.xi.queue.isEmpty) = true := by
          rw [← Bool.not_and, Bool.not_eq_true', Bool.and_eq_false_iff]
          by_contra both
          simp at both
          exact served both
        rw [goesOn, Bool.and_true]
        rfl
    · rw [port.mem] at is
      rw [loseAccess_unloaded line, handEndedByFault_eq, freedLost_shape, is]
  · rcases reads with rfl | rfl <;> rfl

end Sys2Proof.Machine
end

section
/-! PROOF. The last word of a profile read: the load rejected or completed, block by block (R172 to R175). -/

namespace Sys2Proof.Machine

/-! ### The blocks at the completion of a load (R175) -/

/-- A profile without a fault has its initial fill within the capacity of the festoon (R173, item 7). -/
theorem festoonFill_within {w : Nat → Word} (passed : profileFault w = none) :
    (profileOf w).festoonFill ≤ (profileOf w).festoonCapacity := by
  have fits := ((profileChecksFollowTheItems generalRanges w rfl).2.1 passed) 7 0
  by_contra beyond
  exact fits ⟨rfl, .inr (Nat.lt_of_not_le beyond)⟩

/-- PROFILE_LOADED (R175). -/
def loadedPosting (s : State) (f : Profile) : Posting :=
  { kind := .profileLoaded, tag := 0#32, station := 0#32, serial := 0#32, clock := s.clock,
    first := (inServiceSet f).setWidth 32, second := wordOfNat f.zones.length }

theorem filledLine_xi {s : State} (f : Profile) (queue : s.xi.queue = []) (free : s.xi.suspended = false) :
    (filledLine s f).xi = { s.xi with queue := [.report (loadedPosting s f)] } := by
  have xi := takeProfile_xi s f
  have clock := (takeProfile_portKeeps s f).clock
  rw [filledLine]
  generalize takeProfile s f = u at xi clock
  have kept : u.xi.suspended = false := by rw [xi, free]
  have room : waitingReports u.xi.queue < 48 := by rw [xi, queue]; decide
  rw [post_eq, afterReport_queued (s := { u with lc.line := .ready }) kept room, postingOf]
  dsimp only
  rw [xi, clock, queue]
  rfl

/-- The blocks at their values for a load, the phase targets still to be driven (R175). -/
def loadedBlocks (s : State) (f : Profile) : State :=
  { s with
    prof := f
    wt := loadedTracker f
    cp := loadedPlanner s.pins.seamLevel
    os := resetSequencer
    sc := ⟨⟨stationList.map (loadedChannel f)⟩, rfl⟩
    pu := { resetPhaseUnit with stations := ⟨⟨stationList.map (loadedPhase f)⟩, rfl⟩ }
    mr := resetReader
    ci := loadedCure s
    co := resetCloseOut
    lc := resetLine }

theorem takeProfile_eq (s : State) (f : Profile) : takeProfile s f = driveTargets (loadedBlocks s f) := rfl

theorem loadedBlocks_phase (s : State) (f : Profile) (i : Station) : (loadedBlocks s f).phase i = loadedPhase f i :=
  get_stationTable (loadedPhase f) rfl i

theorem post_phase (s : State) (l : LineState) (b : ReportBody) (i : Station) :
    (post { s with lc.line := l } b).phase i = s.phase i := by
  rw [State.phase, post_pu]
  rfl

/-- The phase state of a station at the completion of a load (R86, R100). -/
theorem filledLine_phase (s : State) (f : Profile) (i : Station) : (filledLine s f).phase i =
    if (f.stations.get i).inService then
      { resetPhaseStation with
        base := (f.stations.get i).base
        target := targetOf (-((f.stations.get i).distance : Int) - (f.stations.get i).base) (f.stations.get i).circumference }
    else resetPhaseStation := by
  unfold filledLine
  rw [post_phase, takeProfile_eq, driveTargets_phase, loadedBlocks_phase]
  have cfg : (loadedBlocks s f).stationCfg i = f.stations.get i := rfl
  have start : (loadedBlocks s f).wt.p = 0 := rfl
  rw [targeted, cfg, start, loadedPhase]
  split
  · have x : ((0 : Nat) : Int) - (0 : Nat) - (f.stations.get i).distance - ((f.stations.get i).base + 0 + 0) =
        -((f.stations.get i).distance : Int) - (f.stations.get i).base := by omega
    rw [← x]
    rfl
  · rfl

/-! ### The initial fill delivered (R151, R175) -/

/-- What the delivery of the initial fill leaves of a line just loaded. -/
structure Delivers (s t : State) (f : Profile) : Prop where
  only : LineOnly s t
  wt : t.wt = s.wt
  chan : ∀ i, t.chan i = s.chan i
  line : t.lc.line = .ready
  firstFault : t.lc.firstFault = none
  engaged : t.lc.engaged = false
  standstill : t.lc.standstill = .stopped
  holds : t.lc.holds = { festoon := decide (f.highMark ≤ f.festoonFill) }
  head : t.xi.queue.head? = s.xi.queue.head?
  alone : f.festoonFill < f.highMark → t.xi.queue = s.xi.queue

/-- A hold entry finds no screen of a line just loaded down. -/
theorem heldChannel_loaded (clk : Word) (f : Profile) (i : Station) :
    heldChannel clk (loadedChannel f i) = loadedChannel f i := by
  unfold loadedChannel
  split <;> rfl

theorem filledLine_wt (s : State) (f : Profile) : (filledLine s f).wt = loadedTracker f := by
  obtain ⟨v, x, e, n, filled⟩ := filledLine_eq s f
  rw [filled]

theorem checkOverfill_armed {s : State} (within : festoon s ≤ s.prof.festoonCapacity) (armed : s.wt.overfillArmed = true) :
    checkOverfill s = s := by
  rw [checkOverfill_within within, ← armed]

/-- A low initial fill changes nothing at its delivery. -/
theorem deliverFestoon_low {s : State} {f : Profile} (within : f.festoonFill ≤ f.festoonCapacity)
    (low : f.festoonFill < f.highMark) : deliverFestoon (filledLine s f) = filledLine s f := by
  have content := filledLine_festoon s f
  have prof := filledLine_prof s f
  have clear : (filledLine s f).lc.holds.festoon = false := by rw [filledLine_lc]; rfl
  have armed : (filledLine s f).wt.overfillArmed = true := by rw [filledLine_wt]; rfl
  rw [deliverFestoon, compareMarks_below clear (by rw [content, prof]; exact Int.ofNat_lt.2 low),
    checkOverfill_armed (by rw [content, prof]; exact Int.ofNat_le.2 within) armed]

/-- A high initial fill raises FESTOON as a hold entry. -/
theorem deliverFestoon_high {s : State} {f : Profile} (within : f.festoonFill ≤ f.festoonCapacity)
    (high : f.highMark ≤ f.festoonFill) :
    deliverFestoon (filledLine s f) = raiseCause (filledLine s f) .festoon none := by
  have content := filledLine_festoon s f
  have prof := filledLine_prof s f
  have clear : (filledLine s f).lc.holds.festoon = false := by rw [filledLine_lc]; rfl
  have armed : (filledLine s f).wt.overfillArmed = true := by rw [filledLine_wt]; rfl
  have marked := compareMarks_high clear (s := filledLine s f) (by rw [content, prof]; exact Int.ofNat_le.2 high)
  have only := compareMarks_lineOnly (filledLine s f)
  have kept := compareMarks_armed (filledLine s f)
  rw [deliverFestoon, checkOverfill_armed (by rw [only.festoon_eq, only.prof, content, prof]; exact Int.ofNat_le.2 within)
    (kept.trans armed), marked]

theorem deliverFestoon_filled {s : State} {f : Profile} (within : f.festoonFill ≤ f.festoonCapacity)
    (queue : s.xi.queue = []) (free : s.xi.suspended = false) :
    Delivers (filledLine s f) (deliverFestoon (filledLine s f)) f := by
  have only := deliverFestoon_lineOnly (filledLine s f)
  have lc := filledLine_lc s f
  by_cases low : f.festoonFill < f.highMark
  · rw [deliverFestoon_low within low] at only ⊢
    have off : decide (f.highMark ≤ f.festoonFill) = false := decide_eq_false (Nat.not_le.2 low)
    exact ⟨only, rfl, fun _ => rfl, by rw [lc], by rw [lc]; rfl, by rw [lc]; rfl, by rw [lc]; rfl, by rw [lc, off]; rfl, rfl,
      fun _ => rfl⟩
  · have high := Nat.le_of_not_lt low
    have on : decide (f.highMark ≤ f.festoonFill) = true := decide_eq_true high
    have chan := filledLine_chan s f
    have xi := filledLine_xi f queue free
    have wt := filledLine_wt s f
    rw [deliverFestoon_high within high] at only ⊢
    have opened : lineOpen (filledLine s f) = true := by rw [lineOpen, lc]; rfl
    have empty : (filledLine s f).lc.holds.any = false := by rw [lc]; rfl
    have enters := raiseCause_enters opened empty .festoon
    generalize filledLine s f = u at only lc chan xi wt enters ⊢
    generalize raiseCause u .festoon none = t at only enters ⊢
    obtain ⟨line, channels, count, _, report, _, rest⟩ := enters
    rw [lc] at line
    have noRecords : t.wt.map = [] := List.length_eq_zero_iff.1 (by rw [count, wt]; rfl)
    refine ⟨only, ?_, fun i => ?_, by rw [line], by rw [line]; rfl, by rw [line], by rw [line]; rfl, by rw [line, on]; rfl, ?_,
      fun below => absurd below low⟩
    · rw [rest, noRecords, wt]
      rfl
    · rw [channels, chan, heldChannel_loaded]
    · rw [report, xiAfterReport]
      split
      · rfl
      · rw [xi]
        rfl

/-! ### The last word -/

/-- The port free after the last word of a profile read (R159). -/
def profileWordRead (s : State) (h : InHand) (host : Option Word) : State :=
  { s with mem := accessMemory s.mem h host, xi.inHand := none, xi.timer := .stopped }

theorem exec_lastProfileWord {s : State} {h : InHand} {o : Nat} (host : Option Word) (loading : s.lc.line = .loading)
    (held : s.xi.inHand = some h) (transaction : h.transaction = .profileRead) (access : h.access = readAt o)
    (rest : h.rest = []) (kept : h.discarded = false) :
    exec (.memoryAccessDone host) s = .next (endUnload (endProfileRead (profileWordRead s h host)
      ((o, readWord (accessMemory s.mem h host) h.address.toNat) :: h.got))) := by
  have got : (gather (accessMemory s.mem h host) h).got =
      (o, readWord (accessMemory s.mem h host) h.address.toNat) :: h.got := by
    rw [gather, access]
    rfl
  have plain : h.access.mark = .plain := by rw [access]; rfl
  have line : ((moveWord s h host).lc.line == .loading) = true := by
    rw [moveWord_plain plain]
    exact beq_iff_eq.2 loading
  rw [exec_memoryAccessDone, completeAccess_held held,
    nextAccess_done ((gather_discarded _ h).trans kept) ((gather_rest _ h).trans rest), accessesDone, gather_transaction,
    transaction]
  dsimp only
  rw [if_pos line, freedPort_plain plain, got]
  rfl

/-- The words of a profile read, as the check of the profile sees them (R172). -/
theorem endProfileRead_rejects {s : State} {got : List (Nat × Word)} {w : Nat → Word} (spelled : ∀ i, w i = wordAt got (4 * i))
    {reason item : Nat} (fault : profileFault w = some (reason, item)) :
    endProfileRead s got = rejectLoad s reason item := by
  have words : (fun i => wordAt got (4 * i)) = w := funext fun i => (spelled i).symm
  unfold endProfileRead
  dsimp only
  rw [words, fault]

theorem endProfileRead_completes {s : State} {got : List (Nat × Word)} {w : Nat → Word}
    (spelled : ∀ i, w i = wordAt got (4 * i)) (passed : profileFault w = none) :
    endProfileRead s got = completeLoad s (profileOf w) := by
  have words : (fun i => wordAt got (4 * i)) = w := funext fun i => (spelled i).symm
  unfold endProfileRead
  dsimp only
  rw [words, passed]

/-- A rejected load leaves every block as it was and queues PROFILE_REJECTED (R174). -/
theorem rejectLoad_queued {s : State} (queue : s.xi.queue = []) (free : s.xi.suspended = false) (reason item : Nat) :
    rejectLoad s reason item = { s with
      busy := false
      lc := { s.lc with line := .unloaded, permit := false }
      xi.queue := [.report
        { kind := .profileRejected, tag := 0#32, station := 0#32, serial := 0#32, clock := s.clock,
          first := wordOfNat reason, second := wordOfNat item }]
      events := { s.events with cmdDone := true }
      draws := s.draws + 1 } := by
  have room : waitingReports s.xi.queue < 48 := by rw [queue]; decide
  rw [rejectLoad, post_eq, afterReport_queued (s := setLine s .unloaded) free room, setLine_xi, queue]
  rfl

/-- What a completed load leaves (R175). -/
structure LoadCompleted (s t : State) (f : Profile) : Prop where
  prof : t.prof = f
  keeps : PortKeeps s t
  wt : t.wt = loadedTracker f
  cp : t.cp = loadedPlanner s.pins.seamLevel
  os : t.os = resetSequencer
  mr : t.mr = resetReader
  co : t.co = resetCloseOut
  chan : ∀ i, t.chan i = loadedChannel f i
  phase : ∀ i, t.phase i =
    if (f.stations.get i).inService then
      { resetPhaseStation with
        base := (f.stations.get i).base
        target := targetOf (-((f.stations.get i).distance : Int) - (f.stations.get i).base) (f.stations.get i).circumference }
    else resetPhaseStation
  orders : t.pu.orders = []
  lastSet : t.pu.lastSet = 0#16
  switches : t.pu.switches = []
  ci : t.ci = loadedCure s
  line : t.lc.line = .ready
  firstFault : t.lc.firstFault = none
  engaged : t.lc.engaged = false
  standstill : t.lc.standstill = .stopped
  holds : t.lc.holds = { festoon := decide (f.highMark ≤ f.festoonFill) }
  permit : t.lc.permit = decide (f.festoonFill < f.highMark)
  busy : t.busy = false
  done : t.events.cmdDone = true
  head : t.xi.queue.head? = some (.report (loadedPosting s f))
  alone : f.festoonFill < f.highMark → t.xi.queue.length = 1
  inHand : t.xi.inHand = s.xi.inHand
  written : t.xi.written = s.xi.written

theorem judgedPermit {s : State} {b : Bool} (line : s.lc.line = .ready) (holds : s.lc.holds = { festoon := b }) :
    (judgePermit s).lc.permit = !b := by
  have permit : (judgePermit s).lc.permit = (lineOpen s && !s.lc.holds.any) := rfl
  rw [permit, lineOpen, line, holds]
  cases b <;> rfl

theorem completeLoad_completes {s : State} {f : Profile} (within : f.festoonFill ≤ f.festoonCapacity) (queue : s.xi.queue = [])
    (free : s.xi.suspended = false) : LoadCompleted s (completeLoad s f) f := by
  have prof := completeLoad_prof s f
  have keeps := completeLoad_portKeeps s f
  have delivers := deliverFestoon_filled within queue free
  have xi := filledLine_xi f queue free
  have chan := filledLine_chan s f
  have phase := filledLine_phase s f
  have filled := filledLine_eq s f
  rw [completeLoad_eq] at prof keeps ⊢
  generalize filledLine s f = u at *
  generalize deliverFestoon u = t at *
  obtain ⟨v, x, e, n, filled⟩ := filled
  have blocks : u.wt = loadedTracker f ∧ u.cp = loadedPlanner s.pins.seamLevel ∧ u.os = resetSequencer ∧ u.mr = resetReader ∧
      u.co = resetCloseOut ∧ u.pu = { resetPhaseUnit with stations := v } ∧ u.ci = loadedCure s := by
    rw [filled]
    exact ⟨rfl, rfl, rfl, rfl, rfl, rfl, rfl⟩
  obtain ⟨wt, cp, os, mr, co, pu, ci⟩ := blocks
  have only := delivers.only
  have samePhase (i : Station) : t.phase i = u.phase i := by rw [State.phase, only.pu]; rfl
  have tpu := only.pu.trans pu
  exact {
    prof, keeps
    wt := delivers.wt.trans wt
    cp := only.cp.trans cp
    os := only.os.trans os
    mr := only.mr.trans mr
    co := only.co.trans co
    chan := fun i => (delivers.chan i).trans (chan i)
    phase := fun i => (samePhase i).trans (phase i)
    orders := congrArg PhaseUnit.orders tpu
    lastSet := congrArg PhaseUnit.lastSet tpu
    switches := congrArg PhaseUnit.switches tpu
    ci := only.ci.trans ci
    line := delivers.line
    firstFault := delivers.firstFault
    engaged := delivers.engaged
    standstill := delivers.standstill
    holds := delivers.holds
    permit := (judgedPermit delivers.line delivers.holds).trans (by
      rw [← decide_not]
      exact decide_eq_decide.2 Nat.not_le)
    busy := rfl
    done := rfl
    head := delivers.head.trans (by rw [xi]; rfl)
    alone := fun low => (congrArg List.length (delivers.alone low)).trans (by rw [xi]; rfl)
    inHand := only.inHand.trans (by rw [xi])
    written := only.written.trans (by rw [xi]) }

/-- Settles O43: the words spell the profile, its check rejects the load, or every block takes its values. -/
theorem lastProfileWordEndsTheLoad : Obligations.LastProfileWordEndsTheLoad := by
  unfold Obligations.LastProfileWordEndsTheLoad
  intro s h o host w loading held transaction access rest kept queue free spelled
  have read := exec_lastProfileWord host loading held transaction access rest kept
  constructor
  · intro reason item fault
    rw [read, endProfileRead_rejects spelled fault, rejectLoad_queued (s := profileWordRead s h host) queue free,
      endUnload_goes_on (.inl rfl)]
    rfl
  · intro passed
    have done := completeLoad_completes (s := profileWordRead s h host) (festoonFill_within passed) queue free
    rw [endProfileRead_completes spelled passed] at read
    generalize completeLoad (profileWordRead s h host) (profileOf w) = t at read done
    rw [endUnload_goes_on (.inl done.busy)] at read
    have prof := done.prof
    have keeps := done.keeps
    have cfg (i : Station) : t.stationCfg i = (profileOf w).stations.get i := by rw [State.stationCfg, prof]
    refine ⟨t, read, prof, keeps.mem, keeps.exbase, keeps.pins, keeps.clock, keeps.pending, ?_, done.cp, done.os, done.mr,
      done.co, fun i => ?_, fun i => ?_, done.orders, done.lastSet, done.switches, done.ci, done.line, done.firstFault,
      done.engaged, done.standstill, ?_, ?_, done.busy, done.done, ?_, ?_, done.inHand, done.written⟩
    · rw [prof]; exact done.wt
    · rw [cfg]; exact done.chan i
    · rw [cfg]; exact done.phase i
    · rw [prof]; exact done.holds
    · rw [prof]; exact done.permit
    · rw [prof]; exact done.head
    · rw [prof]; exact done.alone

end Sys2Proof.Machine
end

section
/-! PROOF. UNLOAD: the last writes handed over, every block at its reset values, the command ended with the last
of them (R176). -/

namespace Sys2Proof.Machine

/-! ### Command busy has no part in what the accounts do -/

theorem tallySegment_busy (s : State) (b : Bool) (r : Segment) (d : DefectSet) :
    tallySegment { s with busy := b } r d = { tallySegment s r d with busy := b } := by
  cases slot : r.slot with
  | none => simp only [tallySegment, slot]
  | some i => simp only [tallySegment, slot]

theorem reportRun_busy (s : State) (b : Bool) (run : DefectRun) :
    reportRun { s with busy := b } run = { reportRun s run with busy := b } := by
  rw [reportRun, reportRun, post_eq, post_eq]
  rfl

theorem followRun_busy (s : State) (b : Bool) (r : Segment) (d : DefectSet) :
    followRun { s with busy := b } r d = { followRun s r d with busy := b } := by
  cases open_ : s.co.run with
  | none => cases any : d.any <;> simp [followRun, open_, any]
  | some run =>
    simp only [followRun, open_, reportRun_busy]
    split
    · rfl
    · split <;> rfl

/-! ### The waiting close-out (R142) -/

/-- Steps 4 and 5 of the close-out that waits for its quality map write, made at once (R142). -/
def unloadSettled (s : State) : State :=
  match s.co.waiting.bind (oldestWith s) with
  | some r => followRun (tallySegment s r (verdictOf r)) r (verdictOf r)
  | none => s

theorem dropFabric_settled (s : State) :
    dropFabric { s with busy := true } = { unloadSettled s with busy := true, wt := resetTracker, co := resetCloseOut } := by
  have oldest : (State.co { s with busy := true }).waiting.bind (oldestWith { s with busy := true }) =
      s.co.waiting.bind (oldestWith s) := rfl
  unfold dropFabric unloadSettled
  rw [oldest]
  cases s.co.waiting.bind (oldestWith s) with
  | none => rfl
  | some r =>
    dsimp only
    rw [settleExit, tallySegment_busy, followRun_busy]

theorem unloadSettled_waiting {s : State} {r : Segment} {rest : List Segment} (waiting : s.co.waiting = some r.serial)
    (map : s.wt.map = r :: rest) :
    unloadSettled s = followRun (tallySegment s r (verdictOf r)) r (verdictOf r) := by
  have oldest : s.co.waiting.bind (oldestWith s) = some r := by simp [waiting, oldestWith, map]
  rw [unloadSettled, oldest]

theorem unloadSettled_none {s : State}
    (none : s.co.waiting = none ∨ s.wt.map = [] ∨ ∃ r, s.wt.map.head? = some r ∧ s.co.waiting ≠ some r.serial) :
    unloadSettled s = s := by
  have oldest : s.co.waiting.bind (oldestWith s) = .none := by
    rcases none with waiting | map | ⟨r, head, other⟩
    · rw [waiting, Option.bind_none]
    · simp [oldestWith, map]
    · cases waiting : s.co.waiting with
      | none => rfl
      | some n =>
        have differs : (r.serial == n) = false := by
          rw [beq_eq_false_iff_ne]
          exact fun same => other (same ▸ waiting)
        rw [Option.bind_some, oldestWith, head, Option.filter_some, differs]
        rfl
  rw [unloadSettled, oldest]

theorem unloadSettled_accountsOnly (s : State) : AccountsOnly s (unloadSettled s) := by
  unfold unloadSettled
  split
  · exact (tallySegment_accountsOnly s _ _).trans (followRun_accountsOnly _ _ _)
  · exact .refl s

/-! ### The abandonment writes (R51) -/

/-- The abandonment write of an order (R51). -/
def abandonment (r : InFlight) : Transaction := .abandonWrite r.slot (resultWords r .abandoned)

theorem abandon_queue (rs : List InFlight) (s : State) :
    rs.foldl abandonOrder s =
      { s with xi.queue := s.xi.queue ++ (if s.xi.suspended then [] else rs.map abandonment) } := by
  induction rs generalizing s with
  | nil => cases free : s.xi.suspended <;> simp
  | cons r rest ih =>
    rw [List.foldl_cons, ih, abandonOrder, handOver]
    cases free : s.xi.suspended <;> simp [enqueue, abandonment, free]

theorem abandonments_kept (rs : List InFlight) :
    (rs.map abandonment).filter (fun t => !isOrderRead t) = rs.map abandonment := by
  rw [List.filter_eq_self]
  intro t member
  obtain ⟨r, -, rfl⟩ := List.mem_map.1 member
  rfl

theorem abandonments_noReports (rs : List InFlight) : waitingReports (rs.map abandonment) = 0 := by
  rw [waitingReports, List.length_eq_zero_iff, List.filter_eq_nil_iff]
  intro t member
  obtain ⟨r, -, rfl⟩ := List.mem_map.1 member
  exact Bool.false_ne_true

/-- The abandonment writes queued, the reads of the next order discarded (R29, R51). -/
def unloadAbandoned (s : State) : State :=
  { s with xi := { s.xi with
    queue := s.xi.queue.filter (fun x => !isOrderRead x) ++
      (if s.xi.suspended then [] else (s.os.table.filter fun r => !r.closing).map abandonment)
    inHand := s.xi.inHand.map discardInHand } }

theorem abandonOrders_abandons (s : State) : abandonOrders s = { unloadAbandoned s with os := resetSequencer } := by
  rw [abandonOrders, abandon_queue]
  unfold discardReads unloadAbandoned
  dsimp only
  rw [List.filter_append, apply_ite (List.filter fun t => !isOrderRead t), abandonments_kept, List.filter_nil]

/-- A read of the next order in hand, refusal writes apart, is discarded (R29; log entry 9). -/
theorem discardInHand_discards {h : InHand} (read : isOrderRead h.transaction = true) (reading : h.stage ≠ .refusing) :
    (discardInHand h).discarded = true := by
  have discards : (isOrderRead h.transaction && h.stage != .refusing) = true := by simp [read, reading]
  rw [discardInHand, if_pos discards]

/-! ### HOLD_OFF and the end of the command -/

/-- HOLD_OFF at UNLOAD (R147, R155; log entry 25). -/
def unloadPosting (s : State) : Posting :=
  { kind := .holdOff, tag := 0#32, station := 0#32, serial := 1#32, clock := s.clock,
    first := wordOfNat s.lc.holds.mask, second := s.clock - s.lc.holdStart }

theorem postingLost_congr {s t : State} (xi : t.xi = s.xi) : postingLost t = postingLost s := by
  rw [postingLost, postingLost, xi]

theorem xiAfterReport_congr {s t : State} (xi : t.xi = s.xi) (clock : t.clock = s.clock) (p : Posting) :
    xiAfterReport t p = xiAfterReport s p := by
  rw [xiAfterReport, xiAfterReport, postingLost_congr xi, xi, clock]

theorem eventsAfterReport_congr {s t : State} (xi : t.xi = s.xi) (events : t.events = s.events) :
    eventsAfterReport t = eventsAfterReport s := by
  rw [eventsAfterReport, eventsAfterReport, postingLost_congr xi, events]

/-- HOLD_OFF queued if a cause stands (R155). -/
def unloadReported (s v : State) : State := if s.lc.holds.any then afterReport v (unloadPosting s) else v

/-- The line closed: what is handed over, and where the line stands, before the command may end. -/
theorem closeLine_reports {s v z : State} (xi : z.xi = v.xi) (events : z.events = v.events) (lc : z.lc = s.lc)
    (clock : z.clock = s.clock) (sameClock : v.clock = s.clock)
    (entry : z.os = resetSequencer) (fresh : z.wt = resetTracker) (busy : z.busy = true) :
    (closeLine z).xi = (unloadReported s v).xi ∧ (closeLine z).events = (unloadReported s v).events ∧
      (closeLine z).lc.line = .unloaded ∧ (closeLine z).busy = true := by
  have closed (u : State) (b : u.busy = true) :
      (judgePermit { u with lc := { resetLine with holdStart := u.lc.holdStart }, prof := noProfile }).lc.line = .unloaded ∧
      (judgePermit { u with lc := { resetLine with holdStart := u.lc.holdStart }, prof := noProfile }).busy = true := ⟨rfl, b⟩
  have tag : entryTag z = 0#32 := by rw [entryTag, entryRecord, entry]; rfl
  have posting : postingOf z (holdOffReport z z.lc.holds) z.clock = unloadPosting s := by
    rw [holdOffReport, tag, fresh, lc, clock]
    rfl
  have reported : (unloadHoldOff z).xi = (unloadReported s v).xi ∧ (unloadHoldOff z).events = (unloadReported s v).events ∧
      (unloadHoldOff z).busy = true := by
    rw [unloadHoldOff, unloadReported, lc]
    split
    · rw [← lc, post_eq, posting]
      exact ⟨xiAfterReport_congr xi (clock.trans sameClock.symm) _, eventsAfterReport_congr xi events, busy⟩
    · exact ⟨xi, events, busy⟩
  obtain ⟨same, sameEvents, stays⟩ := reported
  exact ⟨same, sameEvents, closed _ stays⟩

/-- An UNLOAD stays busy while a transaction is queued or in hand, and ends with none (R166, R176). -/
theorem endUnload_last {z : State} (line : z.lc.line = .unloaded) (busy : z.busy = true) :
    (z.xi.queue ≠ [] ∨ z.xi.inHand.isSome = true →
      (endUnload z).busy = true ∧ (endUnload z).xi = z.xi ∧ (endUnload z).events = z.events) ∧
    (z.xi.queue = [] → z.xi.inHand = none →
      (endUnload z).busy = false ∧ (endUnload z).xi = resetExchange ∧
      (endUnload z).events = { z.events with cmdDone := true }) := by
  constructor
  · intro waits
    rw [endUnload_goes_on (.inr (waits.imp_right Option.isSome_iff_ne_none.1))]
    exact ⟨busy, rfl, rfl⟩
  · intro queue inHand
    rw [endUnload_unloaded line, unloadServed, if_pos ⟨busy, queue, inHand⟩]
    exact ⟨rfl, rfl, rfl⟩

/-- The end of an UNLOAD by what its last writes and HOLD_OFF leave in the exchange interface. -/
theorem unloadLine_ends (s : State) (y : State) (left : y = unloadReported s (unloadAbandoned (unloadSettled s))) :
    (y.xi.queue ≠ [] ∨ y.xi.inHand.isSome = true →
      (unloadLine s).busy = true ∧ (unloadLine s).xi = y.xi ∧ (unloadLine s).events = y.events) ∧
    (y.xi.queue = [] → y.xi.inHand = none →
      (unloadLine s).busy = false ∧ (unloadLine s).xi = resetExchange ∧
      (unloadLine s).events = { y.events with cmdDone := true }) := by
  subst left
  obtain ⟨only, -⟩ := unloadSettled_accountsOnly s
  rw [unloadLine, dropFabric_settled, abandonOrders_abandons]
  generalize unloadSettled s = w at only ⊢
  have lc : w.lc = s.lc := by rw [only]
  have clock : w.clock = s.clock := by rw [only]
  obtain ⟨xi, events, line, busy⟩ := closeLine_reports (s := s) (v := unloadAbandoned w)
    (z := resetBlocks { unloadAbandoned { w with busy := true, wt := resetTracker, co := resetCloseOut } with
      os := resetSequencer }) rfl rfl lc clock clock rfl rfl rfl
  rw [← xi, ← events]
  exact endUnload_last line busy

/-- During a suspension nothing is queued at an UNLOAD, and it ends at once (R162, R176). -/
theorem unloadLine_suspended {s : State} (suspended : s.xi.suspended = true) (law : SuspensionLaw s) :
    (unloadLine s).busy = false ∧ (unloadLine s).xi = resetExchange ∧ (unloadLine s).events.cmdDone = true := by
  obtain ⟨queue, inHand, -⟩ := law suspended
  have ends := unloadLine_ends s _ rfl
  obtain ⟨only, kept⟩ := unloadSettled_accountsOnly s
  generalize unloadSettled s = w at only kept ends
  have stays : w.xi.suspended = true := by rw [only]; exact suspended
  have wQueue : w.xi.queue = [] := (kept suspended).trans queue
  have wHand : w.xi.inHand = none := by rw [only]; exact inHand
  have vQueue : (unloadAbandoned w).xi.queue = [] := by simp [unloadAbandoned, wQueue, stays]
  have vHand : (unloadAbandoned w).xi.inHand = none := by simp [unloadAbandoned, wHand]
  have vStays : (unloadAbandoned w).xi.suspended = true := stays
  have left : (unloadReported s (unloadAbandoned w)).xi.queue = [] ∧
      (unloadReported s (unloadAbandoned w)).xi.inHand = none := by
    rw [unloadReported]
    split
    · rw [afterReport_queueOnly]
      exact ⟨(xiAfterReport_suspended vStays _).1.trans vQueue, vHand⟩
    · exact ⟨vQueue, vHand⟩
  obtain ⟨busy, xi, events⟩ := ends.2 left.1 left.2
  exact ⟨busy, xi, by rw [events]⟩

/-- With no close-out waiting and room for HOLD_OFF, the queue of a busy UNLOAD (R51, R155, R176). -/
theorem unloadLine_queue {s : State} (free : s.xi.suspended = false) (none : s.co.waiting = none)
    (room : waitingReports s.xi.queue < 48) (busy : (unloadLine s).busy = true) :
    (unloadLine s).xi.queue = s.xi.queue.filter (fun x => !isOrderRead x) ++
      (s.os.table.filter fun r => !r.closing).map abandonment ++
      (if s.lc.holds.any then [.report (unloadPosting s)] else []) := by
  have ends := unloadLine_ends s _ rfl
  rw [unloadSettled_none (.inl none)] at ends
  have vFree : (unloadAbandoned s).xi.suspended = false := free
  have vQueue : (unloadAbandoned s).xi.queue = s.xi.queue.filter (fun x => !isOrderRead x) ++
      (s.os.table.filter fun r => !r.closing).map abandonment := by
    simp [unloadAbandoned, free]
  have fewer : waitingReports (s.xi.queue.filter fun x => !isOrderRead x) ≤ waitingReports s.xi.queue :=
    (List.filter_sublist.filter _).length_le
  have vRoom : waitingReports (unloadAbandoned s).xi.queue < 48 := by
    rw [vQueue, waitingReports_append, abandonments_noReports]
    omega
  have same : (unloadLine s).xi = (unloadReported s (unloadAbandoned s)).xi := by
    by_cases waits : (unloadReported s (unloadAbandoned s)).xi.queue = [] ∧
        (unloadReported s (unloadAbandoned s)).xi.inHand = .none
    · exact Bool.noConfusion (busy.symm.trans (ends.2 waits.1 waits.2).1)
    · refine (ends.1 ?_).2.1
      rw [not_and_or] at waits
      exact waits.imp_right Option.isSome_iff_ne_none.2
  rw [same, unloadReported]
  split
  · rw [afterReport_queued vFree vRoom, vQueue]
  · rw [vQueue, List.append_nil]

theorem exec_unload {s : State} (may : Commandable s) (ready : s.lc.line = .ready) : exec .unload s = .next (unloadLine s) := by
  obtain ⟨reset, idle, -⟩ := may
  have accepted : (s.lc.line == .ready) = true := beq_iff_eq.2 ready
  exact congrArg Host.Outcome.next (judgeCommand_accepted reset idle accepted unloadLine)

/-- An UNLOAD stays busy, or ends with the exchange interface at its reset values (R166, R176). -/
theorem unloadLine_busy_or_ended (s : State) :
    (unloadLine s).busy = true ∨ (unloadLine s).xi = resetExchange ∧ (unloadLine s).events.cmdDone = true := by
  obtain ⟨waits, ends⟩ := unloadLine_ends s _ rfl
  by_cases left : (unloadReported s (unloadAbandoned (unloadSettled s))).xi.queue = [] ∧
      (unloadReported s (unloadAbandoned (unloadSettled s))).xi.inHand = none
  · obtain ⟨-, xi, events⟩ := ends left.1 left.2
    exact .inr ⟨xi, by rw [events]⟩
  · rw [not_and_or] at left
    exact .inl (waits (left.imp_right Option.isSome_iff_ne_none.2)).1

/-- Settles O44: the waiting close-out, the abandonment writes and HOLD_OFF in order, and the end of the command. -/
theorem unloadEndsTheProfile : Obligations.UnloadEndsTheProfile := by
  unfold Obligations.UnloadEndsTheProfile
  intro s may ready
  have shape := unloadLine_eq s
  have busy := unloadLine_busy_or_ended s
  have queue := @unloadLine_queue s
  have ends := unloadLine_ends s
  have suspended := @unloadLine_suspended s
  have free : (unloadSettled s).xi.suspended = s.xi.suspended := by rw [(unloadSettled_accountsOnly s).1]
  refine ⟨unloadLine s, unloadSettled s, unloadAbandoned (unloadSettled s), exec_unload may ready, ?_⟩
  generalize unloadLine s = t at *
  have blocks : t.lc = { resetLine with holdStart := s.lc.holdStart } ∧ t.wt = resetTracker ∧ t.cp = resetPlanner ∧
      t.os = resetSequencer ∧ t.sc = Vector.replicate 16 resetChannel ∧ t.pu = resetPhaseUnit ∧ t.mr = resetReader ∧
      t.ci = resetCure ∧ t.co = resetCloseOut ∧ t.prof = noProfile ∧
      t.exbase = s.exbase ∧ t.pins = s.pins ∧ t.clock = s.clock ∧ t.pending = s.pending ∧ t.mem = s.mem := by
    obtain ⟨x, e, b, n, shape⟩ := shape
    rw [shape]
    exact ⟨rfl, rfl, rfl, rfl, rfl, rfl, rfl, rfl, rfl, rfl, rfl, rfl, rfl, rfl, rfl⟩
  obtain ⟨lc, wt, cp, os, sc, pu, mr, ci, co, prof, exbase, pins, clock, pending, mem⟩ := blocks
  have chan (i : Station) : t.chan i = resetChannel := by
    rw [State.chan, sc]
    exact Vector.getElem_replicate i.isLt
  refine ⟨lc, wt, cp, os, chan, pu, mr, ci, co, prof, exbase, pins, clock, pending, mem, busy,
    fun free none room busy => queue free none room busy, ?_, unloadSettled_none, ?_,
    fun _ => discardInHand_discards, ends, fun on law => suspended on law⟩
  · rintro n r rest d waiting map rfl rfl
    exact unloadSettled_waiting waiting map
  · rw [← free]
    rfl

end Sys2Proof.Machine
end
